-- ==== Sys2Proof/Word.lean ====
section
/-! DEFINITION. The word types and their plainest arithmetic (R5, R8): bytes, 32-bit words, 64-bit words,
and the `wrap` and `sext` of the manual's pseudocode. -/

namespace Sys2Proof

/-- One byte. -/
abbrev Byte := BitVec 8
/-- One 32-bit register. -/
abbrev Word := BitVec 32
/-- A 64-bit value: an even-odd register pair, an address, an instruction word. -/
abbrev DWord := BitVec 64

/-- `wrap(x, n)` of R8: x mod 2^n. -/
def wrapNat (n x : Nat) : Nat := x % 2 ^ n

/-- `sext(x, n)` of R8: the low n bits of x as a two's-complement number. -/
def sextNat (n x : Nat) : Int :=
  let y := x % 2 ^ n
  if 2 ^ n ≤ 2 * y then (y : Int) - 2 ^ n else y

/-- The 64-bit value of a pair, low word first (scope chapter, registers). -/
def pairOf (lo hi : Word) : DWord := hi ++ lo

def loWord (x : DWord) : Word := x.setWidth 32
def hiWord (x : DWord) : Word := (x >>> 32).setWidth 32

/-- Bits [h:l] of x as an unsigned number (R8). -/
def bits (h l x : Nat) : Nat := (x / 2 ^ l) % 2 ^ (h + 1 - l)

/-- Bit i of x. -/
def bit (i x : Nat) : Bool := (x / 2 ^ i) % 2 == 1

def b2n (b : Bool) : Nat := if b then 1 else 0

def ceilDiv (a b : Nat) : Nat := (a + b - 1) / b

/-- x rounded down to a multiple of m. -/
def alignDown (m x : Nat) : Nat := x / m * m

/-- A number's n little-endian bytes (R5). -/
def toBytes : Nat → Nat → List Byte
  | 0, _ => []
  | n + 1, x => BitVec.ofNat 8 x :: toBytes n (x / 256)

/-- The number of little-endian bytes (R5). -/
def ofBytes : List Byte → Nat
  | [] => 0
  | b :: bs => b.toNat + 256 * ofBytes bs

end Sys2Proof
end

