-- ==== Sys2Proof/Config.lean ====
section
/-! DEFINITION. What an implementation fixes, and the free values. A free value is an opaque constant: nothing in Lean can
evaluate it, so a statement about it holds for every value. The functions take the counter `State.draws` (a fresh value at each
use) or the place that holds the value (one fixed pattern, R3). DESIGN CHOICE, log entries 2, 3
and 4. -/

namespace Sys2Proof.Config

/-- An undefined 32-bit result (R3), one per draw. -/
opaque freeWord : Nat → Word
/-- An unspecified two-way choice (R3), one per draw. -/
opaque freeBool : Nat → Bool
/-- An unspecified choice among several listed outcomes, one per draw; used modulo their number. -/
opaque choose : Nat → Nat
/-- Ticks of the reference timer that pass with one step; every latency is typical (R6), so any number may. -/
opaque elapsed : Nat → Nat
/-- An undefined byte of a scratchpad share, fixed per fill and offset (R66, R228). -/
opaque undefByte : Nat → Nat → Byte
/-- An undefined element of an accumulator tile or of a granule, fixed per fill and place (R66, R50). -/
opaque undefWord : Nat → Nat → Word
/-- The bits an `.ax` form returns for its operands (R139): the form's number, and its inputs. -/
opaque ax : Nat → Word → Word → Word
/-- Which spare unit, path or order the part takes where the manual leaves it to the part (log entries 27 and 28). -/
opaque pick : Nat → Nat → Nat
/-- The contents of an answer that lies outside the manual (SPDM bodies, IDCODE): the kind and a byte index (DESIGN CHOICE, log entry 16). -/
opaque answer : Nat → Nat → Byte

/-- The code of the structure in the detail field of a data-error frame, by class of Table 24.4; its encoding is not stated (DESIGN CHOICE, log entry 24). -/
opaque structureCode : Nat → DWord
/-- The bytes that the part writes to a save slot for a team, by a number of the save; their layout is not architectural (R332; DESIGN CHOICE,
log entry 26). -/
opaque saveImage : Nat → List Byte
/-- Does a firmware image bear a good signature, and which security version does it carry (R397)? Both lie in the image's own bytes, whose
format is not the manual's (DESIGN CHOICE, log entry 53). -/
opaque signed : List (Nat × Byte) → Bool
opaque imageVersion : List (Nat × Byte) → Nat
/-- Byte of the digest of a firmware image (R399). -/
opaque digest : List (Nat × Byte) → Nat → Byte
/-- The vendor ID assigned to Ivrel (R390). -/
opaque vendorId : Nat
/-- Spare rows of an HBM stack; their number is not stated (DESIGN CHOICE, log entry 65). -/
opaque spareRows : Nat → Nat → Nat

/-- The row of its stack in which an HBM address lies; the map is not stated (DESIGN CHOICE, log entry 65). -/
opaque rowOf : Nat → Nat

/-- HBM bytes populated on each die (Table 13.2). -/
def hbmPopulated : Nat := 256000000000
/-- Class code and device ID of the PCI Express function (R390). -/
def classCode : Nat := 0x120000
def deviceId : Nat := 0x2408
/-- Bytes of the recovery window, and at most of an image (R397). -/
def recoveryWindow : Nat := 2 ^ 26
/-- Throttle points of junction and HBM, in 1/16 °C (Table 24.7). -/
def junctionThrottle : Nat := 105 * 16
def hbmThrottle : Nat := 95 * 16
/-- Core clock in tenths of a GHz by operating-point hint (Table 18.7). -/
def f10 : Nat → Nat
  | 0 => 30 | 1 => 27 | 2 => 24 | 3 => 21 | 4 => 18 | 5 => 16 | 6 => 14 | _ => 12
/-- Nominal-cycle increment of one core edge in 16.16 fixed point (Table 19.9). -/
def ncInc : Nat → Nat
  | 0 => 0x10000 | 1 => 0x11C72 | 2 => 0x14000 | 3 => 0x16DB7 | 4 => 0x1AAAB | 5 => 0x1E000 | 6 => 0x22492 | _ => 0x28000
/-- Ready stamps in one core cycle: those of a team or core that starts again keep their order within the cycle (R232). -/
def stampUnit : Nat := 2048
/-- The yield hold in core cycles (Table 12.2). -/
def yieldHold : Nat := 64
/-- Collective loss timer in ns (R354). -/
def lossTimer : Nat := 2000000
/-- Ownership lapse and handover offer in ns (R394). -/
def ownerLapse : Nat := 30000000000
def offerLapse : Nat := 5000000000
/-- Register granules, tiles, tags, crews, teams, contexts of a core and its scratchpad in KiB (Table 12.1). -/
def coreGranules : Nat := 64
def coreTiles : Nat := 64
def coreTags : Nat := 64
def coreCrews : Nat := 48
def coreTeams : Nat := 8
def coreContexts : Nat := 4
def coreScratchKiB : Nat := 512
/-- Watch-table entries of one home slice (R262). -/
def watchEntries : Nat := 512
/-- Slots of a fault buffer (R327). -/
def fbSlots : Nat := 16384

end Sys2Proof.Config
end

