-- ==== Sys2Proof/Syntax.lean ====
section
/-! DEFINITION. The syntax: operand kinds and modifiers of the encoded instructions (Tables 5.3 to 5.12), and the one
inductive `Instr`, a constructor per row of spec/opcode_table.json. The encoded instructions come with their fields; the
other rows are the part's own steps and what arrives from outside, with the data each one carries. -/

namespace Sys2Proof

/-- An 8-bit operand code of R49: v0–v191, k0–k62, kz. -/
abbrev Reg := BitVec 8
/-- A predicate number; 7 is reserved or "always"/"true" where a table says so (R83). -/
abbrev PReg := BitVec 3

/-- The guard field (Table 5.3): negate and predicate, 7 = always. -/
structure Guard where
  neg : Bool
  p : PReg
deriving DecidableEq, Repr

/-- A link register and its T bit (R120, R83). -/
structure LinkReg where
  reg : Reg
  t : Bool
deriving DecidableEq, Repr

/-- A predicate source (R110): predicate or 7 = true, and inversion. -/
structure PSrc where
  neg : Bool
  p : PReg
deriving DecidableEq, Repr

inductive Rnd | rne | rtz | rdn | rup | sr
deriving DecidableEq, Repr
inductive SatMode | wrap | satSgn | satUns
deriving DecidableEq, Repr
inductive Ext64 | pair | zx | sx
deriving DecidableEq, Repr
inductive ICmp | eq | ne | lt | le | gt | ge
deriving DecidableEq, Repr
inductive FCmp | eq | ne | lt | le | gt | ge | uo | ord
deriving DecidableEq, Repr
inductive MoviMode | w32 | sx | zx
deriving DecidableEq, Repr
inductive IntDst | int32 | int8 | uint8
deriving DecidableEq, Repr
inductive CvtFmt | f32 | bf16 | f16
deriving DecidableEq, Repr
inductive Size | b8 | b16 | b32 | b64 | b128
deriving DecidableEq, Repr
inductive Scope | crew | team | cluster | device | system
deriving DecidableEq, Repr
inductive Order | rlx | acq | rel | ar
deriving DecidableEq, Repr
inductive Hint | normal | strm | l2 | keep
deriving DecidableEq, Repr
inductive AtomOp | add | minU | minS | maxU | maxS | and | or | xor | exch | cas | fadd
deriving DecidableEq, Repr
inductive ShflMode | from | rot | rev | swap
deriving DecidableEq, Repr
inductive VoteCond | none | some | every | mixed
deriving DecidableEq, Repr
inductive VoteMode
  | mask
  | count
  | test (c : VoteCond)
deriving DecidableEq, Repr
inductive MatchMode | first | rank | kinds
deriving DecidableEq, Repr
inductive CredOp | add | minU | minS | maxU | maxS | and | or | xor | fadd | fmin | fmax
deriving DecidableEq, Repr
inductive BarOp | arv | wait | sync
deriving DecidableEq, Repr
inductive BarLevel | crew | team | cluster | grid
deriving DecidableEq, Repr
inductive GrowMode | blk | try | trap
deriving DecidableEq, Repr
inductive DrainFmt | f32 | bf16 | f16 | e4m3 | e5m2 | q
deriving DecidableEq, Repr

/-- The special registers of Table 4.4. -/
inductive SReg
  | tid | lane | crew | teamX | teamY | teamZ | nteams | crank | cshape | core | die | depth | rgen
  | cyc | ncyc | ref | tagmap | tlstat | detlvl | trapvec | fault
deriving DecidableEq, Repr

/-- The modifier fields of the memory form (R84). -/
structure MemF where
  size : Size
  scope : Scope
  order : Order
  hint : Hint
  off : BitVec 11
deriving DecidableEq, Repr

/-- MDRAIN's operands (Table 5.11): tile, destination, pitch, trailing pairs and mode bits. -/
structure Drain where
  glob : Bool
  fmt : DrainFmt
  tk : Bool
  sat : Bool
  sr : Bool
  add : Bool
  tile : BitVec 6
  amax : Option Scope
  d : Reg
  a : Reg
  b : Reg
  c : Reg
deriving DecidableEq, Repr

/-- Which barrier: level, its owner (team id for crew and team level, cluster id, grid id), crew slot, index. -/
structure BarRef where
  level : BarLevel
  owner : Nat
  crew : Nat
  index : Nat
deriving DecidableEq, Repr

/-- The management masters of R393, and JTAG and board paths aside. -/
inductive Master | host | bmc
deriving DecidableEq, Repr

/-- An instance of a protected structure, with its class of Table 24.4. -/
structure ErrInst where
  cls : Nat
  die : Nat
  unit : Nat
  detail : Nat
deriving DecidableEq, Repr

/-- What a UALink peer asks of this part's exported memory (R339). -/
inductive PeerReq
  | read (off len : Nat)
  | write (off : Nat) (data : List Byte)
  | atom (off : Nat) (op : AtomOp) (wide : Bool) (v cmp : DWord)
deriving DecidableEq, Repr

/-- What a partner of the PCI Express link has: lanes, and GT/s (R390). -/
structure LinkSpeed where
  width : Nat
  rate : Nat
deriving DecidableEq, Repr

/-- What enumeration configures: AtomicOp Requester Enable, and BAR 2's size as a power of two (R391, R392). -/
structure FnConfig where
  atomicReq : Bool
  bar2 : Nat
deriving DecidableEq, Repr

inductive Instr
  -- the issue slot
  | issueSelection (core : Nat)
  -- integer, address, predicate, move (Table 5.6)
  | iadd (g : Guard) (t : Bool) (m : SatMode) (d a b : Reg)
  | isub (g : Guard) (t : Bool) (m : SatMode) (d a b : Reg)
  | imul (g : Guard) (t : Bool) (d a b : Reg)
  | imulhi (g : Guard) (t sgn : Bool) (d a b : Reg)
  | imad (g : Guard) (t : Bool) (d a b c : Reg)
  | imin (g : Guard) (t sgn : Bool) (d a b : Reg)
  | imax (g : Guard) (t sgn : Bool) (d a b : Reg)
  | iabs (g : Guard) (t sat : Bool) (d a : Reg)
  | iadd64 (g : Guard) (t : Bool) (m : Ext64) (d a b : Reg)
  | lea (g : Guard) (t sx : Bool) (sh : BitVec 3) (d a b : Reg)
  | and (g : Guard) (t : Bool) (d a b : Reg)
  | or (g : Guard) (t : Bool) (d a b : Reg)
  | xor (g : Guard) (t : Bool) (d a b : Reg)
  | andn (g : Guard) (t : Bool) (d a b : Reg)
  | shl (g : Guard) (t : Bool) (d a b : Reg)
  | shr (g : Guard) (t : Bool) (d a b : Reg)
  | sar (g : Guard) (t : Bool) (d a b : Reg)
  | rotl (g : Guard) (t : Bool) (d a b : Reg)
  | clz (g : Guard) (t : Bool) (d a : Reg)
  | popc (g : Guard) (t : Bool) (d a : Reg)
  | brev (g : Guard) (t : Bool) (d a : Reg)
  | bfx (g : Guard) (t sx : Bool) (d a b : Reg)
  | bfi (g : Guard) (t : Bool) (d a b c : Reg)
  | prmt (g : Guard) (t : Bool) (d a b c : Reg)
  | sel (g : Guard) (t neg : Bool) (p : PReg) (d a b : Reg)
  | iset (g : Guard) (uns : Bool) (m : ICmp) (d a b : Reg)
  | plop (g : Guard) (tt : BitVec 4) (d : Reg) (x y : PSrc)
  | mov (g : Guard) (t b64 : Bool) (d a : Reg)
  | movp (g : Guard) (t toPred : Bool) (r : Reg)
  | movi (g : Guard) (m : MoviMode) (d : Reg) (imm : Word)
  | iaddImm (g : Guard) (d a : Reg) (imm : Word)
  | imulImm (g : Guard) (d a : Reg) (imm : Word)
  | andImm (g : Guard) (d a : Reg) (imm : Word)
  | orImm (g : Guard) (d a : Reg) (imm : Word)
  | xorImm (g : Guard) (d a : Reg) (imm : Word)
  | andnImm (g : Guard) (d a : Reg) (imm : Word)
  | shlImm (g : Guard) (d a : Reg) (imm : Word)
  | shrImm (g : Guard) (d a : Reg) (imm : Word)
  | sarImm (g : Guard) (d a : Reg) (imm : Word)
  | rotlImm (g : Guard) (d a : Reg) (imm : Word)
  | iminImm (g : Guard) (uns : Bool) (d a : Reg) (imm : Word)
  | imaxImm (g : Guard) (uns : Bool) (d a : Reg) (imm : Word)
  | iadd64Imm (g : Guard) (d a : Reg) (imm : Word)
  -- floating point, conversion, random numbers (Table 5.7)
  | fadd (g : Guard) (t : Bool) (rnd : Rnd) (d a b : Reg)
  | fsub (g : Guard) (t : Bool) (rnd : Rnd) (d a b : Reg)
  | fmul (g : Guard) (t : Bool) (rnd : Rnd) (d a b : Reg)
  | ffma (g : Guard) (t : Bool) (rnd : Rnd) (d a b c : Reg)
  | fmin (g : Guard) (t : Bool) (d a b : Reg)
  | fmax (g : Guard) (t : Bool) (d a b : Reg)
  | fset (g : Guard) (m : FCmp) (d a b : Reg)
  | fclass (g : Guard) (t : Bool) (d a : Reg)
  | fscale (g : Guard) (t : Bool) (rnd : Rnd) (d a b : Reg)
  | frnd (g : Guard) (t : Bool) (rnd : Rnd) (d a : Reg)
  | hadd2 (g : Guard) (t bf : Bool) (rnd : Rnd) (d a b : Reg)
  | hmul2 (g : Guard) (t bf : Bool) (rnd : Rnd) (d a b : Reg)
  | hfma2 (g : Guard) (t bf : Bool) (rnd : Rnd) (d a b c : Reg)
  | frcp (g : Guard) (t ax : Bool) (d a : Reg)
  | frsq (g : Guard) (t ax : Bool) (d a : Reg)
  | fsqrt (g : Guard) (t ax : Bool) (rnd : Rnd) (d a : Reg)
  | fdiv (g : Guard) (t ax : Bool) (rnd : Rnd) (d a b : Reg)
  | fexp2 (g : Guard) (t ax : Bool) (d a : Reg)
  | flog2 (g : Guard) (t ax : Bool) (d a : Reg)
  | fsin (g : Guard) (t ax : Bool) (d a : Reg)
  | fcos (g : Guard) (t ax : Bool) (d a : Reg)
  | f2i (g : Guard) (t : Bool) (m : IntDst) (rnd : Rnd) (d a : Reg)
  | i2f (g : Guard) (t uns : Bool) (rnd : Rnd) (d a : Reg)
  | fcvt (g : Guard) (t sat : Bool) (src dst : CvtFmt) (rnd : Rnd) (d a c : Reg)
  | qcvt (g : Guard) (t sat sr : Bool) (code : BitVec 8) (d a b c : Reg)
  | dqcvt (g : Guard) (t : Bool) (code : BitVec 8) (d a : Reg)
  | mxq (g : Guard) (t sr : Bool) (d a b : Reg)
  | rng (g : Guard) (t : Bool) (d a b : Reg)
  | rngf (g : Guard) (t : Bool) (d a b : Reg)
  -- memory (Table 5.8)
  | ld (g : Guard) (sx : Bool) (m : MemF) (r base : Reg)
  | st (g : Guard) (m : MemF) (r base : Reg)
  | lds (g : Guard) (sx : Bool) (m : MemF) (r base : Reg)
  | sts (g : Guard) (m : MemF) (r base : Reg)
  | ldp (g : Guard) (size : Size) (off : BitVec 11) (r base : Reg)
  | pref (g : Guard) (hint : Hint) (off : BitVec 11) (base : Reg)
  | atom (g : Guard) (op : AtomOp) (m : MemF) (d r base : Reg)
  | atoms (g : Guard) (op : AtomOp) (m : MemF) (d r base : Reg)
  | red (g : Guard) (op : AtomOp) (m : MemF) (r base : Reg)
  | fence (g : Guard) (order : Order) (scope : Scope)
  | mwait (g : Guard) (size : Size) (off : BitVec 11) (base : Reg)
  | spill (g : Guard) (hint : Hint) (off : BitVec 11) (r base : Reg)
  | fill (g : Guard) (hint : Hint) (off : BitVec 11) (r base : Reg)
  -- cross-lane, barriers, tickets, registers, waits (Table 5.9)
  | shfl (g : Guard) (t : Bool) (m : ShflMode) (w : BitVec 3) (d a b c : Reg)
  | vote (g : Guard) (t : Bool) (m : VoteMode) (src : PSrc) (d : Reg)
  | matchLanes (g : Guard) (t b64 : Bool) (m : MatchMode) (d a : Reg)
  | credux (g : Guard) (t : Bool) (op : CredOp) (d a : Reg)
  | elect (g : Guard) (d : Reg)
  | bar (g : Guard) (op : BarOp) (level : BarLevel) (index : BitVec 4)
  | barrierPhaseComplete (b : BarRef)
  | tkwait (g : Guard) (n : BitVec 2) (d : Reg)
  | tkpass (g : Guard) (n : BitVec 2)
  | regroup (g : Guard) (pack : Bool) (key d : Reg)
  | regroupStep (team : Nat)
  | reggrow (g : Guard) (m : GrowMode) (n : BitVec 3) (d : Reg)
  | granuleGrant (core : Nat)
  | regshrink (g : Guard) (n : BitVec 3)
  | waitc (g : Guard) (ld st cp tl : BitVec 4)
  -- copy and matrix (Table 5.10)
  | cpy (g : Guard) (e : Size) (tag : BitVec 6) (a b c : Reg)
  | cpym (g : Guard) (e : Size) (tag : BitVec 6) (d a b c : Reg)
  | cpyo (g : Guard) (e : Size) (tag : BitVec 6) (a b c : Reg)
  | cpyx (g : Guard) (e : Size) (tag : BitVec 6) (a b c : Reg)
  | copyComplete (op : Nat)
  | tgwany (g : Guard) (a : Reg)
  | tgwall (g : Guard) (a : Reg)
  | tgff (g : Guard) (t clr : Bool) (d a : Reg)
  | tgclr (g : Guard) (a : Reg)
  | mfence (g : Guard)
  | missue (g : Guard) (win : Bool) (a b c : Reg)
  | mgang (g : Guard) (win : Bool) (a b c : Reg)
  | tileOpComplete (op : Nat)
  | gangPartEnd (op rank : Nat)
  | twait (g : Guard) (d : Reg)
  | mzero (g : Guard) (tile : BitVec 6)
  | mload (g : Guard) (tile : BitVec 6) (a : Reg)
  | mread (g : Guard) (t hi : Bool) (col tile : BitVec 6) (d : Reg)
  | mwrite (g : Guard) (hi : Bool) (col tile : BitVec 6) (a : Reg)
  | mswr (g : Guard) (t clr : Bool) (tile : BitVec 6) (d : Reg)
  | mdrain (g : Guard) (x : Drain)
  | tkDrainStart (op : Nat)
  -- control flow (Table 5.12)
  | bra (g : Guard) (imm : Word)
  | brx (g : Guard) (a : Reg)
  | call (g : Guard) (d : Reg) (imm : Word)
  | callx (g : Guard) (d : LinkReg) (a : Reg) (entry : BitVec 11)
  | ret (g : Guard) (a : Reg)
  | exit (g : Guard)
  | nop (g : Guard)
  | yield (g : Guard)
  | yieldHoldExpiry (team tid : Nat)
  -- system (Table 5.12)
  | sread (g : Guard) (t : Bool) (sel : SReg) (d : Reg)
  | swrite (g : Guard) (sel : SReg) (a : Reg)
  | claunch (g : Guard) (a : Reg)
  | cjoin (g : Guard)
  | trap (g : Guard) (code : BitVec 11)
  | bpt (g : Guard)
  | icsync (g : Guard) (scope : Scope)
  | rett (g : Guard)
  -- completions of the memory system and the core
  | loadReturn (acc : Nat)
  | storeAccept (acc : Nat)
  | lateFault (acc : Nat)
  | translationWalk (die : Nat)
  | mwaitWake (line : Nat)
  | waveOpen (team : Nat)
  | teamRetire (team : Nat)
  | gridRetire (grid : Nat)
  | watchdogFire (team : Nat)
  | clusterPlacement (grid die x y : Nat)
  | preemption (cluster : Nat)
  | restore (cluster die x y : Nat)
  -- queues and packets
  | queueEnable (q : Nat) (v : DWord)
  | queueDisable (q : Nat) (v : DWord)
  | qwp (q : Nat) (v : Word)
  | qresume (q : Nat) (v : DWord)
  | destroyFinish (q : Nat) (cmd : List DWord)
  | destroyKill (q : Nat) (cmd : List DWord)
  | packetFetch (q : Nat)
  | nopPacket (q : Nat)
  | launch (q : Nat)
  | coll (q : Nat)
  | copyPacket (q : Nat)
  | copyPacketComplete (q id : Nat)
  | signalPacket (q : Nat)
  | waitv (q : Nat)
  | waitvWake (q : Nat)
  | stepPacket (q : Nat)
  | graph (q : Nat)
  | cond (q : Nat)
  | whileNode (q : Nat)
  -- collective steps and messages
  | collSend (c : Nat)
  | collRecv (c : Nat)
  | collRrs (c : Nat)
  | collCopy (c : Nat)
  | collWait (c : Nat)
  | collLoop (c : Nat)
  | collEnd (c : Nat)
  | collectiveChunk (group : Word) (src seq first total : Nat) (data : List Byte)
  | collectiveCredit (group : Word) (src seq : Nat)
  | collectiveAbort (group : Word) (src reason : Nat)
  | peerLossTimeout (c rank : Nat)
  | peerRequest (port : Nat) (r : PeerReq)
  | unlistedMessage (type : Byte)
  | ualinkLaneFailure (port lanes : Nat)
  -- host accesses and context commands (Table 19.6)
  | hostApertureAccess (off : Nat) (data : Option (List Byte)) (len : Nat)
  | invalidateTranslations (cmd : List DWord)
  | replay (cmd : List DWord)
  | cancel (cmd : List DWord)
  | suspend (cmd : List DWord)
  | contextResume (cmd : List DWord)
  | terminate (cmd : List DWord)
  | fbrp (die : Nat) (v : DWord)
  -- debug commands and messages (Table 21.2, Table 20.1)
  | halt (slot : Nat) (cmd : List DWord)
  | stepCmd (slot : Nat) (cmd : List DWord)
  | stepReport (slot : Nat)
  | resume (slot : Nat) (cmd : List DWord)
  | resumeEngines (job : Word)
  | resumeCores (job : Word)
  | readCmd (slot : Nat) (cmd : List DWord)
  | writeCmd (slot : Nat) (cmd : List DWord)
  | trigger (slot : Nat) (cmd : List DWord)
  | capabilityRevoke (slot : Nat)
  | sloeHalt (job : Word) (origin : Nat) (seq : Word) (cause : List Byte) (ref : DWord)
  | sloeResume (job : Word) (origin : Nat) (sent : DWord) (delta : Word)
  | sloeCauseReport (job : Word) (entry : List Byte)
  | triggerMessage (job : Word) (origin number : Nat) (ref : DWord)
  | traceWindowEnd (slot : Nat)
  -- clocks, power, service life
  | operatingPointChange (die : Nat)
  | clockStop (die : Nat)
  | relockDone (die : Nat)
  | operatingPointStable (die : Nat)
  | throttle (die point : Nat) (watts tempJ tempHbm : Nat)
  | criticalShutdown (temp : Nat)
  | ageingSample (die : Nat) (ok : List Bool)
  | forcedAgeingSample (die : Nat) (ok : List Bool)
  | correctedError (e : ErrInst)
  | scratchpadBankSpare (core : Nat)
  | dieLoss (die : Nat)
  | claim (m : Master)
  | release (m : Master)
  | mghand (m : Master) (v : DWord)
  | mgbeat (m : Master) (v : DWord)
  | stageImage (m : Master) (v : DWord)
  | abortStaging (m : Master) (v : DWord)
  | firmwareStaged (readOk writeOk : Bool) (first last : Nat)
  | getVersion (m : Master)
  | getCapabilities (m : Master)
  | negotiateAlgorithms (m : Master)
  | getDigests (m : Master)
  | getCertificate (m : Master)
  | challenge (m : Master)
  | getMeasurements (m : Master)
  | registerWrite (m : Master) (off : Nat) (v : DWord)
  | collectiveAcknowledgement (group : Word) (src seq : Nat)
  | peerUnreachable (peer : Nat)
  | portTraining (port lanes : Nat) (peer : Option Nat)
  | pcieLinkTraining (flit : Bool) (lanes : LinkSpeed) (config : FnConfig)
  | ideKm (selective : Bool) (key : DWord) (go : Bool)
  | uncorrectableError (e : ErrInst) (units : List Nat)
  | rowSparing (die row : Nat)
  | tokenBucketFill (die slot : Nat)
  | invalidationComplete (team tid : Nat)
  | fundamentalReset (powerOn held : Bool)
  -- those without data (last: Lean's compiler allows no constructor with fields beyond the 244th)
  | functionLevelReset
  | handoverLapse
  | ownershipLapse
  | bypass
  | idcode
  | samplePreload
  | extest
  | powerLoss
deriving DecidableEq, Repr

end Sys2Proof
end

