-- ==== Sys2Proof/Machine/State.lean ====
section
/-! DEFINITION. The state: everything the spec gives the machine, as plain data. Tables by number are association lists in one
canonical form (keys strictly rising, no entry equal to the default), see Machine/Ops.lean. What the model adds of its own:
`inputs`, `out`, `draws`, `issue` and the counters `nextAcc` and `nextId` (notes/assumptions/3.md and 5.md). -/

namespace Sys2Proof.Machine

/-- A table by number; a key that is not listed holds the table's default. -/
abbrev Tab (α : Type) := List (Nat × α)

/-! ### Threads, crews, teams -/

/-- A fault as the part charges it to a thread (R63): cause, faulting address, access size, resume-after, detail (for a data
error the class of Table 24.4 of the structure: 0 memory, 1 an L2 slice, 2 scratchpad, 3 register file, 4 L1). -/
structure FaultInfo where
  cause : Byte
  addr : Nat
  addrValid : Bool
  sizeCode : Nat
  resumeAfter : Bool
  detail : Nat
  /-- access kind of Table 19.4: 0 read, 1 write, 2 atomic, 3 fetch; none when no memory access raised it. -/
  access : Option Nat
deriving DecidableEq, Repr

/-- How a thread that an ICSYNC in hand keeps from the next clause will enter it (R223): by a transfer, with its link register and call
depth; by falling through; by the delivery of a fault whose frame is written; by RETT; or at the place where a freeze stopped it. -/
inductive Arrival
  | jump (target : Nat) (link : Option (Bool × Reg × Word)) (depth : BitVec 16)
  | fall
  | handler (target : Nat) (f : FaultInfo)
  | rett
  | reenter
deriving DecidableEq, Repr

/-- What a waiting instruction sleeps on (R164, R173, R175, R178, R179, R193, R201, R222, R177). -/
inductive Sleep
  | bar (b : BarRef) (phase : Nat)
  | ticket (n : Nat) (d : Reg)
  | monitor (line : Nat)
  | tagAny (mask : DWord)
  | tagAll (mask : DWord)
  | twait (d : Reg)
  | waitc (ld st cp tl : Nat)
  | cjoin
  | regroup (pack : Bool) (key : Word) (d : Reg)
  | grow (n : Nat) (age : Nat)
deriving DecidableEq, Repr

/-- Ready to run, asleep in a waiting instruction, stopped until the debugger resumes the job (after a BPT or breakpoint its
window is reloaded from its frame, R217), or exited. -/
inductive Run
  | active
  | asleep (w : Sleep)
  | stopped (reload : Bool)
  | exited
deriving DecidableEq, Repr

/-- One slot of the window snapshot (Table 4.6): the instruction at `idx` as it left its slot. -/
structure WinSlot where
  idx : Nat
  lo : Word
  hi : Word
  code : Byte
  guard : Bool
  wide : Bool
  trans : Bool
  /-- the access that will give the value, while it is not known. -/
  acc : Option Nat
deriving DecidableEq, Repr

/-- A destination of a pending load (R55): register code, access, and whether it was written since. -/
structure PendDst where
  code : Nat
  acc : Nat
  written : Bool
deriving DecidableEq, Repr

/-- A v register whose load has returned and that no wait has covered since (R55): it reads either value. -/
structure Flip where
  code : Nat
  old : Word
  new : Word
  /-- it was written while the load was pending or since, so that it may keep either value. -/
  written : Bool
deriving DecidableEq, Repr

/-- A fragment register of a tile operation that no TWAIT has covered (R184): its code, the value it will hold after that TWAIT, and
whether the operation is complete, so that it shows one fixed pattern until it is written (R3). -/
structure Frag where
  code : Nat
  val : Word
  settled : Bool
deriving DecidableEq, Repr

/-- A barrier record `arrived(p)` (R173); an absent record is idle. -/
structure BarRec where
  level : BarLevel
  index : Nat
  phase : Nat
deriving DecidableEq, Repr

/-- An ICSYNC in hand (R223): its scope, and the stores and copies it waits for. -/
structure IcWait where
  /-- accesses of the thread from this number on are later than the ICSYNC. -/
  id : Nat
  scope : Scope
  stores : List Nat
  copies : List Nat
deriving DecidableEq, Repr

/-- The window snapshot that the live frame at one `s.fault` was written with: clause, resume index and slots. Its codes and flags are the
part's own, since RETT ignores those of the frame (R64). -/
structure Shadow where
  clause : Nat
  rho : Nat
  slots : List WinSlot
deriving DecidableEq, Repr

structure Thread where
  tid : Nat
  lane : Nat
  crew : Nat
  /-- v0 to v191 by operand code. -/
  regs : Tab Word
  preds : BitVec 7
  /-- PC: address of the clause header, and the index at which the thread resumes in it (R48, R218). -/
  clause : Nat
  idx : Nat
  /-- the header of that clause as fetched on entry (R73). -/
  hdr : DWord
  /-- the words of its footprint after the header, as fetched on entry (R73). -/
  words : List DWord
  callDepth : BitVec 16
  trapvec : Word
  sfault : Word
  run : Run
  ld : Nat
  st : Nat
  pend : List PendDst
  flips : List Flip
  /-- ready stamp, in 1/2048 of a core cycle, and the end of a yield hold, in core cycles (R231). A saved team's hold is what is left of it. -/
  stamp : Option Nat
  hold : Option Nat
  /-- the watch slot (R164): line and write sequence, and the access that set it. -/
  watch : Option (Nat × Nat)
  watchAcc : Nat
  bars : List BarRec
  window : List WinSlot
  /-- transient results: register code and the index after which it may no longer be read (R54). -/
  trans : List (Nat × Nat)
  yielded : Bool
  endedByFault : Bool
  icsync : List IcWait
  /-- STS accesses that an MFENCE put before the thread's later operand reads (R199). -/
  mfence : List Nat
  /-- the widest scope of a release fence it has executed: its later writes are releases there (R270). -/
  fenceRel : Option Scope
  /-- it has loaded from a scratchpad window, where scope team reaches the cluster: so do its acquire fences of scope team (R266). -/
  winSeen : Bool
  frags : List Frag
  /-- what its frames were written with, by the `s.fault` they lie at. -/
  shadows : Tab Shadow
  /-- a hardware breakpoint does not fire on the first execution after a resume (R368). -/
  skipBpt : Bool
  /-- the clause entry that an ICSYNC in hand holds (R223). -/
  arrive : Option Arrival
  /-- core cycle at which it last left the issue slot's selection (R231). -/
  issued : Option Nat
deriving DecidableEq, Repr

/-- A barrier (R173): phase, arrivals landed in it, engine signals expected and landed. -/
structure Bar where
  phase : Nat
  arrivals : Nat
  expected : Nat
  signals : Nat
deriving DecidableEq, Repr

def Bar.idle : Bar := ⟨0, 0, 0, 0⟩

structure Crew where
  slot : Nat
  kregs : Tab Word
  /-- extended granules held, 0–5 (R50). -/
  granules : Nat
  /-- which fill of undefined values each granule gained holds (R50). -/
  fills : List (Nat × Nat)
  bars : Tab Bar
deriving DecidableEq, Repr

/-- A tile operation that no TWAIT or barrier phase has covered yet (R43, R203): the issuing team, and the cluster barrier that its
signal completes. -/
structure OpenOp where
  op : Nat
  team : Nat
  bar : Option Nat
deriving DecidableEq, Repr

/-- An element that MWRITE wrote while an operation was pending (R205). -/
structure Spoil where
  elem : Nat
  op : Nat
deriving DecidableEq, Repr

/-- An accumulator tile: which fill of undefined words it started with (none: zero), its written elements, its record, the operations
not yet covered, the elements that MWRITE wrote while one was pending, and the fill of undefined words that it shows while an operation is
complete and not covered (R3, R43). -/
structure Tile where
  fill : Option Nat
  elems : Tab Word
  record : List Word
  opens : List OpenOp
  spoiled : List Spoil
  hidden : Nat
deriving DecidableEq, Repr

structure Tag where
  count : Nat
  done : Bool
  status : Nat
deriving DecidableEq, Repr

/-- A sticky status: the worst failure, its tile, and the tiles in error (R201). -/
structure Sticky where
  status : Nat
  tile : Nat
  failed : BitVec 8
deriving DecidableEq, Repr

/-- The sticky status of R201. -/
structure TileStat where
  status : Nat
  tile : Nat
  failed : BitVec 8
  /-- a TWAIT has returned it, and no operation was issued since. -/
  returned : Bool
  /-- what has failed since it was returned. -/
  fresh : Sticky
  /-- status of the most recent completed tile operation (`s.tlstat`). -/
  last : Nat
deriving DecidableEq, Repr

/-- Resident in a team slot, saved in a save slot (R332), or retired. -/
inductive Residence
  | resident
  | saved (slot : Nat)
  | retired
deriving DecidableEq, Repr

/-- A grid ticket counter as one team has passed it (R176, R241). -/
structure Passed where
  n : Nat
  executed : Bool
deriving DecidableEq, Repr

structure Team where
  id : Nat
  grid : Nat
  cluster : Nat
  queue : Nat
  asid : Nat
  core : Nat
  slot : Nat
  rank : Nat
  linear : Nat
  x : Nat
  y : Nat
  z : Nat
  res : Residence
  crews : List Crew
  threads : List Thread
  scratchBytes : Nat
  /-- written bytes of the scratchpad share; the others are the undefined bytes of fill `id`. -/
  scratch : Tab Byte
  scratchPoison : List Nat
  /-- registers in uncorrectable error that the next REGROUP step meets: 256 × `s.tid` + code (R182). -/
  regErrs : List Nat
  tiles : List Tile
  tags : List Tag
  cp : Nat
  tl : Nat
  tstat : TileStat
  bars : Tab Bar
  rgen : Word
  privBase : Nat
  spillBase : Nat
  /-- the wave of R238: the threads still to issue, if one is open. -/
  wave : Option (List Nat)
  /-- ticket counters passed, and those left with the dispatcher at retirement (R241). -/
  passed : List Passed
  parkedTickets : List Nat
  /-- time counted by the hang watchdog, in ns (R366). -/
  watchdog : Nat
  /-- issue has stopped for pre-emption or a kill (R332, R319). -/
  stopping : Bool
deriving DecidableEq, Repr

structure Cluster where
  id : Nat
  grid : Nat
  index : Nat
  die : Nat
  x : Nat
  y : Nat
  w : Nat
  h : Nat
  bars : Tab Bar
deriving DecidableEq, Repr

/-- The fields of a launch packet or launch record (Tables 10.3, 18.4). -/
structure LaunchF where
  code : Nat
  paramAddr : Nat
  gx : Nat
  gy : Nat
  gz : Nat
  detmin : Nat
  cohort : Bool
  tags : Nat
  tiles : Nat
  granules : Nat
  h : Nat
  w : Nat
  crews : Nat
  scratchKiB : Nat
  privSize : Nat
  spillSize : Nat
  paramSize : Nat
  linkage : Word
  completion : Nat
  ticketBase : Word
  minDies : Nat
  maxDies : Nat
  hint : Nat
  depth : Nat
deriving DecidableEq, Repr

structure Ticket where
  value : Word
  abandoned : Bool
deriving DecidableEq, Repr

/-- How a grid stands: its launch's release not yet complete, its parameter area parked on a fault, running, or retired with a
completion value. -/
inductive GridState
  | waiting
  | parked (token : Nat)
  | running
  | retired (word : Nat)
deriving DecidableEq, Repr

structure Grid where
  id : Nat
  queue : Nat
  asid : Nat
  launch : LaunchF
  /-- the dispatcher's copy of the parameter area, and its units with errors (R308). -/
  params : List Byte
  paramErrs : List Nat
  parent : Option Nat
  /-- the packet whose grid it is or descends from. -/
  packet : Nat
  startCount : Nat
  qrpAtStart : Nat
  dies : List Nat
  next : Nat
  tickets : List Ticket
  bars : Tab Bar
  faulted : Bool
  killed : Bool
  /-- ranges claimed by a die, at FREE: next and end (R312). -/
  claims : Tab (Nat × Nat)
  /-- clusters placed on each static slot, at REPEAT and above (R313). -/
  slots : Tab Nat
  placed : Nat
  /-- commands of this launch given to each engine so far (Table 21.9): key 2048 × engine kind + core. -/
  cmds : Tab Nat
  state : GridState
deriving DecidableEq, Repr

/-! ### The issue slot and the memory system -/

/-- What started a wave, for the cause entry (Table 21.7): its core, or the die of a front end. -/
structure Origin where
  core : Option Nat
  die : Nat
  tid : Option Nat
  cause : Byte
  threads : Nat
  crew : Nat
  slot : Nat
  step : Bool
deriving DecidableEq, Repr

/-- An origin met at an index of the clause in the issue slot; its wave starts when the clause ends (R361). -/
structure ClauseOrigin where
  idx : Nat
  origin : Origin
deriving DecidableEq, Repr

/-- The clause in an issue slot: group members still in it, next index, the debug slot of a single step, and the wave origins
met so far. -/
structure IssueSlot where
  core : Nat
  team : Nat
  clause : Nat
  hdr : DWord
  /-- the words of the clause, as fetched on entry (R73). -/
  words : List DWord
  idx : Nat
  group : List Nat
  /-- the ready stamp the group was selected with. -/
  stamp : Nat
  stepOf : Option Nat
  origins : List ClauseOrigin
  /-- the threads it was selected with. -/
  members : List Nat
deriving DecidableEq, Repr

inductive Space
  | global
  | window (team : Nat)
  | priv
  | spillSp
  | param
deriving DecidableEq, Repr

inductive AccKind
  | load (sx : Bool)
  | store
  | atom (op : AtomOp)
  | red (op : AtomOp)
  | spill
  | fill
  | fence
  /-- a barrier arrival whose release is not yet complete (R174). -/
  | arrive (b : BarRef)
  /-- a TKPASS whose release is not yet complete (R176). -/
  | pass (n : Nat)
  /-- a CLAUNCH whose release is not yet complete (R220). -/
  | launch (grid : Nat)
deriving DecidableEq, Repr

/-- One lane of a spill access (R165). -/
structure SpillLane where
  tid : Nat
  lane : Nat
  data : Word
  /-- the thread's window snapshot at issue. -/
  snapshot : List WinSlot
deriving DecidableEq, Repr

/-- A store accepted to its core's ordered write path and not yet applied at home (Table 13.4): its place in the path, and the physical
stretches it writes. -/
structure Taken where
  stamp : Nat
  ps : List (Nat × Nat)
deriving DecidableEq, Repr

/-- An access issued by a thread and not yet complete (R152 to R165), in issue order by `id`. -/
structure Access where
  id : Nat
  kind : AccKind
  space : Space
  /-- global or private virtual address, window offset or parameter offset. -/
  addr : Nat
  /-- the address as the instruction formed it, for frames and the fault buffer. -/
  named : Nat
  size : Nat
  sizeCode : Nat
  scope : Scope
  order : Order
  /-- the widest scope at which it is a release, by its own order or a release fence before it (R270). -/
  relAt : Option Scope
  /-- the widest scope of the acquire fences behind it, by which a read is an acquire (R270). -/
  fenceAcq : Option Scope
  hint : Hint
  core : Nat
  team : Nat
  asid : Nat
  tid : Nat
  data : List Byte
  cmp : DWord
  dst : Reg
  /-- the destination code of the instruction, for its slot of the window snapshot (R64). -/
  slotDst : Reg
  lanes : List SpillLane
  /-- issue instance: the lanes of one instruction share it (R161). -/
  group : Nat
  clause : Nat
  idx : Nat
  snapshot : List WinSlot
  /-- cause of a failed late check that LATE_FAULT has not yet handled. -/
  bad : Option Byte
  /-- the class of Table 24.4 of the structure that a data error in `bad` was met in. -/
  badClass : Nat
  parked : Option Nat
  /-- stores in the core's write path that happen before it (R271). -/
  after : List Nat
  /-- a b128 access of which one unit is done: which one, and the bytes read (R267). -/
  half : Option (Bool × List Byte)
  /-- what a load has read and not yet returned. -/
  served : Option (List Byte)
  taken : Option Taken
  /-- the link has been sent its group's request for its sector (R253, R261). -/
  asked : Bool
deriving DecidableEq, Repr

/-- What a home slice records for a line (R164, R275): write sequence, and the core whose write path last applied a thread's write. -/
structure LineRec where
  seq : Nat
  core : Option Nat
deriving DecidableEq, Repr

def LineRec.none : LineRec := ⟨0, Option.none⟩

/-- A write of a thread, as the home slice records it: the core, and for a release narrower than device scope the stores of its
write path that happen before it (R275). -/
structure Writer where
  core : Nat
  behind : Option (List Nat)
deriving DecidableEq, Repr

/-- What an L1 sector caches: a page of a program, one of private or spill memory, whose accesses R324 keeps apart, or a grid's parameter
area (R251). -/
inductive L1Space
  | program
  | priv
  | param (grid : Nat)
deriving DecidableEq, Repr

/-- A 32-byte sector of a core's L1 (R255). -/
structure L1Sector where
  core : Nat
  asid : Nat
  space : L1Space
  sector : Nat
  phys : Nat
  bytes : List Byte
  /-- its 8-byte units that hold an uncorrectable error (R263). -/
  bad : List Nat
  /-- allocated by a `.strm` access, to be evicted first (Table 13.3). -/
  strm : Bool
deriving DecidableEq, Repr

/-- A word held by a core's instruction cache (R251). -/
structure ICWord where
  core : Nat
  asid : Nat
  addr : Nat
  word : DWord
deriving DecidableEq, Repr

/-- A cached translation of one die (R325): page base and size, physical base, W, X and S. -/
structure TlbEntry where
  die : Nat
  asid : Nat
  base : Nat
  size : Nat
  phys : Nat
  w : Bool
  x : Bool
  s : Bool
deriving DecidableEq, Repr

/-- A miss waiting for a walker (R326), and whether an agent other than a thread's access waits for it. -/
structure WalkReq where
  die : Nat
  asid : Nat
  addr : Nat
  agent : Bool
deriving DecidableEq, Repr

/-- An entry of a home slice's watch table (R262). -/
structure WatchEntry where
  line : Nat
  core : Nat
  sleepers : List (Nat × Nat)
  /-- a write has been performed; the wake is on its way. -/
  fired : Bool
deriving DecidableEq, Repr

/-! ### Engines -/

inductive CopyKind | cpy | cpym | cpyo | cpyx
deriving DecidableEq, Repr

/-- A matrix operand pair and its two scale addresses, as read at issue. -/
structure MmaArgs where
  block : List DWord
  a0 : Word
  a1 : Word
  b0 : Word
  b1 : Word
  gang : Bool
  crew : Nat
  level : Nat
deriving DecidableEq, Repr

/-- A drain with the operands read at its issue (R206). -/
structure DrainArgs where
  form : Drain
  code : Nat
  dest : Nat
  vpitch : Word
  amaxAddr : Nat
  ka : Word
  kb : Word
  /-- the tile was not yet covered at its issue, so that the elements it drains are undefined (R43). -/
  opened : Bool
  /-- the elements are written and only the amax update is left (R207). -/
  written : Bool
deriving DecidableEq, Repr

inductive EngKind
  | copy (k : CopyKind) (e : Nat) (tag : Nat) (src0 src1 dst0 dst1 box0 box1 : Word) (mask : Word)
  | mma (x : MmaArgs)
  | mzero
  | mload (w0 w1 : Word)
  | drain (x : DrainArgs)
deriving DecidableEq, Repr

/-- One part of a gang (R202). -/
structure GangPart where
  rank : Nat
  team : Nat
  status : Option Nat
deriving DecidableEq, Repr

/-- An operation given to a copy or matrix engine and not yet complete. -/
structure EngOp where
  id : Nat
  kind : EngKind
  core : Nat
  team : Nat
  asid : Nat
  cluster : Nat
  tid : Nat
  crew : Nat
  lane : Nat
  tile : Nat
  tag : Nat
  parts : List GangPart
  /-- cluster barrier that its completion signals. -/
  signal : Option Nat
  /-- accesses it waits for: the core's write path for copies, STS under MFENCE. -/
  after : List Nat
  /-- a `.tk` drain still queued for its ticket (R208). -/
  queued : Bool
  /-- begun: the command in hand of its engine, or one that a step waits for (R208, R364, R370). -/
  inHand : Bool
  parked : Option Nat
  cmdIndex : Nat
  /-- source elements it has read so far (R184). -/
  seen : Tab Nat
  /-- unit events it has performed so far at its destination (R267). -/
  moved : List Nat
  /-- source bytes that a CPYX has written over before it had read them all, as they were, and whether their unit held an error (R190). -/
  kept : Tab (Byte × Bool)
deriving DecidableEq, Repr

/-! ### Contexts, faults, queues -/

structure Descriptor where
  level0 : Nat
  window : Nat
  saveBase : Nat
  saveSlots : Nat
  poolBase : Nat
  poolSize : Nat
  statusAddr : Nat
  replayable : Bool
deriving DecidableEq, Repr

structure Context where
  asid : Nat
  desc : Descriptor
  failed : Bool
  terminated : Bool
  suspended : Bool
  /-- the host has rewritten its descriptor since all its queues were OFF (R321). -/
  renewed : Bool
  /-- termination or suspension in hand: finished at clause boundaries. -/
  terminating : Bool
  suspending : Bool
deriving DecidableEq, Repr

/-- Whose fault an entry of a fault buffer records, and so whose outcome waits with it (R327): a thread on the path of R65, a late
check, an engine operation, the packet at a queue's cursor, a COPY, a grid's parameter area, a collective, or a report, of which nothing
follows. A token other than 0 names a fault that parks. -/
inductive WaitAct
  | thread (team tid : Nat) (cause : Byte)
  | late (acc : Nat) (cause : Byte) (token : Nat)
  | eng (op : Nat) (cause : Byte) (token : Nat)
  | word (q : Nat) (cause : Byte) (token : Nat)
  | copy (q id : Nat) (cause : Byte) (token : Nat)
  | grid (g : Nat) (cause : Byte) (token : Nat)
  | coll (c : Nat) (cause : Byte) (token : Nat)
  | report
deriving DecidableEq, Repr

/-- A fault that waits for room in a fault buffer (R327): its entry, without the time of its recording. -/
structure FaultWait where
  die : Nat
  entry : List Byte
  act : WaitAct
deriving DecidableEq, Repr

structure FaultBuf where
  base : Nat
  ctl : DWord
  wp : Nat
  rp : Nat
deriving DecidableEq, Repr

inductive QState | off | idle | fetch | order | block | fault | drain | dead
deriving DecidableEq, Repr

/-- A started packet that is not complete (R306): what it is and what names its completion. -/
inductive StartedKind
  | launch (grid : Nat)
  | coll (c : Nat)
  | copy (src dst len : Nat)
deriving DecidableEq, Repr

structure Started where
  id : Nat
  kind : StartedKind
  irq : Option Nat
  parked : Option Nat
  startCount : Nat
deriving DecidableEq, Repr

structure Queue where
  base : DWord
  /-- QCTL as written (Table 18.1). -/
  ctl : DWord
  wp : Word
  rp : Word
  state : QState
  cause : Nat
  /-- the graph node at the cursor, zero in the ring (QGCUR). -/
  cursor : Nat
  held : Option (List DWord)
  started : List Started
  startCount : Word
  dieCount : Nat
  /-- when the held packet reached ORDER, as a number of the model's own (R347). -/
  orderStamp : Nat
  /-- a parked access of the packet at the cursor: replay token, and the cause that a cancel gives (R318). -/
  parkedWord : Option (Nat × Nat)
  destroy : List DWord
  /-- a replay has let the access go on and it has not been made again yet (R318). -/
  retrying : Bool
  /-- how the WHILE at the cursor has decided, while its visit word is still to be written (R318). -/
  test : Option Bool
deriving DecidableEq, Repr

def Queue.reset : Queue := ⟨0, 0, 0, 0, .off, 0, 0, none, [], 0, 0, 0, none, [0, 0, 0, 0, 0, 0, 0, 0], false, none⟩

/-! ### UALink and collectives -/

structure Port where
  lanes : Nat
  up : Bool
  peer : Option Nat
deriving DecidableEq, Repr

structure CReg where
  word : DWord
  /-- tokens in the bucket, in bytes, and the time up to which it has been filled (R353). -/
  tokens : Nat
  filled : Nat
deriving DecidableEq, Repr

def CReg.reset : CReg := ⟨0, 0, 0⟩

/-- A counter run by LOOP (R346). -/
structure LoopCtr where
  active : Bool
  iter : Nat
  start : Nat
  stop : Nat
  count : Nat
deriving DecidableEq, Repr

def LoopCtr.idle : LoopCtr := ⟨false, 0, 0, 0, 0⟩

/-- A message of a peer, as its chunks arrive (R347): its sequence number counts that peer's messages to this rank. -/
structure InMsg where
  src : Nat
  seq : Nat
  /-- elements of the whole message, and bytes of it that have arrived. -/
  total : Nat
  got : Nat
  data : List Byte
deriving DecidableEq, Repr

/-- A message this rank has posted and that is not acknowledged: the data step that posted it, its sequence number towards that peer, and
the bytes of it handed to the ports. -/
structure OutPost where
  dst : Nat
  seq : Nat
  no : Nat
  data : List Byte
  sent : Nat
  /-- every chunk, an empty one included, has been handed over. -/
  posted : Bool
deriving DecidableEq, Repr

/-- A peer that the program names, as this rank sees it: chunks granted by it and sent to it, granted to it and taken from it, messages
posted to it and taken from it, the last data step exchanged with it (R351), and the unfrozen time waited for it, in ns (R354). -/
structure PeerRec where
  rank : Nat
  grantedBy : Nat
  sentTo : Nat
  grantedTo : Nat
  takenFrom : Nat
  posts : Nat
  takes : Nat
  lastSeq : Option Nat
  waited : Nat
deriving DecidableEq, Repr

structure Coll where
  id : Nat
  queue : Nat
  asid : Nat
  packet : Nat
  dwords : List DWord
  group : Word
  steps : List (DWord × DWord)
  ranks : List Nat
  pc : Nat
  seq : Nat
  ctrs : List LoopCtr
  started : Nat
  inbox : List InMsg
  outbox : List OutPost
  peers : List PeerRec
  /-- ending: status, reason and lost rank. -/
  ending : Option (Nat × Nat × Option Nat)
  parked : Option Nat
  qrpAtStart : Nat
  /-- the data step at the program counter has begun (R374). -/
  begun : Bool
  /-- it has written its destination and only its message is left to hand over. -/
  half : Bool
  /-- tokens already taken for the step in hand (R353). -/
  paid : Nat
  /-- which collective of its group it is on this part, from 0: its messages carry the number (R347). -/
  round : Nat
deriving DecidableEq, Repr

/-- What a replay has let go on and what has not been retried yet (Table 19.6): an operation of an engine, the packet at a queue's cursor, a
COPY, a collective, as they stood; or a thread's access. -/
inductive Retry
  | eng (e : EngOp)
  | word (q : Nat) (x : Queue)
  | copy (q id : Nat)
  | coll (c : Coll)
  | acc (id : Nat)
deriving DecidableEq, Repr

/-- A context command written and not yet complete (Table 19.6). -/
structure CxtCmd where
  dwords : List DWord
  /-- it has had its effect and waits for its completion. -/
  acted : Bool
  retries : List Retry
deriving DecidableEq, Repr

/-- A chunk or credit of a collective that this part has not started (R347). -/
structure EarlyMsg where
  group : Word
  src : Nat
  seq : Nat
  /-- for a chunk its first element, its message's length in elements and its payload; none for a credit. -/
  chunk : Option (Nat × Nat × List Byte)
deriving DecidableEq, Repr

structure Ualink where
  uaid : Nat
  exBase : Nat
  exCtl : Bool
  uaErr : Nat
  ports : Tab Port
  early : List EarlyMsg
  /-- collectives of each group that this part has started. -/
  rounds : Tab Nat
deriving DecidableEq, Repr

/-! ### Debug -/

structure CapSlot where
  handle : DWord
  word8 : DWord
  peerList : Nat
  peerCount : Nat
deriving DecidableEq, Repr

def CapSlot.reset : CapSlot := ⟨0, 0, 0, 0⟩

/-- A sampled memory instruction whose data is outstanding (R375): the group of its accesses, what its records hold, and the lanes that it still
waits for. -/
structure Sample where
  group : Nat
  clause : Nat
  idx : Nat
  sectors : Nat
  mask : Nat
  low : Nat
  queue : Nat
  core : Nat
  left : List Nat
deriving DecidableEq, Repr

/-- A debug command page (R360, R368, R374, R377). -/
structure DbgPage where
  cmd : List DWord
  res : DWord
  data : DWord
  done : Word
  busy : Bool
  bpts : Tab (DWord × DWord)
  trBase : Nat
  trCtl : DWord
  trWp : Nat
  trWin : DWord
  /-- window mode: the time at which the window closes. -/
  trEnd : Option Nat
  trStopped : Bool
  dlBase : Nat
  dlCtl : DWord
  dlWp : Nat
  dlRp : Nat
  /-- replay: entries above DLRP that another queue has already taken (R378). -/
  dlUsed : List Nat
  /-- memory instructions of the context counted on each core for sampling (R375). -/
  samples : Tab Nat
  /-- samples that wait for their data. -/
  sampling : List Sample
  /-- a STEP that waits until the issue slot is free and the core's clock runs (R360, R370). -/
  held : Option (List DWord)
deriving DecidableEq, Repr

def DbgPage.reset : DbgPage :=
  ⟨[0, 0, 0, 0, 0, 0, 0, 0], 0, 0, 0, false, [], 0, 0, 0, 0, none, false, 0, 0, 0, 0, [], [], [], none⟩

/-- A job that is frozen, and the resume that has arrived for it (R364, R372). -/
structure Frozen where
  job : Word
  /-- its contexts on this device when it froze. -/
  asids : List Nat
  engines : Bool
  resumeAt : Option Nat
deriving DecidableEq, Repr

/-- An origin of a wave or of a termination that has been met and has not stopped its context yet (R65, R361): where its threads stand,
and t0. Those that reach one origin together make one entry (R367). -/
structure Reached where
  asid : Nat
  clause : Nat
  idx : Nat
  origin : Origin
  since : Nat
deriving DecidableEq, Repr

/-- A step in hand: the threads it runs, and what it waits for (R370). -/
structure StepWait where
  slot : Nat
  team : Nat
  tids : List Nat
  /-- operations from this number on were issued by the step. -/
  first : Nat
  /-- the clause has left the issue slot, and these operations must complete. -/
  left : Bool
  ops : List Nat
  status : Nat
  cause : Nat
deriving DecidableEq, Repr

structure Debug where
  caps : Tab CapSlot
  pages : Tab DbgPage
  wdper : Word
  frozen : List Frozen
  steps : List StepWait
  waveSeq : Word
  causes : List (List Byte)
  causeOvf : Nat
  /-- origins whose wave or termination is on its way. -/
  reached : List Reached
deriving DecidableEq, Repr

/-! ### Dies, clocks, service -/

/-- The state of an operating-point change (R310): none, due, clock stopped, stable wait. -/
inductive Relock
  | none
  | due (hint : Nat)
  | stopped (hint : Nat) (since : Nat)
  | settling (hint : Nat)
deriving DecidableEq, Repr

/-- One die: its clock (R334, R335), margins (R402), fault buffer and regulators. -/
structure Die where
  live : Bool
  hint : Nat
  throttle : Nat
  /-- it was the power limit that last lowered its point (R331). -/
  byPower : Bool
  relock : Relock
  cyc : Nat
  ncyc : Nat
  frac : Nat
  voffset : Nat
  removed : Nat
  fenceMark : Bool
  lastSample : Nat
  /-- the group of 64 cores on which a forced sample holds placement (R402). -/
  forcing : Option Nat
  /-- time for which the die has been idle, in ns (R402). -/
  idle : Nat
  spares : Nat
  fb : FaultBuf
  cregs : Tab CReg
  /-- the queue whose turn was last in the round-robin of placement (R312). -/
  turn : Nat
deriving DecidableEq, Repr

/-- An instance's corrected errors (R400). -/
structure ErrRec where
  inst : ErrInst
  times : List Nat
  lasting : Bool
  repaired : Bool
deriving DecidableEq, Repr

structure Service where
  mgOwn : Nat
  mgHand : Nat
  offerEnd : Option Nat
  lastBeat : Nat
  mgRej : Nat
  pwrCap : Nat
  svcVec : DWord
  fence : Nat
  apBase : Nat
  hostErr : Nat
  slwp : Word
  log : Tab (List Byte)
  fwSrc : DWord
  fwStat : Nat
  sethr : Tab (Nat × Nat)
  recovery : Bool
  shutdown : Bool
  pwrNow : Nat
  tempJ : Nat
  tempHbm : Nat
  errs : List ErrRec
  /-- repair records in flash: cores to remap and dies to fence at the next fundamental reset (R401, R402), cores that resets have remapped,
  and the dies that the last one fenced (R399). -/
  remaps : List Nat
  fenced : List Nat
  remapped : List Nat
  fenceState : Nat
  spareBanks : List Nat
  /-- scratchpad banks whose core empties before their spare is taken. -/
  bankWaits : List ErrInst
  /-- HBM rows being copied to a spare. -/
  rowCopies : List ErrInst
  /-- the firmware image that runs, the one in flash, and the one being staged: bytes by offset (R397, R398). -/
  firmware : Tab Byte
  flash : Tab Byte
  image : Tab Byte
  /-- fused minimum of the security version, and the version of an image staged since the last reset. -/
  minVersion : Nat
  staged : Option Nat
  /-- flash holds a whole image. -/
  flashOk : Bool
  /-- bytes written to the recovery window (R397). -/
  window : Tab Byte
deriving DecidableEq, Repr

structure PcieLink where
  up : Bool
  width : Nat
  rate : Nat
  atomicReq : Bool
  ideLink : Option DWord
  ideSel : Option DWord
  bar2Log2 : Nat
deriving DecidableEq, Repr

/-- Board-test port (R404). -/
inductive JtagIr | bypass | idcode | samplePreload | extest
deriving DecidableEq, Repr

structure Jtag where
  ir : JtagIr
  /-- the part is held in fundamental reset. -/
  held : Bool
deriving DecidableEq, Repr

/-- A request on a link (R253). -/
inductive LinkOp | read | write | atomic
deriving DecidableEq, Repr

/-- What the part sends outwards. -/
inductive OutMsg
  | msix (vector : Nat)
  | sloeHalt (peer : Nat) (payload : List Byte)
  | sloeResume (peer : Nat) (payload : List Byte)
  | sloeCause (peer : Nat) (payload : List Byte)
  | triggerMsg (peer : Nat) (payload : List Byte)
  | chunk (peer : Nat) (group : Word) (rank seq first total : Nat) (data : List Byte)
  | credit (peer : Nat) (group : Word) (rank seq : Nat)
  | abort (peer : Nat) (group : Word) (rank reason : Nat)
  | collAck (peer : Nat) (group : Word) (rank seq : Nat)
  | completerError (port : Nat)
  | completion (port : Nat) (data : List Byte)
  /-- the function as the host's enumeration finds it (R390): vendor ID, device ID, class code. -/
  | enumerated (vendor device cls : Nat)
  | hostCompletion (data : List Byte)
  | unsupportedRequest
  /-- a 32-byte sector of host memory or of a peer's aperture is asked for, written or updated by an atomic (R253). -/
  | hostRequest (sector : Nat) (op : LinkOp)
  | peerRequest (peer sector : Nat) (op : LinkOp)
  | spdm (m : Master) (request : Nat) (data : List Byte)
  | jtag (ir : JtagIr) (data : List Byte)
deriving DecidableEq, Repr

/-- No step of the part ends in a fault: every fault the spec describes is delivered, recorded or reported inside the machine
(R65, R152, R191, R201, R327), so this type has no constructor and nothing raises one. -/
inductive Fault
deriving DecidableEq, Repr

inductive Refusal
  /-- Raised by an arm of `exec` whose instruction has no meaning yet; safe: nothing is claimed of it. -/
  | notModelled (mnemonic : String)
deriving DecidableEq, Repr

/-- The whole package. -/
structure State where
  /-- physical memory, host and peer apertures included; an unlisted byte reads as zero (DESIGN CHOICE, unsafe, notes/assumptions/1.md). -/
  mem : List Host.Cell
  /-- 8-byte units (physical address / 8) that hold an uncorrectable error (R263). -/
  poison : List Nat
  /-- those of them whose error lies in an L2 slice, class 1 of Table 24.4. -/
  sliceErrs : List Nat
  lines : Tab LineRec
  /-- 8-byte units whose last write was a release narrower than device scope: what it happens after (R275). -/
  narrow : Tab (List Nat)
  l1 : List L1Sector
  icache : List ICWord
  tlb : List TlbEntry
  walks : List WalkReq
  /-- regions whose walk has ended and which an agent other than a thread's access has not used yet (R326). -/
  walked : List WalkReq
  watch : List WatchEntry
  accs : List Access
  issue : Option IssueSlot
  teams : List Team
  clusters : List Cluster
  grids : List Grid
  engs : List EngOp
  cxtBase : Nat
  cxDone : Word
  cxtWords : List DWord
  ctxs : List Context
  cmds : List CxtCmd
  waits : List FaultWait
  queues : Tab Queue
  colls : List Coll
  ual : Ualink
  dbg : Debug
  die0 : Die
  die1 : Die
  svc : Service
  link : PcieLink
  msix : Tab Byte
  msixPending : List Nat
  jtag : Jtag
  /-- `s.ref`, in ns; the register is its low 64 bits. -/
  now : Nat
  nextAcc : Nat
  nextId : Nat
  inputs : List Instr
  out : List OutMsg
  /-- the model's own counter of free values (DESIGN CHOICE, notes/assumptions/3.md). -/
  draws : Nat
deriving DecidableEq, Repr

/-! ### Reset (R395, R396) -/

def FaultBuf.reset : FaultBuf := ⟨0, 0, 0, 0⟩

def Die.reset : Die where
  live := true
  hint := 0
  throttle := 0
  byPower := false
  relock := .none
  cyc := 0
  ncyc := 0
  frac := 0
  voffset := 0
  removed := 0
  fenceMark := false
  lastSample := 0
  forcing := none
  idle := 0
  spares := 64
  fb := FaultBuf.reset
  cregs := []
  turn := 0

def Service.reset : Service where
  mgOwn := 0
  mgHand := 0
  offerEnd := none
  lastBeat := 0
  mgRej := 0
  pwrCap := 2400
  svcVec := 0
  fence := 0
  apBase := 0
  hostErr := 0
  slwp := 0
  log := []
  fwSrc := 0
  fwStat := 0
  sethr := []
  recovery := false
  shutdown := false
  pwrNow := 0
  tempJ := 0
  tempHbm := 0
  errs := []
  remaps := []
  fenced := []
  remapped := []
  fenceState := 0
  spareBanks := []
  bankWaits := []
  rowCopies := []
  firmware := []
  flash := []
  image := []
  minVersion := 0
  staged := none
  flashOk := true
  window := []

def Debug.reset : Debug where
  caps := []
  pages := []
  wdper := 10000
  frozen := []
  steps := []
  waveSeq := 0
  causes := []
  causeOvf := 0
  reached := []

/-- The package right after fundamental reset with both dies in service. The registers of Table 24.2 are as R395 gives, WDPER is
10,000 (R366); values the spec does not give are zero (DESIGN CHOICE, unsafe, notes/assumptions/6.md and 7.md). -/
def State.reset : State where
  mem := []
  poison := []
  sliceErrs := []
  lines := []
  narrow := []
  l1 := []
  icache := []
  tlb := []
  walks := []
  walked := []
  watch := []
  accs := []
  issue := none
  teams := []
  clusters := []
  grids := []
  engs := []
  cxtBase := 0
  cxDone := 0
  cxtWords := [0, 0, 0, 0]
  ctxs := []
  cmds := []
  waits := []
  queues := []
  colls := []
  ual := ⟨0, 0, false, 0, [], [], []⟩
  dbg := Debug.reset
  die0 := Die.reset
  die1 := Die.reset
  svc := Service.reset
  link := ⟨false, 0, 0, false, none, none, 28⟩
  msix := []
  msixPending := []
  jtag := ⟨.bypass, false⟩
  now := 0
  nextAcc := 0
  nextId := 1
  inputs := []
  out := []
  draws := 0

end Sys2Proof.Machine
end

