-- ==== Sys2Proof/Machine/Flags.lean ====
section
/-! DEFINITION. The part has no arithmetic flags (R99); its condition state is the predicates p0 to p6 (R53). Guards, predicate
sources and the comparisons that write predicates. -/

namespace Sys2Proof.Machine

/-- Predicate p of a thread; 7 is true (R81, R110). -/
def predOf (preds : BitVec 7) (p : PReg) : Bool := p == 7#3 || preds.getLsbD p.toNat

/-- The guard of an instruction (Table 5.3). -/
def guardOf (preds : BitVec 7) (g : Guard) : Bool := predOf preds g.p != g.neg

/-- A predicate source with its inversion (R110, R169). -/
def srcOf (preds : BitVec 7) (p : PSrc) : Bool := predOf preds p.p != p.neg

/-- Writes predicate n. -/
def setPred (preds : BitVec 7) (n : Nat) (b : Bool) : BitVec 7 :=
  if b then preds ||| (1#7 <<< n) else preds &&& ~~~(1#7 <<< n)

/-- ISET's comparisons (R109). -/
def icmp (m : ICmp) (uns : Bool) (a b : Word) : Bool :=
  match m with
  | .eq => a == b
  | .ne => a != b
  | .lt => if uns then a.ult b else a.slt b
  | .le => if uns then a.ule b else a.sle b
  | .gt => if uns then b.ult a else b.slt a
  | .ge => if uns then b.ule a else b.sle a

/-- PLOP: bit 2x + y of the truth table (R110). -/
def plopBit (tt : BitVec 4) (x y : Bool) : Bool := tt.getLsbD (2 * b2n x + b2n y)

end Sys2Proof.Machine
end

