-- ==== Sys2Proof/WellFormed.lean ====
section
/-! DEFINITION. Which instructions the part accepts as words (R50 to R54, R81 to R93, and the field tables 5.6 to 5.12, 6.1, 7.1,
8.1, 8.5, 9.2 and 10.1): everything that depends on the instruction word alone, except placement in the clause (R78, R79). A row
that is not an encoded instruction is well-formed when its numbers name a unit the part has. -/

namespace Sys2Proof

/-- A v register (Table 4.2). -/
def isV (r : Reg) : Bool := decide (r.toNat < 0xC0)
/-- A k register (Table 4.2). -/
def isK (r : Reg) : Bool := decide (0xC0 ≤ r.toNat) && decide (r.toNat < 0xFF)
/-- The first code of an even-odd pair, or the 64-bit kz (R52). -/
def isPair (r : Reg) : Bool := r == 0xFF#8 || (decide (r.toNat % 2 = 0) && decide (r.toNat ≠ 0xFE))
/-- The first code of a quad (R83). -/
def isQuad (r : Reg) : Bool := decide (r.toNat % 4 = 0)
/-- A predicate field (R83). -/
def isPred (r : Reg) : Bool := decide (r.toNat < 7)
/-- R81: 7 with negate set is refused. -/
def Guard.ok (g : Guard) : Bool := !(g.neg && g.p == 7#3)
/-- R54: T needs a v destination. -/
def tOk (t : Bool) (d : Reg) : Bool := !t || isV d

/-- A data operand of a memory form: register, pair or quad by size (R83, R84). -/
def sizedOk (s : Size) (r : Reg) : Bool :=
  match s with
  | .b8 | .b16 | .b32 => true
  | .b64 => isPair r
  | .b128 => isQuad r

def Size.bytes : Size → Nat
  | .b8 => 1 | .b16 => 2 | .b32 => 4 | .b64 => 8 | .b128 => 16

/-- `.sx` only for b8 and b16 (Table 5.8). -/
def sxOk (sx : Bool) (s : Size) : Bool := !sx || s == .b8 || s == .b16
def isB32or64 (s : Size) : Bool := s == .b32 || s == .b64
def loadOrder (o : Order) : Bool := o == .rlx || o == .acq
def storeOrder (o : Order) : Bool := o == .rlx || o == .rel

/-- fadd is b32 only (R159). -/
def atomSizeOk (op : AtomOp) (s : Size) : Bool := isB32or64 s && (op != .fadd || s == .b32)

/-- The 8-bit element formats that QCVT and DQCVT accept (R144). -/
def isQFormat (c : Nat) : Bool :=
  c == 0x04 || c == 0x05 || c == 0x08 || c == 0x09 || (decide (0x40 ≤ c) && decide (c ≤ 0x5E) && c != 0x47 && c != 0x4F && c != 0x57)

def isIntQ (c : Nat) : Bool := c == 0x04 || c == 0x05

/-- Widths of the special registers (Table 4.4). -/
def SReg.wide : SReg → Bool
  | .cyc | .ncyc | .ref | .tagmap => true
  | _ => false

def SReg.writable : SReg → Bool
  | .trapvec | .fault => true
  | _ => false

/-- Table 5.9: barrier indices below 4, 16, 8 and 4. -/
def BarLevel.count : BarLevel → Nat
  | .crew => 4 | .team => 16 | .cluster => 8 | .grid => 4

/-- Rounding of the arithmetic opcodes: rnd 0–3 (Table 5.7). -/
def Rnd.notSr (r : Rnd) : Bool := r != .sr

/-- Operand codes of MDRAIN (R92, Table 5.11). Under amax and `.sr` the two pairs are c and c + 2; for c = kz the second would lie beyond
the operand codes, which the rule does not speak of, and the word is refused (DESIGN CHOICE, notes/assumptions/95.md). -/
def Drain.ok (x : Drain) : Bool :=
  (match x.fmt with
   | .q => isK x.d
   | _ => x.d == 0#8) &&
  (if x.glob then isPair x.a else true) &&
  (!x.tk || x.add) &&
  (if x.amax.isSome then isPair x.c && (!x.sr || isPair (x.c + 2#8) && x.c != 0xFF#8 && decide (x.c.toNat + 2 < 0xFF))
   else if x.sr then isPair x.c else x.c == 0#8)

namespace Instr

def wellFormed : Instr → Bool
  | .issueSelection core => decide (core < 2048)
  | .iadd g t _ d _ _ | .isub g t _ d _ _ => g.ok && tOk t d
  | .imul g t d _ _ | .imulhi g t _ d _ _ | .imad g t d _ _ _ => g.ok && tOk t d
  | .imin g t _ d _ _ | .imax g t _ d _ _ => g.ok && tOk t d
  | .iabs g t _ d _ => g.ok && tOk t d
  | .iadd64 g t m d a b => g.ok && tOk t d && isPair d && isPair a && (m != .pair || isPair b)
  | .lea g t _ _ d a _ => g.ok && tOk t d && isPair d && isPair a
  | .and g t d _ _ | .or g t d _ _ | .xor g t d _ _ | .andn g t d _ _ => g.ok && tOk t d
  | .shl g t d _ _ | .shr g t d _ _ | .sar g t d _ _ | .rotl g t d _ _ => g.ok && tOk t d
  | .clz g t d _ | .popc g t d _ | .brev g t d _ => g.ok && tOk t d
  | .bfx g t _ d _ _ => g.ok && tOk t d
  | .bfi g t d _ _ _ | .prmt g t d _ _ _ => g.ok && tOk t d
  | .sel g t _ p d _ _ => g.ok && tOk t d && p != 7#3
  | .iset g _ _ d _ _ => g.ok && isPred d
  | .plop g _ d _ _ => g.ok && isPred d
  | .mov g t b d a => g.ok && tOk t d && (!b || isPair d && isPair a)
  | .movp g t toPred r => g.ok && (if toPred then !t else tOk t r)
  | .movi g m d _ => g.ok && (m == .w32 || isPair d)
  | .iaddImm g _ _ _ | .imulImm g _ _ _ | .andImm g _ _ _ | .orImm g _ _ _ | .xorImm g _ _ _ | .andnImm g _ _ _ => g.ok
  | .shlImm g _ _ _ | .shrImm g _ _ _ | .sarImm g _ _ _ | .rotlImm g _ _ _ => g.ok
  | .iminImm g _ _ _ _ | .imaxImm g _ _ _ _ => g.ok
  | .iadd64Imm g d a _ => g.ok && isPair d && isPair a
  | .fadd g t r d _ _ | .fsub g t r d _ _ | .fmul g t r d _ _ => g.ok && tOk t d && r.notSr
  | .ffma g t r d _ _ _ => g.ok && tOk t d && r.notSr
  | .fmin g t d _ _ | .fmax g t d _ _ => g.ok && tOk t d
  | .fset g _ d _ _ => g.ok && isPred d
  | .fclass g t d _ => g.ok && tOk t d
  | .fscale g t r d _ _ => g.ok && tOk t d && r.notSr
  | .frnd g t r d _ => g.ok && tOk t d && r.notSr
  | .hadd2 g t _ r d _ _ | .hmul2 g t _ r d _ _ => g.ok && tOk t d && r.notSr
  | .hfma2 g t _ r d _ _ _ => g.ok && tOk t d && r.notSr
  | .frcp g t _ d _ | .frsq g t _ d _ => g.ok && tOk t d
  | .fsqrt g t ax r d _ => g.ok && tOk t d && r.notSr && (!ax || r == .rne)
  | .fdiv g t ax r d _ _ => g.ok && tOk t d && r.notSr && (!ax || r == .rne)
  | .fexp2 g t _ d _ | .flog2 g t _ d _ | .fsin g t _ d _ | .fcos g t _ d _ => g.ok && tOk t d
  | .f2i g t _ r d _ => g.ok && tOk t d && r.notSr
  | .i2f g t _ r d _ => g.ok && tOk t d && r.notSr
  | .fcvt g t sat src dst r d _ c => g.ok && tOk t d && src != dst &&
      (dst != .f32 || r == .rne && !sat) && (if r == .sr then c != 0xFF#8 else c == 0#8)
  | .qcvt g t sat sr code d a b c => g.ok && tOk t d && isQFormat code.toNat && (!isIntQ code.toNat || sat) &&
      isPair a && isPair b && (if sr then isQuad c else c == 0#8)
  | .dqcvt g t code d _ => g.ok && tOk t d && isQFormat code.toNat && isQuad d
  | .mxq g t sr d _ b => g.ok && tOk t d && (sr || b == 0#8)
  | .rng g t d a b | .rngf g t d a b => g.ok && tOk t d && isPair a && isPair b
  | .ld g sx m r base => g.ok && sxOk sx m.size && loadOrder m.order && isPair base && sizedOk m.size r
  | .st g m r base => g.ok && storeOrder m.order && isPair base && sizedOk m.size r
  | .lds g sx m r _ => g.ok && sxOk sx m.size && loadOrder m.order && m.hint == .normal && sizedOk m.size r
  | .sts g m r _ => g.ok && storeOrder m.order && m.hint == .normal && sizedOk m.size r
  | .ldp g s _ r _ => g.ok && (isB32or64 s || s == .b128) && sizedOk s r
  | .pref g _ _ base => g.ok && isPair base
  | .atom g op m d r base => g.ok && atomSizeOk op m.size && isPair base && sizedOk m.size r && sizedOk m.size d
  | .atoms g op m d r _ => g.ok && atomSizeOk op m.size && m.hint == .normal && sizedOk m.size r && sizedOk m.size d
  | .red g op m r base => g.ok && atomSizeOk op m.size && op != .exch && op != .cas && storeOrder m.order && isPair base &&
      sizedOk m.size r
  | .fence g o _ => g.ok && o != .rlx
  | .mwait g s _ base => g.ok && isB32or64 s && isPair base
  | .spill g _ _ r _ | .fill g _ _ r _ => g.ok && isV r
  | .shfl g t m w d _ b _ => g.ok && tOk t d && decide (w.toNat ≤ 5) && (m != .rev || b == 0#8)
  | .vote g t m _ d => g.ok && (match m with | .test _ => !t && isPred d | _ => tOk t d)
  | .matchLanes g t b64 _ d a => g.ok && tOk t d && (!b64 || isPair a)
  | .credux g t _ d _ => g.ok && tOk t d
  | .elect g d => g.ok && isPred d
  | .bar g _ l i => g.ok && decide (i.toNat < l.count)
  | .tkwait g _ _ | .tkpass g _ => g.ok
  | .regroup g _ _ d => g.ok && isPred d
  | .reggrow g m n d => g.ok && decide (n.toNat ≤ 5) && (if m == .try then isPred d else d == 0#8)
  | .regshrink g n => g.ok && decide (n.toNat ≤ 5)
  | .waitc g _ _ _ _ => g.ok
  | .cpy g _ _ a b c | .cpyo g _ _ a b c | .cpyx g _ _ a b c => g.ok && isPair a && isPair b && isPair c
  | .cpym g _ _ _ a b c => g.ok && isPair a && isPair b && isPair c
  | .tgwany g a | .tgwall g a | .tgclr g a => g.ok && isPair a
  | .tgff g t _ d a => g.ok && tOk t d && isPair a
  | .mfence g => g.ok
  | .missue g win a b c | .mgang g win a b c => g.ok && (win || isPair a) && isPair b && isPair c
  | .twait g _ => g.ok
  | .mzero g _ => g.ok
  | .mload g _ a => g.ok && isPair a
  | .mread g t _ _ _ d => g.ok && tOk t d
  | .mwrite g _ _ _ _ => g.ok
  | .mswr g t _ _ d => g.ok && tOk t d && isQuad d
  | .mdrain g x => g.ok && x.ok
  | .bra g _ | .brx g _ | .ret g _ => g.ok
  | .call g d _ => g.ok && !isK d
  | .callx g d _ _ => g.ok && tOk d.t d.reg && !isK d.reg
  | .exit g | .nop g | .yield g => g.ok
  | .sread g t s d => g.ok && tOk t d && (!s.wide || isPair d)
  | .swrite g s _ => g.ok && s.writable
  | .claunch g a => g.ok && isPair a
  | .cjoin g | .trap g _ | .bpt g | .icsync g _ | .rett g => g.ok
  | .translationWalk die | .operatingPointChange die | .clockStop die | .relockDone die | .operatingPointStable die => decide (die < 2)
  | .ageingSample die _ | .forcedAgeingSample die _ | .dieLoss die | .throttle die _ _ _ _ => decide (die < 2)
  | .fbrp die _ | .tokenBucketFill die _ | .rowSparing die _ => decide (die < 2)
  | .granuleGrant core | .scratchpadBankSpare core => decide (core < 2048)
  | .queueEnable q _ | .queueDisable q _ | .qwp q _ | .qresume q _ | .destroyFinish q _ | .destroyKill q _ => decide (q < 128)
  | .packetFetch q | .nopPacket q | .launch q | .coll q | .copyPacket q | .copyPacketComplete q _ | .signalPacket q
  | .waitv q | .waitvWake q | .stepPacket q | .graph q | .cond q | .whileNode q => decide (q < 128)
  | .halt s _ | .stepCmd s _ | .resume s _ | .readCmd s _ | .writeCmd s _ | .trigger s _ | .stepReport s
  | .capabilityRevoke s | .traceWindowEnd s => decide (s < 256)
  | .peerRequest p _ | .ualinkLaneFailure p _ | .portTraining p _ _ => decide (p < 12)
  | _ => true

/-- The rows that are words in an issue slot; the others are the part's own steps and its inputs. -/
def encoded : Instr → Bool
  | .issueSelection .. | .barrierPhaseComplete .. | .regroupStep .. | .granuleGrant .. | .copyComplete .. | .tileOpComplete ..
  | .gangPartEnd .. | .tkDrainStart .. | .yieldHoldExpiry .. | .loadReturn .. | .storeAccept .. | .lateFault ..
  | .translationWalk .. | .mwaitWake .. | .waveOpen .. | .teamRetire .. | .gridRetire .. | .watchdogFire ..
  | .clusterPlacement .. | .preemption .. | .restore .. | .queueEnable .. | .queueDisable .. | .qwp .. | .qresume ..
  | .destroyFinish .. | .destroyKill .. | .packetFetch .. | .nopPacket .. | .launch .. | .coll .. | .copyPacket ..
  | .copyPacketComplete .. | .signalPacket .. | .waitv .. | .waitvWake .. | .stepPacket .. | .graph .. | .cond ..
  | .whileNode .. | .collSend .. | .collRecv .. | .collRrs .. | .collCopy .. | .collWait .. | .collLoop .. | .collEnd ..
  | .collectiveChunk .. | .collectiveCredit .. | .collectiveAbort .. | .peerLossTimeout .. | .peerRequest ..
  | .unlistedMessage .. | .ualinkLaneFailure .. | .hostApertureAccess .. | .invalidateTranslations .. | .replay ..
  | .cancel .. | .suspend .. | .contextResume .. | .terminate .. | .fbrp .. | .halt .. | .stepCmd .. | .stepReport ..
  | .resume .. | .resumeEngines .. | .resumeCores .. | .readCmd .. | .writeCmd .. | .trigger .. | .capabilityRevoke ..
  | .sloeHalt .. | .sloeResume .. | .sloeCauseReport .. | .triggerMessage .. | .traceWindowEnd ..
  | .operatingPointChange .. | .clockStop .. | .relockDone .. | .operatingPointStable .. | .throttle ..
  | .criticalShutdown .. | .ageingSample .. | .forcedAgeingSample .. | .correctedError .. | .scratchpadBankSpare ..
  | .dieLoss .. | .fundamentalReset .. | .functionLevelReset .. | .claim .. | .release .. | .mghand .. | .handoverLapse ..
  | .mgbeat .. | .ownershipLapse .. | .stageImage .. | .abortStaging .. | .firmwareStaged .. | .getVersion ..
  | .getCapabilities .. | .negotiateAlgorithms .. | .getDigests .. | .getCertificate .. | .challenge ..
  | .getMeasurements .. | .bypass .. | .idcode .. | .samplePreload .. | .extest .. | .registerWrite ..
  | .collectiveAcknowledgement .. | .peerUnreachable .. | .portTraining .. | .pcieLinkTraining .. | .ideKm ..
  | .powerLoss .. | .uncorrectableError .. | .rowSparing .. | .tokenBucketFill .. | .invalidationComplete .. => false
  | _ => true

end Instr

end Sys2Proof
end

