-- ==== Sys2Proof/Decode.lean ====
section
/-! DEFINITION. The decoder (Tables 5.3 to 5.12, 6.1, 7.1, 8.1, 8.5, 9.2, 10.1), total on any bytes and refusing by name, and after
it the encoder written from the same tables. -/

namespace Sys2Proof

/-- Why bytes are no instruction: fewer than eight bytes, an opcode that no group table lists (0x01), or a reserved field (0x02). -/
inductive DecodeErr
  | short
  | illegalOpcode
  | reservedField
deriving DecidableEq, Repr

/-- The fields of an instruction word in the register form (Tables 5.3, 5.4); the other forms regroup b to x. -/
structure RawWord where
  op : BitVec 8
  gneg : Bool
  gp : BitVec 3
  d : BitVec 8
  a : BitVec 8
  b : BitVec 8
  c : BitVec 8
  fn : BitVec 8
  t : Bool
  x : BitVec 11
deriving DecidableEq, Repr

/-- Bits of a word into fields (Tables 5.3, 5.4). -/
def unpackWord (w : DWord) : RawWord where
  op := w.extractLsb' 56 8
  gneg := w.getLsbD 55
  gp := w.extractLsb' 52 3
  d := w.extractLsb' 44 8
  a := w.extractLsb' 36 8
  b := w.extractLsb' 28 8
  c := w.extractLsb' 20 8
  fn := w.extractLsb' 12 8
  t := w.getLsbD 11
  x := w.extractLsb' 0 11

/-- Fields into the bits of a word (Tables 5.3, 5.4). -/
def packWord (r : RawWord) : DWord :=
  (r.op ++ BitVec.ofBool r.gneg ++ r.gp ++ r.d ++ r.a ++ r.b ++ r.c ++ r.fn ++ BitVec.ofBool r.t ++ r.x).cast (by decide)

/-- fn4 of the immediate and branch forms. -/
def RawWord.fn4 (r : RawWord) : BitVec 4 := r.b.extractLsb' 4 4
/-- imm32 of the immediate and branch forms. -/
def RawWord.imm (r : RawWord) : Word :=
  (r.b.extractLsb' 0 4 ++ r.c ++ r.fn ++ BitVec.ofBool r.t ++ r.x).cast (by decide)
/-- size, scope and order of the memory form; cache hint and fn. -/
def RawWord.msize (r : RawWord) : BitVec 3 := r.c.extractLsb' 5 3
def RawWord.mscope (r : RawWord) : BitVec 3 := r.c.extractLsb' 2 3
def RawWord.morder (r : RawWord) : BitVec 2 := r.c.extractLsb' 0 2
def RawWord.mhint (r : RawWord) : BitVec 2 := r.fn.extractLsb' 6 2
def RawWord.mfn (r : RawWord) : BitVec 6 := r.fn.extractLsb' 0 6
/-- The tag or tile field [10:5] and the low bits [4:0]. -/
def RawWord.x6 (r : RawWord) : BitVec 6 := r.x.extractLsb' 5 6
def RawWord.xlow (r : RawWord) : BitVec 5 := r.x.extractLsb' 0 5
def RawWord.guard (r : RawWord) : Guard := ⟨r.gneg, r.gp⟩

/-! ### Small fields -/

/-- R86. -/
def decodeRnd (n : Nat) : Option Rnd :=
  match n with | 0 => some .rne | 1 => some .rtz | 2 => some .rdn | 3 => some .rup | 4 => some .sr | _ => none
def encodeRnd : Rnd → Nat | .rne => 0 | .rtz => 1 | .rdn => 2 | .rup => 3 | .sr => 4
def decodeSat (n : Nat) : Option SatMode :=
  match n with | 0 => some .wrap | 1 => some .satSgn | 2 => some .satUns | _ => none
def encodeSat : SatMode → Nat | .wrap => 0 | .satSgn => 1 | .satUns => 2
def decodeExt (n : Nat) : Option Ext64 :=
  match n with | 0 => some .pair | 1 => some .zx | 2 => some .sx | _ => none
def encodeExt : Ext64 → Nat | .pair => 0 | .zx => 1 | .sx => 2
def decodeFlag (n : Nat) : Option Bool :=
  match n with | 0 => some false | 1 => some true | _ => none
def encodeFlag (b : Bool) : Nat := b2n b
def decodeICmp (n : Nat) : Option ICmp :=
  match n with | 0 => some .eq | 1 => some .ne | 2 => some .lt | 3 => some .le | 4 => some .gt | 5 => some .ge | _ => none
def encodeICmp : ICmp → Nat | .eq => 0 | .ne => 1 | .lt => 2 | .le => 3 | .gt => 4 | .ge => 5
def decodeFCmp (n : Nat) : Option FCmp :=
  match n with
  | 0 => some .eq | 1 => some .ne | 2 => some .lt | 3 => some .le | 4 => some .gt | 5 => some .ge | 6 => some .uo | 7 => some .ord
  | _ => none
def encodeFCmp : FCmp → Nat | .eq => 0 | .ne => 1 | .lt => 2 | .le => 3 | .gt => 4 | .ge => 5 | .uo => 6 | .ord => 7
def decodeMovi (n : Nat) : Option MoviMode :=
  match n with | 0 => some .w32 | 1 => some .sx | 2 => some .zx | _ => none
def encodeMovi : MoviMode → Nat | .w32 => 0 | .sx => 1 | .zx => 2
def decodeIntDst (n : Nat) : Option IntDst :=
  match n with | 0 => some .int32 | 1 => some .int8 | 2 => some .uint8 | _ => none
def encodeIntDst : IntDst → Nat | .int32 => 0 | .int8 => 1 | .uint8 => 2
def decodeCvt (n : Nat) : Option CvtFmt :=
  match n with | 0 => some .f32 | 1 => some .bf16 | 2 => some .f16 | _ => none
def encodeCvt : CvtFmt → Nat | .f32 => 0 | .bf16 => 1 | .f16 => 2
def decodeSize (n : Nat) : Option Size :=
  match n with | 0 => some .b8 | 1 => some .b16 | 2 => some .b32 | 3 => some .b64 | 4 => some .b128 | _ => none
def encodeSize : Size → Nat | .b8 => 0 | .b16 => 1 | .b32 => 2 | .b64 => 3 | .b128 => 4
def decodeScope (n : Nat) : Option Scope :=
  match n with
  | 0 => some .crew | 1 => some .team | 2 => some .cluster | 3 => some .device | 4 => some .system | _ => none
def encodeScope : Scope → Nat | .crew => 0 | .team => 1 | .cluster => 2 | .device => 3 | .system => 4
def decodeOrder (n : Nat) : Order :=
  match n with | 0 => .rlx | 1 => .acq | 2 => .rel | _ => .ar
def encodeOrder : Order → Nat | .rlx => 0 | .acq => 1 | .rel => 2 | .ar => 3
def decodeHint (n : Nat) : Hint :=
  match n with | 0 => .normal | 1 => .strm | 2 => .l2 | _ => .keep
def encodeHint : Hint → Nat | .normal => 0 | .strm => 1 | .l2 => 2 | .keep => 3
def decodeAtom (n : Nat) : Option AtomOp :=
  match n with
  | 0 => some .add | 1 => some .minU | 2 => some .minS | 3 => some .maxU | 4 => some .maxS | 5 => some .and | 6 => some .or
  | 7 => some .xor | 8 => some .exch | 9 => some .cas | 10 => some .fadd | _ => none
def encodeAtom : AtomOp → Nat
  | .add => 0 | .minU => 1 | .minS => 2 | .maxU => 3 | .maxS => 4 | .and => 5 | .or => 6 | .xor => 7 | .exch => 8 | .cas => 9
  | .fadd => 10
def decodeShfl (n : Nat) : Option ShflMode :=
  match n with | 0 => some .from | 1 => some .rot | 2 => some .rev | 3 => some .swap | _ => none
def encodeShfl : ShflMode → Nat | .from => 0 | .rot => 1 | .rev => 2 | .swap => 3
def decodeCond (n : Nat) : VoteCond :=
  match n with | 0 => .none | 1 => .some | 2 => .every | _ => .mixed
def encodeCond : VoteCond → Nat | .none => 0 | .some => 1 | .every => 2 | .mixed => 3
def decodeMatchMode (n : Nat) : Option MatchMode :=
  match n with | 0 => some .first | 1 => some .rank | 2 => some .kinds | _ => none
def encodeMatchMode : MatchMode → Nat | .first => 0 | .rank => 1 | .kinds => 2
def decodeCred (n : Nat) : Option CredOp :=
  match n with
  | 0 => some .add | 1 => some .minU | 2 => some .minS | 3 => some .maxU | 4 => some .maxS | 5 => some .and | 6 => some .or
  | 7 => some .xor | 8 => some .fadd | 9 => some .fmin | 10 => some .fmax | _ => none
def encodeCred : CredOp → Nat
  | .add => 0 | .minU => 1 | .minS => 2 | .maxU => 3 | .maxS => 4 | .and => 5 | .or => 6 | .xor => 7 | .fadd => 8 | .fmin => 9
  | .fmax => 10
def decodeBarOp (n : Nat) : Option BarOp :=
  match n with | 0 => some .arv | 1 => some .wait | 2 => some .sync | _ => none
def encodeBarOp : BarOp → Nat | .arv => 0 | .wait => 1 | .sync => 2
def decodeLevel (n : Nat) : BarLevel :=
  match n with | 0 => .crew | 1 => .team | 2 => .cluster | _ => .grid
def encodeLevel : BarLevel → Nat | .crew => 0 | .team => 1 | .cluster => 2 | .grid => 3
def decodeGrow (n : Nat) : Option GrowMode :=
  match n with | 0 => some .blk | 1 => some .try | 2 => some .trap | _ => none
def encodeGrow : GrowMode → Nat | .blk => 0 | .try => 1 | .trap => 2
def decodeDrainFmt (n : Nat) : Option DrainFmt :=
  match n with
  | 0 => some .f32 | 1 => some .bf16 | 2 => some .f16 | 3 => some .e4m3 | 4 => some .e5m2 | 5 => some .q | _ => none
def encodeDrainFmt : DrainFmt → Nat | .f32 => 0 | .bf16 => 1 | .f16 => 2 | .e4m3 => 3 | .e5m2 => 4 | .q => 5
/-- Table 4.4. -/
def decodeSReg (n : Nat) : Option SReg :=
  match n with
  | 0x00 => some .tid | 0x01 => some .lane | 0x02 => some .crew | 0x03 => some .teamX | 0x04 => some .teamY | 0x05 => some .teamZ
  | 0x06 => some .nteams | 0x07 => some .crank | 0x08 => some .cshape | 0x09 => some .core | 0x0A => some .die
  | 0x0B => some .depth | 0x0C => some .rgen | 0x10 => some .cyc | 0x11 => some .ncyc | 0x12 => some .ref
  | 0x18 => some .tagmap | 0x19 => some .tlstat | 0x1A => some .detlvl | 0x1B => some .trapvec | 0x1C => some .fault
  | _ => none
def encodeSReg : SReg → Nat
  | .tid => 0x00 | .lane => 0x01 | .crew => 0x02 | .teamX => 0x03 | .teamY => 0x04 | .teamZ => 0x05 | .nteams => 0x06
  | .crank => 0x07 | .cshape => 0x08 | .core => 0x09 | .die => 0x0A | .depth => 0x0B | .rgen => 0x0C | .cyc => 0x10
  | .ncyc => 0x11 | .ref => 0x12 | .tagmap => 0x18 | .tlstat => 0x19 | .detlvl => 0x1A | .trapvec => 0x1B | .fault => 0x1C

/-! ### Zero checks -/

/-- b, c and [10:0] zero. -/
def RawWord.zBCX (r : RawWord) : Bool := r.b == 0#8 && r.c == 0#8 && r.x == 0#11
/-- c and [10:0] zero. -/
def RawWord.zCX (r : RawWord) : Bool := r.c == 0#8 && r.x == 0#11
/-- d, b, c zero, T clear. -/
def RawWord.zDBCT (r : RawWord) : Bool := r.d == 0#8 && r.b == 0#8 && r.c == 0#8 && !r.t
/-- fn, [10:0] zero, T clear. -/
def RawWord.zFTX (r : RawWord) : Bool := r.fn == 0#8 && r.x == 0#11 && !r.t
/-- Everything but opcode and guard zero. -/
def RawWord.zAll (r : RawWord) : Bool := r.d == 0#8 && r.a == 0#8 && r.b == 0#8 && r.c == 0#8 && r.zFTX

/-- Keeps a decoded instruction if its zero fields are zero. -/
def keep (ok : Bool) (i : Instr) : Option Instr := if ok then some i else none

/-- A predicate source field of PLOP (R110). -/
def psrcOf (c : BitVec 8) : PSrc := ⟨c.getLsbD 3, c.extractLsb' 0 3⟩
def psrcCode (p : PSrc) : BitVec 8 := (0#4 ++ BitVec.ofBool p.neg ++ p.p).cast (by decide)

/-- The memory form's modifiers (R84), its offset and T (R150). -/
def RawWord.memF (r : RawWord) : Option MemF :=
  match decodeSize r.msize.toNat, decodeScope r.mscope.toNat with
  | some s, some sc => if r.t then none else some ⟨s, sc, decodeOrder r.morder.toNat, decodeHint r.mhint.toNat, r.x⟩
  | _, _ => none

def decodeBarRow (r : RawWord) : Option Instr :=
  (decodeBarOp (r.fn.toNat % 4)).bind fun o =>
    keep (r.zDBCT && r.a == 0#8 && r.x == 0#11) (.bar r.guard o (decodeLevel (r.fn.toNat / 4 % 4)) (r.fn.extractLsb' 4 4))

def decodeVoteRow (r : RawWord) : Option Instr :=
  let src : PSrc := ⟨r.x.getLsbD 7, r.x.extractLsb' 8 3⟩
  let z := r.a == 0#8 && r.b == 0#8 && r.c == 0#8 && r.xlow == 0#5
  match r.fn.toNat with
  | 0 => keep (z && r.x.extractLsb' 5 2 == 0#2) (.vote r.guard r.t .mask src r.d)
  | 1 => keep (z && r.x.extractLsb' 5 2 == 0#2) (.vote r.guard r.t .count src r.d)
  | 2 => keep z (.vote r.guard r.t (.test (decodeCond (r.x.extractLsb' 5 2).toNat)) src r.d)
  | _ => none

/-- Table 5.11. -/
def decodeDrainRow (r : RawWord) : Option Instr :=
  (decodeDrainFmt (r.fn.extractLsb' 4 3).toNat).bind fun f =>
    let x (am : Option Scope) : Drain :=
      { glob := r.fn.getLsbD 7, fmt := f, tk := r.fn.getLsbD 3, sat := r.fn.getLsbD 2, sr := r.fn.getLsbD 1, add := r.fn.getLsbD 0,
        tile := r.x6, amax := am, d := r.d, a := r.a, b := r.b, c := r.c }
    if r.x.getLsbD 1 then
      (decodeScope (r.x.extractLsb' 2 3).toNat).bind fun s => keep (!r.t && !r.x.getLsbD 0) (.mdrain r.guard (x (some s)))
    else keep (!r.t && !r.x.getLsbD 0 && r.x.extractLsb' 2 3 == 0#3) (.mdrain r.guard (x none))

/-- Opcode 0x1E (Table 6.4). -/
def decodeImmRow (r : RawWord) : Option Instr :=
  match r.fn4.toNat with
  | 0 => some (.iaddImm r.guard r.d r.a r.imm)
  | 1 => some (.imulImm r.guard r.d r.a r.imm)
  | 2 => some (.andImm r.guard r.d r.a r.imm)
  | 3 => some (.orImm r.guard r.d r.a r.imm)
  | 4 => some (.xorImm r.guard r.d r.a r.imm)
  | 5 => some (.andnImm r.guard r.d r.a r.imm)
  | 6 => some (.shlImm r.guard r.d r.a r.imm)
  | 7 => some (.shrImm r.guard r.d r.a r.imm)
  | 8 => some (.sarImm r.guard r.d r.a r.imm)
  | 9 => some (.rotlImm r.guard r.d r.a r.imm)
  | 10 => some (.iminImm r.guard false r.d r.a r.imm)
  | 11 => some (.iminImm r.guard true r.d r.a r.imm)
  | 12 => some (.imaxImm r.guard false r.d r.a r.imm)
  | 13 => some (.imaxImm r.guard true r.d r.a r.imm)
  | 14 => some (.iadd64Imm r.guard r.d r.a r.imm)
  | _ => none

/-- Three registers, c and [10:0] zero, fn zero. -/
def reg3 (mk : Guard → Bool → Reg → Reg → Reg → Instr) (r : RawWord) : Option Instr :=
  keep (r.zCX && r.fn == 0#8) (mk r.guard r.t r.d r.a r.b)
/-- Four registers, fn and [10:0] zero. -/
def reg4 (mk : Guard → Bool → Reg → Reg → Reg → Reg → Instr) (r : RawWord) : Option Instr :=
  keep (r.x == 0#11 && r.fn == 0#8) (mk r.guard r.t r.d r.a r.b r.c)
/-- d and a, everything else zero. -/
def reg2 (mk : Guard → Bool → Reg → Reg → Instr) (r : RawWord) : Option Instr :=
  keep (r.zBCX && r.fn == 0#8) (mk r.guard r.t r.d r.a)
/-- Three registers and a flag in fn. -/
def reg3f (mk : Guard → Bool → Bool → Reg → Reg → Reg → Instr) (r : RawWord) : Option Instr :=
  (decodeFlag r.fn.toNat).bind fun f => keep r.zCX (mk r.guard r.t f r.d r.a r.b)
/-- Three registers and a rounding mode in fn. -/
def reg3r (mk : Guard → Bool → Rnd → Reg → Reg → Reg → Instr) (r : RawWord) : Option Instr :=
  (decodeRnd r.fn.toNat).bind fun m => keep r.zCX (mk r.guard r.t m r.d r.a r.b)
/-- The packed 16-bit rows: rounding in fn[2:0], format in fn[3]. -/
def reg3h (mk : Guard → Bool → Bool → Rnd → Reg → Reg → Reg → Instr) (r : RawWord) : Option Instr :=
  (decodeRnd (r.fn.toNat % 8)).bind fun m =>
    (decodeFlag (r.fn.toNat / 8)).bind fun bf => keep r.zCX (mk r.guard r.t bf m r.d r.a r.b)
/-- The one-operand functions with `.cr` and `.ax` in fn[3]. -/
def reg2ax (mk : Guard → Bool → Bool → Reg → Reg → Instr) (r : RawWord) : Option Instr :=
  match r.fn.toNat with
  | 0 => keep r.zBCX (mk r.guard r.t false r.d r.a)
  | 8 => keep r.zBCX (mk r.guard r.t true r.d r.a)
  | _ => none
/-- A memory row whose d and fn are zero. -/
def memRow (mk : MemF → Instr) (r : RawWord) : Option Instr :=
  r.memF.bind fun m => keep (r.d == 0#8 && r.mfn == 0#6) (mk m)
/-- A memory row with `.sx` in fn[0]. -/
def memSx (mk : Bool → MemF → Instr) (r : RawWord) : Option Instr :=
  r.memF.bind fun m => (decodeFlag r.mfn.toNat).bind fun sx => keep (r.d == 0#8) (mk sx m)
/-- A copy row: element size in fn, tag in [10:5]. -/
def copyRow (mk : Size → BitVec 6 → Instr) (dz : Bool) (r : RawWord) : Option Instr :=
  (decodeSize r.fn.toNat).bind fun e => keep (r.xlow == 0#5 && !r.t && (!dz || r.d == 0#8)) (mk e r.x6)

/-- The rows 0x00 to 0x1E (Tables 5.6, 6.1). -/
def decodeInteger (r : RawWord) (op : Nat) : Option Instr :=
  match op with
  | 0x00 => (decodeSat r.fn.toNat).bind fun m => keep r.zCX (.iadd r.guard r.t m r.d r.a r.b)
  | 0x01 => (decodeSat r.fn.toNat).bind fun m => keep r.zCX (.isub r.guard r.t m r.d r.a r.b)
  | 0x02 => reg3 .imul r
  | 0x03 => reg3f .imulhi r
  | 0x04 => reg4 .imad r
  | 0x05 => reg3f .imin r
  | 0x06 => reg3f .imax r
  | 0x07 => (decodeFlag r.fn.toNat).bind fun s => keep r.zBCX (.iabs r.guard r.t s r.d r.a)
  | 0x08 => (decodeExt r.fn.toNat).bind fun m => keep r.zCX (.iadd64 r.guard r.t m r.d r.a r.b)
  | 0x09 => keep (r.zCX && r.fn.extractLsb' 4 4 == 0#4) (.lea r.guard r.t (r.fn.getLsbD 3) (r.fn.extractLsb' 0 3) r.d r.a r.b)
  | 0x0A => reg3 .and r
  | 0x0B => reg3 .or r
  | 0x0C => reg3 .xor r
  | 0x0D => reg3 .andn r
  | 0x0E => reg3 .shl r
  | 0x0F => reg3 .shr r
  | 0x10 => reg3 .sar r
  | 0x11 => reg3 .rotl r
  | 0x12 => reg2 .clz r
  | 0x13 => reg2 .popc r
  | 0x14 => reg2 .brev r
  | 0x15 => reg3f .bfx r
  | 0x16 => reg4 .bfi r
  | 0x17 => reg4 .prmt r
  | 0x18 => keep (r.zCX && r.fn.extractLsb' 4 4 == 0#4) (.sel r.guard r.t (r.fn.getLsbD 3) (r.fn.extractLsb' 0 3) r.d r.a r.b)
  | 0x19 => (decodeICmp (r.fn.toNat % 8)).bind fun m =>
      keep (r.zCX && r.fn.extractLsb' 4 4 == 0#4 && !r.t) (.iset r.guard (r.fn.getLsbD 3) m r.d r.a r.b)
  | 0x1A => keep (r.zCX && r.fn.extractLsb' 4 4 == 0#4 && r.a.extractLsb' 4 4 == 0#4 && r.b.extractLsb' 4 4 == 0#4 && !r.t)
      (.plop r.guard (r.fn.extractLsb' 0 4) r.d (psrcOf r.a) (psrcOf r.b))
  | 0x1B => (decodeFlag r.fn.toNat).bind fun b64 => keep r.zBCX (.mov r.guard r.t b64 r.d r.a)
  | 0x1C =>
      match r.fn.toNat with
      | 0 => keep (r.zBCX && r.a == 0#8) (.movp r.guard r.t false r.d)
      | 1 => keep (r.zBCX && r.d == 0#8) (.movp r.guard r.t true r.a)
      | _ => none
  | 0x1D => (decodeMovi r.fn4.toNat).bind fun m => keep (r.a == 0#8) (.movi r.guard m r.d r.imm)
  | 0x1E => decodeImmRow r
  | _ => none

/-- The rows 0x20 to 0x3C (Tables 5.7, 7.1). -/
def decodeFloat (r : RawWord) (op : Nat) : Option Instr :=
  match op with
  | 0x20 => reg3r .fadd r
  | 0x21 => reg3r .fsub r
  | 0x22 => reg3r .fmul r
  | 0x23 => (decodeRnd r.fn.toNat).bind fun m => keep (r.x == 0#11) (.ffma r.guard r.t m r.d r.a r.b r.c)
  | 0x24 => reg3 .fmin r
  | 0x25 => reg3 .fmax r
  | 0x26 => (decodeFCmp r.fn.toNat).bind fun m => keep (r.zCX && !r.t) (.fset r.guard m r.d r.a r.b)
  | 0x27 => reg2 .fclass r
  | 0x28 => reg3r .fscale r
  | 0x29 => (decodeRnd r.fn.toNat).bind fun m => keep r.zBCX (.frnd r.guard r.t m r.d r.a)
  | 0x2A => reg3h .hadd2 r
  | 0x2B => reg3h .hmul2 r
  | 0x2C => (decodeRnd (r.fn.toNat % 8)).bind fun m => (decodeFlag (r.fn.toNat / 8)).bind fun bf =>
      keep (r.x == 0#11) (.hfma2 r.guard r.t bf m r.d r.a r.b r.c)
  | 0x2D => reg2ax .frcp r
  | 0x2E => reg2ax .frsq r
  | 0x2F => (decodeRnd (r.fn.toNat % 8)).bind fun m => (decodeFlag (r.fn.toNat / 8)).bind fun ax =>
      keep r.zBCX (.fsqrt r.guard r.t ax m r.d r.a)
  | 0x30 => (decodeRnd (r.fn.toNat % 8)).bind fun m => (decodeFlag (r.fn.toNat / 8)).bind fun ax =>
      keep r.zCX (.fdiv r.guard r.t ax m r.d r.a r.b)
  | 0x31 => reg2ax .fexp2 r
  | 0x32 => reg2ax .flog2 r
  | 0x33 => reg2ax .fsin r
  | 0x34 => reg2ax .fcos r
  | 0x35 => (decodeRnd (r.fn.toNat % 8)).bind fun m => (decodeIntDst (r.fn.toNat / 8)).bind fun f =>
      keep r.zBCX (.f2i r.guard r.t f m r.d r.a)
  | 0x36 => (decodeRnd (r.fn.toNat % 8)).bind fun m => (decodeFlag (r.fn.toNat / 8)).bind fun u =>
      keep r.zBCX (.i2f r.guard r.t u m r.d r.a)
  | 0x37 => (decodeRnd (r.fn.toNat % 8)).bind fun m => (decodeCvt (r.fn.toNat / 8 % 4)).bind fun s =>
      (decodeCvt (r.fn.toNat / 32 % 4)).bind fun d =>
      keep (r.b == 0#8 && r.x == 0#11) (.fcvt r.guard r.t (r.fn.getLsbD 7) s d m r.d r.a r.c)
  | 0x38 =>
      let q (sr : Bool) := keep (r.fn.extractLsb' 4 4 == 0#4 && r.x.extractLsb' 0 3 == 0#3)
        (.qcvt r.guard r.t (r.fn.getLsbD 3) sr (r.x.extractLsb' 3 8) r.d r.a r.b r.c)
      match r.fn.toNat % 8 with
      | 0 => q false
      | 4 => q true
      | _ => none
  | 0x39 => keep (r.b == 0#8 && r.c == 0#8 && r.fn == 0#8 && r.x.extractLsb' 0 3 == 0#3)
      (.dqcvt r.guard r.t (r.x.extractLsb' 3 8) r.d r.a)
  | 0x3A =>
      match r.fn.toNat with
      | 0 => keep r.zCX (.mxq r.guard r.t false r.d r.a r.b)
      | 4 => keep r.zCX (.mxq r.guard r.t true r.d r.a r.b)
      | _ => none
  | 0x3B => reg3 .rng r
  | 0x3C => reg3 .rngf r
  | _ => none

/-- The rows 0x40 to 0x4C (Tables 5.8, 8.1). -/
def decodeMemory (r : RawWord) (op : Nat) : Option Instr :=
  match op with
  | 0x40 => memSx (fun sx m => .ld r.guard sx m r.b r.a) r
  | 0x41 => memRow (fun m => .st r.guard m r.b r.a) r
  | 0x42 => memSx (fun sx m => .lds r.guard sx m r.b r.a) r
  | 0x43 => memRow (fun m => .sts r.guard m r.b r.a) r
  | 0x44 => r.memF.bind fun m =>
      keep (r.d == 0#8 && r.mfn == 0#6 && m.scope == .crew && m.order == .rlx && m.hint == .normal)
        (.ldp r.guard m.size m.off r.b r.a)
  | 0x45 => r.memF.bind fun m =>
      keep (r.d == 0#8 && r.b == 0#8 && r.mfn == 0#6 && m.size == .b8 && m.scope == .crew && m.order == .rlx)
        (.pref r.guard m.hint m.off r.a)
  | 0x46 => r.memF.bind fun m => (decodeAtom r.mfn.toNat).map fun o => .atom r.guard o m r.d r.b r.a
  | 0x47 => r.memF.bind fun m => (decodeAtom r.mfn.toNat).map fun o => .atoms r.guard o m r.d r.b r.a
  | 0x48 => r.memF.bind fun m => (decodeAtom r.mfn.toNat).bind fun o => keep (r.d == 0#8) (.red r.guard o m r.b r.a)
  | 0x49 => r.memF.bind fun m =>
      keep (r.d == 0#8 && r.a == 0#8 && r.b == 0#8 && r.mfn == 0#6 && m.size == .b8 && m.hint == .normal && m.off == 0#11)
        (.fence r.guard m.order m.scope)
  | 0x4A => r.memF.bind fun m =>
      keep (r.d == 0#8 && r.b == 0#8 && r.mfn == 0#6 && m.scope == .crew && m.order == .rlx && m.hint == .normal)
        (.mwait r.guard m.size m.off r.a)
  | 0x4B => r.memF.bind fun m =>
      keep (r.d == 0#8 && r.mfn == 0#6 && m.size == .b32 && m.scope == .crew && m.order == .rlx)
        (.spill r.guard m.hint m.off r.b r.a)
  | 0x4C => r.memF.bind fun m =>
      keep (r.d == 0#8 && r.mfn == 0#6 && m.size == .b32 && m.scope == .crew && m.order == .rlx)
        (.fill r.guard m.hint m.off r.b r.a)
  | _ => none

/-- The rows 0x60 to 0x6B (Tables 5.9, 8.5). -/
def decodeCrew (r : RawWord) (op : Nat) : Option Instr :=
  match op with
  | 0x60 => (decodeShfl r.fn.toNat).bind fun m =>
      keep (r.x.extractLsb' 0 8 == 0#8) (.shfl r.guard r.t m (r.x.extractLsb' 8 3) r.d r.a r.b r.c)
  | 0x61 => decodeVoteRow r
  | 0x62 => (decodeMatchMode (r.fn.toNat % 4)).bind fun m => (decodeFlag (r.fn.toNat / 4)).bind fun b64 =>
      keep r.zBCX (.matchLanes r.guard r.t b64 m r.d r.a)
  | 0x63 => (decodeCred r.fn.toNat).bind fun o => keep r.zBCX (.credux r.guard r.t o r.d r.a)
  | 0x64 => keep (r.zBCX && r.a == 0#8 && r.fn == 0#8 && !r.t) (.elect r.guard r.d)
  | 0x65 => decodeBarRow r
  | 0x66 => keep (r.zBCX && r.a == 0#8 && !r.t && r.fn.extractLsb' 2 6 == 0#6) (.tkwait r.guard (r.fn.extractLsb' 0 2) r.d)
  | 0x67 => keep (r.zBCX && r.a == 0#8 && r.d == 0#8 && !r.t && r.fn.extractLsb' 2 6 == 0#6) (.tkpass r.guard (r.fn.extractLsb' 0 2))
  | 0x68 => (decodeFlag r.fn.toNat).bind fun pack => keep (r.zBCX && !r.t) (.regroup r.guard pack r.a r.d)
  | 0x69 => (decodeGrow r.fn.toNat).bind fun m =>
      keep (r.a == 0#8 && r.b == 0#8 && r.c == 0#8 && !r.t && r.x.extractLsb' 0 8 == 0#8)
        (.reggrow r.guard m (r.x.extractLsb' 8 3) r.d)
  | 0x6A => keep (r.zDBCT && r.a == 0#8 && r.fn == 0#8 && r.x.extractLsb' 0 8 == 0#8) (.regshrink r.guard (r.x.extractLsb' 8 3))
  | 0x6B => keep (r.zDBCT && r.a == 0#8 && r.x.extractLsb' 0 3 == 0#3)
      (.waitc r.guard (r.fn.extractLsb' 4 4) (r.fn.extractLsb' 0 4) (r.x.extractLsb' 7 4) (r.x.extractLsb' 3 4))
  | _ => none

/-- The rows 0x70 to 0x89 (Tables 5.10, 9.2). -/
def decodeEngine (r : RawWord) (op : Nat) : Option Instr :=
  match op with
  | 0x70 => copyRow (fun e tag => .cpy r.guard e tag r.a r.b r.c) true r
  | 0x71 => copyRow (fun e tag => .cpym r.guard e tag r.d r.a r.b r.c) false r
  | 0x72 => copyRow (fun e tag => .cpyo r.guard e tag r.a r.b r.c) true r
  | 0x73 => copyRow (fun e tag => .cpyx r.guard e tag r.a r.b r.c) true r
  | 0x74 => keep (r.zDBCT && r.zFTX) (.tgwany r.guard r.a)
  | 0x75 => keep (r.zDBCT && r.zFTX) (.tgwall r.guard r.a)
  | 0x76 => (decodeFlag r.fn.toNat).bind fun clr => keep r.zBCX (.tgff r.guard r.t clr r.d r.a)
  | 0x77 => keep (r.zDBCT && r.zFTX) (.tgclr r.guard r.a)
  | 0x80 => keep r.zAll (.mfence r.guard)
  | 0x81 => (decodeFlag r.fn.toNat).bind fun win =>
      keep (r.d == 0#8 && !r.t && r.x == 0#11) (.missue r.guard win r.a r.b r.c)
  | 0x82 => (decodeFlag r.fn.toNat).bind fun win =>
      keep (r.d == 0#8 && !r.t && r.x == 0#11) (.mgang r.guard win r.a r.b r.c)
  | 0x83 => keep (r.a == 0#8 && r.b == 0#8 && r.c == 0#8 && r.zFTX) (.twait r.guard r.d)
  | 0x84 => keep (r.zDBCT && r.a == 0#8 && r.fn == 0#8 && r.xlow == 0#5) (.mzero r.guard r.x6)
  | 0x85 => keep (r.zDBCT && r.fn == 0#8 && r.xlow == 0#5) (.mload r.guard r.x6 r.a)
  | 0x86 => keep (r.a == 0#8 && r.b == 0#8 && r.c == 0#8 && !r.fn.getLsbD 7 && r.xlow == 0#5)
      (.mread r.guard r.t (r.fn.getLsbD 6) (r.fn.extractLsb' 0 6) r.x6 r.d)
  | 0x87 => keep (r.zDBCT && !r.fn.getLsbD 7 && r.xlow == 0#5)
      (.mwrite r.guard (r.fn.getLsbD 6) (r.fn.extractLsb' 0 6) r.x6 r.a)
  | 0x88 => (decodeFlag r.fn.toNat).bind fun clr =>
      keep (r.a == 0#8 && r.b == 0#8 && r.c == 0#8 && r.xlow == 0#5) (.mswr r.guard r.t clr r.x6 r.d)
  | 0x89 => decodeDrainRow r
  | _ => none

/-- The rows 0xA0 to 0xB7 (Tables 5.12, 10.1). -/
def decodeControl (r : RawWord) (op : Nat) : Option Instr :=
  match op with
  | 0xA0 => keep (r.d == 0#8 && r.a == 0#8 && r.fn4 == 0#4) (.bra r.guard r.imm)
  | 0xA1 => keep (r.zDBCT && r.zFTX) (.brx r.guard r.a)
  | 0xA2 => keep (r.a == 0#8 && r.fn4 == 0#4) (.call r.guard r.d r.imm)
  | 0xA3 => keep (r.b == 0#8 && r.c == 0#8 && r.fn == 0#8) (.callx r.guard ⟨r.d, r.t⟩ r.a r.x)
  | 0xA4 => keep (r.zDBCT && r.zFTX) (.ret r.guard r.a)
  | 0xA5 => keep r.zAll (.exit r.guard)
  | 0xA6 => keep r.zAll (.nop r.guard)
  | 0xA7 => keep r.zAll (.yield r.guard)
  | 0xB0 => (decodeSReg r.fn.toNat).bind fun s => keep (r.zBCX && r.a == 0#8) (.sread r.guard r.t s r.d)
  | 0xB1 => (decodeSReg r.fn.toNat).bind fun s => keep (r.zDBCT && r.x == 0#11) (.swrite r.guard s r.a)
  | 0xB2 => keep (r.zDBCT && r.zFTX) (.claunch r.guard r.a)
  | 0xB3 => keep r.zAll (.cjoin r.guard)
  | 0xB4 => keep (r.zDBCT && r.a == 0#8 && r.fn == 0#8) (.trap r.guard r.x)
  | 0xB5 => keep r.zAll (.bpt r.guard)
  | 0xB6 => (decodeScope r.fn.toNat).bind fun s => keep (r.zDBCT && r.a == 0#8 && r.x == 0#11) (.icsync r.guard s)
  | 0xB7 => keep r.zAll (.rett r.guard)
  | _ => none

/-- Is this opcode listed in Table 5.5? -/
def listedOpcode (op : Nat) : Bool :=
  decide (op ≤ 0x1E) || decide (0x20 ≤ op ∧ op ≤ 0x3C) || decide (0x40 ≤ op ∧ op ≤ 0x4C) || decide (0x60 ≤ op ∧ op ≤ 0x6B) ||
  decide (0x70 ≤ op ∧ op ≤ 0x77) || decide (0x80 ≤ op ∧ op ≤ 0x89) || decide (0xA0 ≤ op ∧ op ≤ 0xA7) || decide (0xB0 ≤ op ∧ op ≤ 0xB7)

/-- The instruction that the fields name, before the checks of WellFormed. -/
def decodeFields (r : RawWord) : Option Instr :=
  let op := r.op.toNat
  if op < 0x20 then decodeInteger r op
  else if op < 0x40 then decodeFloat r op
  else if op < 0x60 then decodeMemory r op
  else if op < 0x70 then decodeCrew r op
  else if op < 0xA0 then decodeEngine r op
  else decodeControl r op

/-- R85: an unlisted opcode is 0x01, everything else the word refuses 0x02. -/
def decodeRaw (r : RawWord) : Except DecodeErr Instr :=
  if listedOpcode r.op.toNat then
    match decodeFields r with
    | some i => if i.wellFormed then .ok i else .error .reservedField
    | none => .error .reservedField
  else .error .illegalOpcode

def decodeWord (w : DWord) : Except DecodeErr Instr := decodeRaw (unpackWord w)

/-- The instruction at the head of a list of bytes, and the rest (R5, R81). -/
def decode : List Byte → Except DecodeErr (Instr × List Byte)
  | b0 :: b1 :: b2 :: b3 :: b4 :: b5 :: b6 :: b7 :: rest =>
    match decodeWord (BitVec.ofNat 64 (ofBytes [b0, b1, b2, b3, b4, b5, b6, b7])) with
    | .ok i => .ok (i, rest)
    | .error e => .error e
  | _ => .error .short

/-- What the decoder reads from an instruction whose bits are w: the one 64-bit word, laid out little-endian. -/
def decodeTableWord (_nbits w : Nat) : Option Instr :=
  match decode (toBytes 8 w) with
  | .ok (i, _) => some i
  | .error _ => none

/-! ### The encoder -/

/-- A register-form word with the guard and T. -/
def rawReg (op : Nat) (g : Guard) (t : Bool) (d a b c : Reg) (fn : Nat) (x : BitVec 11) : RawWord :=
  ⟨BitVec.ofNat 8 op, g.neg, g.p, d, a, b, c, BitVec.ofNat 8 fn, t, x⟩
/-- An immediate or branch form word. -/
def rawImm (op : Nat) (g : Guard) (d a : Reg) (fn4 : Nat) (imm : Word) : RawWord where
  op := BitVec.ofNat 8 op
  gneg := g.neg
  gp := g.p
  d := d
  a := a
  b := (BitVec.ofNat 4 fn4 ++ imm.extractLsb' 28 4).cast (by decide)
  c := imm.extractLsb' 20 8
  fn := imm.extractLsb' 12 8
  t := imm.getLsbD 11
  x := imm.extractLsb' 0 11
/-- A memory form word. -/
def rawMem (op : Nat) (g : Guard) (d base data : Reg) (m : MemF) (fn : Nat) : RawWord where
  op := BitVec.ofNat 8 op
  gneg := g.neg
  gp := g.p
  d := d
  a := base
  b := data
  c := (BitVec.ofNat 3 (encodeSize m.size) ++ BitVec.ofNat 3 (encodeScope m.scope) ++ BitVec.ofNat 2 (encodeOrder m.order)).cast (by decide)
  fn := (BitVec.ofNat 2 (encodeHint m.hint) ++ BitVec.ofNat 6 fn).cast (by decide)
  t := false
  x := m.off
/-- A tag or tile number in [10:5]. -/
def xTile (n : BitVec 6) : BitVec 11 := (n ++ 0#5).cast (by decide)
/-- A three-bit number in [10:8]. -/
def xHigh3 (n : BitVec 3) : BitVec 11 := (n ++ 0#8).cast (by decide)
/-- A format code in [10:3]. -/
def xFmt (n : BitVec 8) : BitVec 11 := (n ++ 0#3).cast (by decide)

def rawDrain (g : Guard) (x : Drain) : RawWord where
  op := 0x89#8
  gneg := g.neg
  gp := g.p
  d := x.d
  a := x.a
  b := x.b
  c := x.c
  fn := (BitVec.ofBool x.glob ++ BitVec.ofNat 3 (encodeDrainFmt x.fmt) ++ BitVec.ofBool x.tk ++ BitVec.ofBool x.sat ++
    BitVec.ofBool x.sr ++ BitVec.ofBool x.add).cast (by decide)
  t := false
  x := (x.tile ++ BitVec.ofNat 3 (match x.amax with | some s => encodeScope s | none => 0) ++ BitVec.ofBool x.amax.isSome ++ 0#1).cast
    (by decide)

/-- The fields of an encoded instruction (Tables 5.6 to 5.12); none for the rows that are not words. -/
def encodeRaw : Instr → Option RawWord
  | .iadd g t m d a b => some (rawReg 0x00 g t d a b 0 (encodeSat m) 0)
  | .isub g t m d a b => some (rawReg 0x01 g t d a b 0 (encodeSat m) 0)
  | .imul g t d a b => some (rawReg 0x02 g t d a b 0 0 0)
  | .imulhi g t s d a b => some (rawReg 0x03 g t d a b 0 (b2n s) 0)
  | .imad g t d a b c => some (rawReg 0x04 g t d a b c 0 0)
  | .imin g t s d a b => some (rawReg 0x05 g t d a b 0 (b2n s) 0)
  | .imax g t s d a b => some (rawReg 0x06 g t d a b 0 (b2n s) 0)
  | .iabs g t s d a => some (rawReg 0x07 g t d a 0 0 (b2n s) 0)
  | .iadd64 g t m d a b => some (rawReg 0x08 g t d a b 0 (encodeExt m) 0)
  | .lea g t sx sh d a b => some (rawReg 0x09 g t d a b 0 (8 * b2n sx + sh.toNat) 0)
  | .and g t d a b => some (rawReg 0x0A g t d a b 0 0 0)
  | .or g t d a b => some (rawReg 0x0B g t d a b 0 0 0)
  | .xor g t d a b => some (rawReg 0x0C g t d a b 0 0 0)
  | .andn g t d a b => some (rawReg 0x0D g t d a b 0 0 0)
  | .shl g t d a b => some (rawReg 0x0E g t d a b 0 0 0)
  | .shr g t d a b => some (rawReg 0x0F g t d a b 0 0 0)
  | .sar g t d a b => some (rawReg 0x10 g t d a b 0 0 0)
  | .rotl g t d a b => some (rawReg 0x11 g t d a b 0 0 0)
  | .clz g t d a => some (rawReg 0x12 g t d a 0 0 0 0)
  | .popc g t d a => some (rawReg 0x13 g t d a 0 0 0 0)
  | .brev g t d a => some (rawReg 0x14 g t d a 0 0 0 0)
  | .bfx g t s d a b => some (rawReg 0x15 g t d a b 0 (b2n s) 0)
  | .bfi g t d a b c => some (rawReg 0x16 g t d a b c 0 0)
  | .prmt g t d a b c => some (rawReg 0x17 g t d a b c 0 0)
  | .sel g t n p d a b => some (rawReg 0x18 g t d a b 0 (8 * b2n n + p.toNat) 0)
  | .iset g u m d a b => some (rawReg 0x19 g false d a b 0 (8 * b2n u + encodeICmp m) 0)
  | .plop g tt d x y => some (rawReg 0x1A g false d (psrcCode x) (psrcCode y) 0 tt.toNat 0)
  | .mov g t b64 d a => some (rawReg 0x1B g t d a 0 0 (b2n b64) 0)
  | .movp g t toPred r =>
    some (if toPred then rawReg 0x1C g t 0 r 0 0 1 0 else rawReg 0x1C g t r 0 0 0 0 0)
  | .movi g m d imm => some (rawImm 0x1D g d 0 (encodeMovi m) imm)
  | .iaddImm g d a imm => some (rawImm 0x1E g d a 0 imm)
  | .imulImm g d a imm => some (rawImm 0x1E g d a 1 imm)
  | .andImm g d a imm => some (rawImm 0x1E g d a 2 imm)
  | .orImm g d a imm => some (rawImm 0x1E g d a 3 imm)
  | .xorImm g d a imm => some (rawImm 0x1E g d a 4 imm)
  | .andnImm g d a imm => some (rawImm 0x1E g d a 5 imm)
  | .shlImm g d a imm => some (rawImm 0x1E g d a 6 imm)
  | .shrImm g d a imm => some (rawImm 0x1E g d a 7 imm)
  | .sarImm g d a imm => some (rawImm 0x1E g d a 8 imm)
  | .rotlImm g d a imm => some (rawImm 0x1E g d a 9 imm)
  | .iminImm g u d a imm => some (rawImm 0x1E g d a (10 + b2n u) imm)
  | .imaxImm g u d a imm => some (rawImm 0x1E g d a (12 + b2n u) imm)
  | .iadd64Imm g d a imm => some (rawImm 0x1E g d a 14 imm)
  | .fadd g t m d a b => some (rawReg 0x20 g t d a b 0 (encodeRnd m) 0)
  | .fsub g t m d a b => some (rawReg 0x21 g t d a b 0 (encodeRnd m) 0)
  | .fmul g t m d a b => some (rawReg 0x22 g t d a b 0 (encodeRnd m) 0)
  | .ffma g t m d a b c => some (rawReg 0x23 g t d a b c (encodeRnd m) 0)
  | .fmin g t d a b => some (rawReg 0x24 g t d a b 0 0 0)
  | .fmax g t d a b => some (rawReg 0x25 g t d a b 0 0 0)
  | .fset g m d a b => some (rawReg 0x26 g false d a b 0 (encodeFCmp m) 0)
  | .fclass g t d a => some (rawReg 0x27 g t d a 0 0 0 0)
  | .fscale g t m d a b => some (rawReg 0x28 g t d a b 0 (encodeRnd m) 0)
  | .frnd g t m d a => some (rawReg 0x29 g t d a 0 0 (encodeRnd m) 0)
  | .hadd2 g t bf m d a b => some (rawReg 0x2A g t d a b 0 (8 * b2n bf + encodeRnd m) 0)
  | .hmul2 g t bf m d a b => some (rawReg 0x2B g t d a b 0 (8 * b2n bf + encodeRnd m) 0)
  | .hfma2 g t bf m d a b c => some (rawReg 0x2C g t d a b c (8 * b2n bf + encodeRnd m) 0)
  | .frcp g t ax d a => some (rawReg 0x2D g t d a 0 0 (8 * b2n ax) 0)
  | .frsq g t ax d a => some (rawReg 0x2E g t d a 0 0 (8 * b2n ax) 0)
  | .fsqrt g t ax m d a => some (rawReg 0x2F g t d a 0 0 (8 * b2n ax + encodeRnd m) 0)
  | .fdiv g t ax m d a b => some (rawReg 0x30 g t d a b 0 (8 * b2n ax + encodeRnd m) 0)
  | .fexp2 g t ax d a => some (rawReg 0x31 g t d a 0 0 (8 * b2n ax) 0)
  | .flog2 g t ax d a => some (rawReg 0x32 g t d a 0 0 (8 * b2n ax) 0)
  | .fsin g t ax d a => some (rawReg 0x33 g t d a 0 0 (8 * b2n ax) 0)
  | .fcos g t ax d a => some (rawReg 0x34 g t d a 0 0 (8 * b2n ax) 0)
  | .f2i g t f m d a => some (rawReg 0x35 g t d a 0 0 (8 * encodeIntDst f + encodeRnd m) 0)
  | .i2f g t u m d a => some (rawReg 0x36 g t d a 0 0 (8 * b2n u + encodeRnd m) 0)
  | .fcvt g t sat s f m d a c =>
    some (rawReg 0x37 g t d a 0 c (128 * b2n sat + 32 * encodeCvt f + 8 * encodeCvt s + encodeRnd m) 0)
  | .qcvt g t sat sr code d a b c => some (rawReg 0x38 g t d a b c (8 * b2n sat + 4 * b2n sr) (xFmt code))
  | .dqcvt g t code d a => some (rawReg 0x39 g t d a 0 0 0 (xFmt code))
  | .mxq g t sr d a b => some (rawReg 0x3A g t d a b 0 (4 * b2n sr) 0)
  | .rng g t d a b => some (rawReg 0x3B g t d a b 0 0 0)
  | .rngf g t d a b => some (rawReg 0x3C g t d a b 0 0 0)
  | .ld g sx m r base => some (rawMem 0x40 g 0 base r m (b2n sx))
  | .st g m r base => some (rawMem 0x41 g 0 base r m 0)
  | .lds g sx m r base => some (rawMem 0x42 g 0 base r m (b2n sx))
  | .sts g m r base => some (rawMem 0x43 g 0 base r m 0)
  | .ldp g s off r base => some (rawMem 0x44 g 0 base r ⟨s, .crew, .rlx, .normal, off⟩ 0)
  | .pref g h off base => some (rawMem 0x45 g 0 base 0 ⟨.b8, .crew, .rlx, h, off⟩ 0)
  | .atom g op m d r base => some (rawMem 0x46 g d base r m (encodeAtom op))
  | .atoms g op m d r base => some (rawMem 0x47 g d base r m (encodeAtom op))
  | .red g op m r base => some (rawMem 0x48 g 0 base r m (encodeAtom op))
  | .fence g o s => some (rawMem 0x49 g 0 0 0 ⟨.b8, s, o, .normal, 0⟩ 0)
  | .mwait g s off base => some (rawMem 0x4A g 0 base 0 ⟨s, .crew, .rlx, .normal, off⟩ 0)
  | .spill g h off r base => some (rawMem 0x4B g 0 base r ⟨.b32, .crew, .rlx, h, off⟩ 0)
  | .fill g h off r base => some (rawMem 0x4C g 0 base r ⟨.b32, .crew, .rlx, h, off⟩ 0)
  | .shfl g t m w d a b c => some (rawReg 0x60 g t d a b c (encodeShfl m) (xHigh3 w))
  | .vote g t m s d =>
    let x (cond : Nat) : BitVec 11 := (s.p ++ BitVec.ofBool s.neg ++ BitVec.ofNat 2 cond ++ 0#5).cast (by decide)
    some (match m with
      | .mask => rawReg 0x61 g t d 0 0 0 0 (x 0)
      | .count => rawReg 0x61 g t d 0 0 0 1 (x 0)
      | .test c => rawReg 0x61 g t d 0 0 0 2 (x (encodeCond c)))
  | .matchLanes g t b64 m d a => some (rawReg 0x62 g t d a 0 0 (4 * b2n b64 + encodeMatchMode m) 0)
  | .credux g t op d a => some (rawReg 0x63 g t d a 0 0 (encodeCred op) 0)
  | .elect g d => some (rawReg 0x64 g false d 0 0 0 0 0)
  | .bar g op l i => some (rawReg 0x65 g false 0 0 0 0 (16 * i.toNat + 4 * encodeLevel l + encodeBarOp op) 0)
  | .tkwait g n d => some (rawReg 0x66 g false d 0 0 0 n.toNat 0)
  | .tkpass g n => some (rawReg 0x67 g false 0 0 0 0 n.toNat 0)
  | .regroup g pack key d => some (rawReg 0x68 g false d key 0 0 (b2n pack) 0)
  | .reggrow g m n d => some (rawReg 0x69 g false d 0 0 0 (encodeGrow m) (xHigh3 n))
  | .regshrink g n => some (rawReg 0x6A g false 0 0 0 0 0 (xHigh3 n))
  | .waitc g ld st cp tl =>
    some (rawReg 0x6B g false 0 0 0 0 (16 * ld.toNat + st.toNat) ((cp ++ tl ++ 0#3).cast (by decide)))
  | .cpy g e tag a b c => some (rawReg 0x70 g false 0 a b c (encodeSize e) (xTile tag))
  | .cpym g e tag d a b c => some (rawReg 0x71 g false d a b c (encodeSize e) (xTile tag))
  | .cpyo g e tag a b c => some (rawReg 0x72 g false 0 a b c (encodeSize e) (xTile tag))
  | .cpyx g e tag a b c => some (rawReg 0x73 g false 0 a b c (encodeSize e) (xTile tag))
  | .tgwany g a => some (rawReg 0x74 g false 0 a 0 0 0 0)
  | .tgwall g a => some (rawReg 0x75 g false 0 a 0 0 0 0)
  | .tgff g t clr d a => some (rawReg 0x76 g t d a 0 0 (b2n clr) 0)
  | .tgclr g a => some (rawReg 0x77 g false 0 a 0 0 0 0)
  | .mfence g => some (rawReg 0x80 g false 0 0 0 0 0 0)
  | .missue g win a b c => some (rawReg 0x81 g false 0 a b c (b2n win) 0)
  | .mgang g win a b c => some (rawReg 0x82 g false 0 a b c (b2n win) 0)
  | .twait g d => some (rawReg 0x83 g false d 0 0 0 0 0)
  | .mzero g tile => some (rawReg 0x84 g false 0 0 0 0 0 (xTile tile))
  | .mload g tile a => some (rawReg 0x85 g false 0 a 0 0 0 (xTile tile))
  | .mread g t hi col tile d => some (rawReg 0x86 g t d 0 0 0 (64 * b2n hi + col.toNat) (xTile tile))
  | .mwrite g hi col tile a => some (rawReg 0x87 g false 0 a 0 0 (64 * b2n hi + col.toNat) (xTile tile))
  | .mswr g t clr tile d => some (rawReg 0x88 g t d 0 0 0 (b2n clr) (xTile tile))
  | .mdrain g x => some (rawDrain g x)
  | .bra g imm => some (rawImm 0xA0 g 0 0 0 imm)
  | .brx g a => some (rawReg 0xA1 g false 0 a 0 0 0 0)
  | .call g d imm => some (rawImm 0xA2 g d 0 0 imm)
  | .callx g d a e => some (rawReg 0xA3 g d.t d.reg a 0 0 0 e)
  | .ret g a => some (rawReg 0xA4 g false 0 a 0 0 0 0)
  | .exit g => some (rawReg 0xA5 g false 0 0 0 0 0 0)
  | .nop g => some (rawReg 0xA6 g false 0 0 0 0 0 0)
  | .yield g => some (rawReg 0xA7 g false 0 0 0 0 0 0)
  | .sread g t s d => some (rawReg 0xB0 g t d 0 0 0 (encodeSReg s) 0)
  | .swrite g s a => some (rawReg 0xB1 g false 0 a 0 0 (encodeSReg s) 0)
  | .claunch g a => some (rawReg 0xB2 g false 0 a 0 0 0 0)
  | .cjoin g => some (rawReg 0xB3 g false 0 0 0 0 0 0)
  | .trap g code => some (rawReg 0xB4 g false 0 0 0 0 0 code)
  | .bpt g => some (rawReg 0xB5 g false 0 0 0 0 0 0)
  | .icsync g s => some (rawReg 0xB6 g false 0 0 0 0 (encodeScope s) 0)
  | .rett g => some (rawReg 0xB7 g false 0 0 0 0 0 0)
  | _ => none

/-- The word of an encoded instruction. -/
def encode (i : Instr) : Option DWord := (encodeRaw i).map packWord

end Sys2Proof
end

