-- ==== Sys2Proof/Machine/Mem.lean ====
section
/-! DEFINITION. Tables, records of the state by number, physical memory (R5, R252, R263), page tables and translation
(R323 to R326), instruction words. -/

namespace Sys2Proof.Machine

/-! ### Tables -/

/-- The entry of key k, if listed. -/
def tabFind {α : Type} (k : Nat) : Tab α → Option α
  | [] => none
  | (k', v) :: t => if k' = k then some v else tabFind k t

/-- The entry of key k, or the default. -/
def tabGet {α : Type} (d : α) (k : Nat) (t : Tab α) : α := (tabFind k t).getD d

/-- Lists (k, v) in order, replacing an earlier entry of k. -/
def tabSet {α : Type} (k : Nat) (v : α) : Tab α → Tab α
  | [] => [(k, v)]
  | (k', v') :: t => if k < k' then (k, v) :: (k', v') :: t else if k = k' then (k, v) :: t else (k', v') :: tabSet k v t

/-- Unlists k. -/
def tabErase {α : Type} (k : Nat) : Tab α → Tab α
  | [] => []
  | (k', v') :: t => if k = k' then tabErase k t else (k', v') :: tabErase k t

/-- Writes v at k: in canonical form, an entry equal to the default is not listed. -/
def tabPut {α : Type} [DecidableEq α] (d : α) (k : Nat) (v : α) (t : Tab α) : Tab α :=
  if v = d then tabErase k t else tabSet k v t

/-- Keys strictly rising from above `lo`, no entry equal to the default. -/
def tabWfFrom {α : Type} [DecidableEq α] (d : α) (lo : Option Nat) : Tab α → Bool
  | [] => true
  | (k, v) :: t => (match lo with | some l => decide (l < k) | none => true) && decide (v ≠ d) && tabWfFrom d (some k) t

def tabWf {α : Type} [DecidableEq α] (d : α) (t : Tab α) : Bool := tabWfFrom d none t

/-- Replaces the n-th entry of a list. -/
def listSet {α : Type} (n : Nat) (v : α) : List α → List α
  | [] => []
  | x :: xs => match n with | 0 => v :: xs | m + 1 => x :: listSet m v xs

/-! ### Records of the state by number -/

namespace State

def die (s : State) (d : Nat) : Die := if d = 0 then s.die0 else s.die1
def modDie (s : State) (d : Nat) (f : Die → Die) : State :=
  if d = 0 then { s with die0 := f s.die0 } else { s with die1 := f s.die1 }
def team? (s : State) (id : Nat) : Option Team := s.teams.find? fun t => t.id == id
def modTeam (s : State) (id : Nat) (f : Team → Team) : State :=
  { s with teams := s.teams.map fun t => if t.id = id then f t else t }
def grid? (s : State) (id : Nat) : Option Grid := s.grids.find? fun g => g.id == id
def modGrid (s : State) (id : Nat) (f : Grid → Grid) : State :=
  { s with grids := s.grids.map fun g => if g.id = id then f g else g }
def cluster? (s : State) (id : Nat) : Option Cluster := s.clusters.find? fun c => c.id == id
def modCluster (s : State) (id : Nat) (f : Cluster → Cluster) : State :=
  { s with clusters := s.clusters.map fun c => if c.id = id then f c else c }
def eng? (s : State) (id : Nat) : Option EngOp := s.engs.find? fun e => e.id == id
def modEng (s : State) (id : Nat) (f : EngOp → EngOp) : State :=
  { s with engs := s.engs.map fun e => if e.id = id then f e else e }
def acc? (s : State) (id : Nat) : Option Access := s.accs.find? fun a => a.id == id
def modAcc (s : State) (id : Nat) (f : Access → Access) : State :=
  { s with accs := s.accs.map fun a => if a.id = id then f a else a }
def dropAcc (s : State) (id : Nat) : State := { s with accs := s.accs.filter fun a => a.id != id }
def ctx? (s : State) (asid : Nat) : Option Context := s.ctxs.find? fun c => c.asid == asid
def modCtx (s : State) (asid : Nat) (f : Context → Context) : State :=
  { s with ctxs := s.ctxs.map fun c => if c.asid = asid then f c else c }
def queue (s : State) (q : Nat) : Queue := tabGet Queue.reset q s.queues
def setQueue (s : State) (q : Nat) (v : Queue) : State := { s with queues := tabPut Queue.reset q v s.queues }
def modQueue (s : State) (q : Nat) (f : Queue → Queue) : State := s.setQueue q (f (s.queue q))
def coll? (s : State) (id : Nat) : Option Coll := s.colls.find? fun c => c.id == id
def modColl (s : State) (id : Nat) (f : Coll → Coll) : State :=
  { s with colls := s.colls.map fun c => if c.id = id then f c else c }
def cap (s : State) (n : Nat) : CapSlot := tabGet CapSlot.reset n s.dbg.caps
def page (s : State) (n : Nat) : DbgPage := tabGet DbgPage.reset n s.dbg.pages
def modPage (s : State) (n : Nat) (f : DbgPage → DbgPage) : State :=
  { s with dbg := { s.dbg with pages := tabPut DbgPage.reset n (f (s.page n)) s.dbg.pages } }
def emit (s : State) (m : OutMsg) : State := { s with out := s.out ++ [m] }
/-- One free value is used up. -/
def drawn (s : State) : State := { s with draws := s.draws + 1 }
/-- A new number for a team, grid, operation or replay token. (DESIGN CHOICE, log entry 68) -/
def fresh (s : State) : Nat × State := (s.nextId, { s with nextId := s.nextId + 1 })
/-- The index of a free value: no two uses share one. `use` numbers the place that draws, k what it draws for (below 2^40). -/
def freeKey (s : State) (use k : Nat) : Nat := (s.draws * 2 ^ 8 + use) * 2 ^ 40 + k
/-- An unspecified two-way choice (R3). (DESIGN CHOICE, log entry 2) -/
def freeBit (s : State) (use k : Nat) : Bool := Config.freeBool (s.freeKey use k)
/-- An undefined word (R3). (DESIGN CHOICE, log entry 2) -/
def freeVal (s : State) (use k : Nat) : Word := Config.freeWord (s.freeKey use k)
/-- An unspecified choice among n outcomes (R3). -/
def choice (s : State) (n : Nat) : Nat := if n ≤ 1 then 0 else Config.choose s.draws % n

end State

namespace Team

def thread? (t : Team) (tid : Nat) : Option Thread := t.threads.find? fun x => x.tid == tid
def modThread (t : Team) (tid : Nat) (f : Thread → Thread) : Team :=
  { t with threads := t.threads.map fun x => if x.tid = tid then f x else x }
def crew? (t : Team) (c : Nat) : Option Crew := t.crews.find? fun x => x.slot == c
def modCrew (t : Team) (c : Nat) (f : Crew → Crew) : Team :=
  { t with crews := t.crews.map fun x => if x.slot = c then f x else x }
/-- Threads per team, NT of R249. -/
def nt (t : Team) : Nat := 32 * t.crews.length
def die (t : Team) : Nat := t.core / 1024

end Team

namespace State

def thread? (s : State) (team tid : Nat) : Option Thread := (s.team? team).bind fun t => t.thread? tid
def modThread (s : State) (team tid : Nat) (f : Thread → Thread) : State := s.modTeam team fun t => t.modThread tid f

end State

/-! ### Physical memory -/

/-- Table 13.2. -/
inductive Region
  | hbm (die : Nat)
  | host
  | peer (id off : Nat)
  | nowhere
deriving DecidableEq, Repr

def regionOf (pa : Nat) : Region :=
  if pa < 2 ^ 38 then (if pa < Config.hbmPopulated then .hbm 0 else .nowhere)
  else if pa < 2 ^ 39 then (if pa - 2 ^ 38 < Config.hbmPopulated then .hbm 1 else .nowhere)
  else if pa < 2 ^ 51 then .nowhere
  else if pa < 2 ^ 51 + 2 ^ 50 then .host
  else if pa < 2 ^ 52 then .peer (pa / 2 ^ 40 % 1024) (pa % 2 ^ 40)
  else .nowhere

/-- What a byte of memory that nothing has written reads as (R396: undefined but fixed; log entry 1). -/
def unlistedByte : Byte := 0

/-- The canonical form of memory. -/
abbrev Memory.wf (m : List Host.Cell) : Bool := tabWf unlistedByte m

def memByte (m : List Host.Cell) (a : Nat) : Byte := tabGet unlistedByte a m

def memBytes (m : List Host.Cell) (a : Nat) : Nat → List Byte
  | 0 => []
  | n + 1 => memByte m a :: memBytes m (a + 1) n

def memPut (m : List Host.Cell) (a : Nat) : List Byte → List Host.Cell
  | [] => m
  | b :: bs => memPut (tabPut unlistedByte a b m) (a + 1) bs

/-- The 8-byte units that n bytes at a touch (R267). -/
def unitsOf (a n : Nat) : List Nat := (List.range ((a + n + 7) / 8 - a / 8)).map fun i => a / 8 + i

namespace State

def byteAt (s : State) (pa : Nat) : Byte := memByte s.mem pa
def bytesAt (s : State) (pa n : Nat) : List Byte := memBytes s.mem pa n
def natAt (s : State) (pa n : Nat) : Nat := ofBytes (s.bytesAt pa n)

/-- The region a physical address reaches; a die that is not live contributes no HBM (R11). -/
def region (s : State) (pa : Nat) : Region :=
  match regionOf pa with
  | .hbm d => if (s.die d).live then .hbm d else .nowhere
  | r => r

/-- Does a read of n bytes at pa meet an uncorrectable error (R263)? The unit met first. -/
def poisoned (s : State) (pa n : Nat) : Option Nat := (unitsOf pa n).find? fun u => s.poison.contains u

/-- Writes bytes and rewrites the check bits of each unit covered whole (R263). -/
def poke (s : State) (pa : Nat) (bs : List Byte) : State :=
  let keeps (u : Nat) : Bool := !(decide (pa ≤ 8 * u) && decide (8 * u + 8 ≤ pa + bs.length))
  { s with mem := memPut s.mem pa bs, poison := s.poison.filter keeps, sliceErrs := s.sliceErrs.filter keeps }

/-- Class of Table 24.4 of the structure that holds the error met in a stretch of memory: 1 an L2 slice, 0 HBM. -/
def errorClass (s : State) (pa n : Nat) : Nat := if (unitsOf pa n).any fun u => s.sliceErrs.contains u then 1 else 0

/-- Physical memory as the part itself reads it at an address of its registers; a die out of service holds none (R11). -/
def physBytes (s : State) (pa n : Nat) : List Byte :=
  match s.region pa with
  | .nowhere => (List.range n).map fun i => (s.freeVal 35 i).setWidth 8
  | _ => s.bytesAt pa n
def physNat (s : State) (pa n : Nat) : Nat := ofBytes (s.physBytes pa n)

/-- The write sequence of each line of n bytes at pa rises (R164), sleepers on the line are woken (R262), and the home slice
records the core of a thread's write (R275). -/
def touchLines (s : State) (pa n : Nat) (who : Option Writer) : State :=
  let lines := (List.range ((pa + n + 127) / 128 - pa / 128)).map fun i => pa / 128 + i
  { s with
    lines := lines.foldl (fun t l =>
      let r := tabGet LineRec.none l t
      tabPut LineRec.none l ⟨r.seq + 1, (who.map (·.core)).or r.core⟩ t) s.lines
    narrow := (unitsOf pa n).foldl (fun t u =>
      tabPut [] u ((who.bind (·.behind)).getD []) t) s.narrow
    watch := s.watch.map fun w => if lines.contains w.line then { w with fired := true } else w }

/-- A write performed at the home slice (R258, R268). -/
def homeWrite (s : State) (pa : Nat) (bs : List Byte) (who : Option Writer) : State :=
  if bs.isEmpty then s else (s.poke pa bs).touchLines pa bs.length who

end State

/-! ### Translation -/

/-- R104: bits [63:56] all equal bit 56. -/
def canonical (va : Nat) : Bool := decide (va < 2 ^ 56) || (decide (2 ^ 64 - 2 ^ 56 ≤ va) && decide (va < 2 ^ 64))

/-- What an access does, for permissions (R324). -/
inductive Use | read | write | fetch | entry
deriving DecidableEq, Repr

/-- Who makes it: a program's global access, a private or spill access, or the front end (R324). -/
inductive Via | program | private_ | frontEnd
deriving DecidableEq, Repr

/-- Lowest index bit, index bits and table size of a level (Table 19.2). -/
def levelLow : Nat → Nat | 0 => 39 | 1 => 30 | 2 => 21 | _ => 16
def levelBits : Nat → Nat | 0 => 18 | 1 => 9 | 2 => 9 | _ => 5
def levelSize : Nat → Nat | 0 => 2 ^ 21 | 1 => 2 ^ 12 | 2 => 2 ^ 12 | _ => 256

/-- A page-table entry's physical field (Table 19.3). -/
def pteBase (e : Nat) : Nat := bits 51 8 e * 256

/-- Walks `left` levels from level `lvl`, whose table is at `table` (R323, R324). -/
def walkFrom (s : State) (die asid va : Nat) : (left lvl table : Nat) → Except Byte TlbEntry
  | 0, _, _ => .error 0x06
  | left + 1, lvl, table =>
    let pa := table + 8 * (va / 2 ^ levelLow lvl % 2 ^ levelBits lvl)
    match s.region pa with
    | .nowhere => .error 0x06
    | _ =>
      if (s.poisoned pa 8).isSome then .error 0x09
      else
        let e := s.natAt pa 8
        if !bit 0 e then .error 0x06
        else if bits 63 52 e ≠ 0 || bits 7 5 e ≠ 0 then .error 0x06
        else if bit 1 e then
          if lvl = 0 then .error 0x06
          else
            let size := 2 ^ levelLow lvl
            if pteBase e % size ≠ 0 then .error 0x06
            else .ok { die := die, asid := asid, base := va / size * size, size := size, phys := pteBase e,
                       w := bit 2 e, x := bit 3 e, s := bit 4 e }
        else if lvl = 3 then .error 0x06
        else if pteBase e % levelSize (lvl + 1) ≠ 0 then .error 0x06
        else walkFrom s die asid va left (lvl + 1) (pteBase e)

namespace State

/-- A walk of a context's tables (R324). -/
def walk (s : State) (die asid va : Nat) : Except Byte TlbEntry :=
  match s.ctx? asid with
  | none => .error 0x06
  | some c => walkFrom s die asid (va % 2 ^ 57) 4 0 c.desc.level0

/-- A translation cached by the die's unit (R325). -/
def tlbFind (s : State) (die asid va : Nat) : Option TlbEntry :=
  s.tlb.find? fun e => e.die == die && e.asid == asid && decide (e.base ≤ va % 2 ^ 57) && decide (va % 2 ^ 57 < e.base + e.size)

/-- R324's permission cases. -/
def permitted (e : TlbEntry) (u : Use) (v : Via) : Bool :=
  (match u with | .write => e.w | .fetch | .entry => e.x | .read => true) &&
  (match v with | .program => !e.s | .private_ => e.s | .frontEnd => true)

/-- The physical address an access of a context reaches, or the cause of its fault (R104, R252, R324). (DEDUCED, log entry 32) -/
def translate (s : State) (die asid va : Nat) (u : Use) (v : Via) : Except Byte Nat :=
  if !canonical va then .error 0x06
  else
    match (match s.tlbFind die asid va with | some e => Except.ok e | none => s.walk die asid va) with
    | .error c => .error c
    | .ok e =>
      if !permitted e u v then .error 0x07
      else
        let pa := e.phys + (va % 2 ^ 57 - e.base)
        match s.region pa with
        | .nowhere => .error 0x07
        | _ => .ok pa

/-- Physical addresses of the table entries that a walk reads (R323). -/
def walkReads (s : State) (va : Nat) : (left lvl table : Nat) → List Nat
  | 0, _, _ => []
  | left + 1, lvl, table =>
    let pa := table + 8 * (va / 2 ^ levelLow lvl % 2 ^ levelBits lvl)
    let e := s.natAt pa 8
    pa :: (if bit 0 e && !bit 1 e && decide (lvl < 3) then walkReads s va left (lvl + 1) (pteBase e) else [])

/-- The table entries of a context's walk. -/
def tableReads (s : State) (asid va : Nat) : List Nat :=
  match s.ctx? asid with
  | none => []
  | some c => s.walkReads (va % 2 ^ 57) 4 0 c.desc.level0

/-- The same class for n bytes of a context's memory, which lie in one page: of the error in them, or of the one that its walk met in a
table entry. -/
def virtErrorClass (s : State) (die asid va n : Nat) : Nat :=
  match (match s.tlbFind die asid va with | some e => Except.ok e | none => s.walk die asid va) with
  | .ok e => s.errorClass (e.phys + (va % 2 ^ 57 - e.base)) n
  | .error _ =>
    match (s.tableReads asid va).find? fun pa => (s.poisoned pa 8).isSome with
    | some pa => s.errorClass pa 8
    | none => 0

/-- A peer may answer a request with a completer error, which its requester takes as a permission fault (R339); whether it does is the peer's
(DESIGN CHOICE, log entry 15). -/
def peerError (s : State) (use pa key : Nat) : Bool := match s.region pa with | .peer .. => s.freeBit use (key % 2 ^ 40) | _ => false

/-- Reads n bytes of a context's memory: the bytes, or the cause of the fault. The bytes lie in one page. -/
def readVirt (s : State) (die asid va n : Nat) (u : Use) (v : Via) : Except Byte (List Byte) :=
  match s.translate die asid va u v with
  | .error c => .error c
  | .ok pa => if s.peerError 42 pa pa then .error 0x07 else if (s.poisoned pa n).isSome then .error 0x09 else .ok (s.bytesAt pa n)

/-- The physical address at which an agent's write of a context's memory is performed, or the cause of its fault. -/
def writable (s : State) (die asid va : Nat) (v : Via) : Except Byte Nat :=
  match s.translate die asid va .write v with
  | .error c => .error c
  | .ok pa => if s.peerError 43 pa va then .error 0x07 else .ok pa

/-- Fills the die's translation unit from a successful walk: a level-3 table fills all 32 of its entries (R326). -/
def fillTlb (s : State) (die asid va : Nat) : State :=
  match s.walk die asid va with
  | .error _ => s
  | .ok e =>
    let vas := if e.size = 2 ^ 16 then (List.range 32).map fun i => va % 2 ^ 57 / 2 ^ 21 * 2 ^ 21 + i * 2 ^ 16 else [va % 2 ^ 57]
    vas.foldl (fun s' v =>
      match s'.walk die asid v with
      | .ok e' => if s'.tlb.any (fun x => x.die == die && x.asid == asid && x.base == e'.base && x.size == e'.size) then s'
                  else { s' with tlb := s'.tlb ++ [e'] }
      | .error _ => s') s

/-! ### Code -/

/-- Base of a context's code window (R61). -/
def window (s : State) (asid : Nat) : Nat := ((s.ctx? asid).map fun c => c.desc.window).getD 0

/-- Fetches one word of code for a core: from its instruction cache, or from memory (R251, R223). -/
def fetchWord (s : State) (core asid va : Nat) : Except Byte DWord :=
  let fromMem : Except Byte DWord :=
    if va < s.window asid ∨ s.window asid + 2 ^ 36 ≤ va then .error 0x07
    else
      match s.readVirt (core / 1024) asid va 8 .fetch .program with
      | .ok bs => .ok (BitVec.ofNat 64 (ofBytes bs))
      | .error c => .error c
  match s.icache.find? fun w => w.core == core && w.asid == asid && w.addr == va with
  | some w => if s.freeBit 1 (va / 8 % 2 ^ 40) then .ok w.word else fromMem
  | none => fromMem

/-- Does memory give the word (R223)? -/
def fromMemory (s : State) (core asid va : Nat) : Bool :=
  !(s.icache.any fun w => w.core == core && w.asid == asid && w.addr == va) || !s.freeBit 1 (va / 8 % 2 ^ 40)

/-- Keeps a fetched word in the core's instruction cache. -/
def cacheWord (s : State) (core asid va : Nat) (w : DWord) : State :=
  { s with icache := ⟨core, asid, va, w⟩ :: s.icache.filter fun x => !(x.core == core && x.asid == asid && x.addr == va) }

end State

end Sys2Proof.Machine
end

