-- ==== Sys2Proof/Machine/Cache.lean ====
section
/-! DEFINITION. Between the cores and HBM: a core's L1 (R255 to R257), its ordered write path (Table 13.4), home slices (R258),
arbitration identifiers (R260), the links of host and peer lines (R253), and the translation unit's walkers (R326). -/

namespace Sys2Proof.Machine

/-! ### Home slices and arbitration -/

/-- Who writes at a home slice or a bank (Table 13.6). -/
inductive Agent
  | core (id : Nat)
  | frontEnd (die : Nat)
  | host
  | port (p : Nat)
deriving DecidableEq, Repr

/-- Table 13.6: within an arbitration window writes are ordered by this number (R260, R268). -/
def arbId : Agent → Nat
  | .core c => c
  | .frontEnd d => 2048 + d
  | .host => 2050
  | .port p => 2064 + p

/-- Scopes by width (Table 14.1). -/
def scopeRank : Scope → Nat
  | .crew => 0 | .team => 1 | .cluster => 2 | .device => 3 | .system => 4
def widerScope (a b : Scope) : Scope := if scopeRank a < scopeRank b then b else a
/-- Scope crew or team. -/
def narrowScope (a : Scope) : Bool := a == .crew || a == .team

/-! ### What an access is -/

namespace Access

def isLoad (a : Access) : Bool := match a.kind with | .load _ | .atom _ | .fill => true | _ => false
def isStore (a : Access) : Bool := match a.kind with | .store | .red _ | .spill => true | _ => false
def isMarker (a : Access) : Bool := match a.kind with | .fence | .arrive _ | .pass _ | .launch _ => true | _ => false
def isAtom (a : Access) : Bool := match a.kind with | .atom _ => true | _ => false
def isFence (a : Access) : Bool := match a.kind with | .fence => true | _ => false
/-- A scope of order of this access: at its bank every scope from team upward includes every agent of the cluster (R266). -/
def reach (a : Access) (sc : Scope) : Scope := match a.space with | .window _ => if sc = .team then .cluster else sc | _ => sc
/-- The wider of two scopes, either of which may be missing. -/
def widest : Option Scope → Option Scope → Option Scope
  | some x, some y => some (widerScope x y)
  | none, f => f
  | o, none => o
/-- The scope of its acquire, if it is one, by its own order or by an acquire fence behind it (R270). -/
def acqAt (a : Access) : Option Scope :=
  let own : Option Scope := if (a.order == .acq || a.order == .ar) && (a.isLoad || a.isFence) then some a.scope else none
  (widest own (if a.isLoad then a.fenceAcq else none)).map a.reach
def acq (a : Access) : Bool := a.acqAt.isSome
/-- An acquire at cluster scope or wider. -/
def wideAcq (a : Access) : Bool := match a.acqAt with | some sc => !narrowScope sc | none => false
/-- The scope of its release, if it is one (R270), barrier arrivals and ticket passes among them (R174, R176). -/
def relScope (a : Access) : Option Scope := a.relAt.map a.reach
def rel (a : Access) : Bool := a.relAt.isSome
/-- A release at cluster scope or wider. -/
def wideRel (a : Access) : Bool := match a.relScope with | some sc => !narrowScope sc | none => false
/-- Scope crew or team. -/
def narrow (a : Access) : Bool := narrowScope a.scope
/-- The scope at which an access of a thread that has executed a release fence at scope `fence` is a release (R270). -/
def releaseOf (a : Access) (fence : Option Scope) : Option Scope :=
  let own : Option Scope := if (a.order == .rel || a.order == .ar) && (a.isStore || a.isAtom || a.isMarker) then some a.scope else none
  if a.isStore || a.isAtom || (a.isMarker && !a.isFence) then widest own fence else own
/-- Is it an access of this thread? -/
def ofThread (a : Access) (team tid : Nat) : Bool := a.team == team && (a.tid == tid || a.lanes.any fun l => l.tid == tid)
/-- Do two accesses belong to one thread? -/
def sameThread (x a : Access) : Bool :=
  x.ofThread a.team a.tid || a.lanes.any fun l => x.ofThread a.team l.tid
def die (a : Access) : Nat := a.core / 1024
def via (a : Access) : Via := match a.space with | .priv | .spillSp => .private_ | _ => .program
def use (a : Access) : Use := if a.isStore || a.isAtom then .write else .read
/-- Access code of Table 19.4. -/
def code (a : Access) : Nat := match a.kind with | .atom _ | .red _ => 2 | .store | .spill => 1 | _ => 0
/-- Operation of an atomic. -/
def op? (a : Access) : Option AtomOp := match a.kind with | .atom o | .red o => some o | _ => none

end Access

/-- Inserts an entry by ascending key, behind those of its key. -/
def insertKey {α : Type} (key : α → Nat) (x : α) : List α → List α
  | [] => [x]
  | y :: ys => if key x ≤ key y then x :: y :: ys else y :: insertKey key x ys

/-- A list by ascending key; entries of one key keep their order. -/
def sortKey {α : Type} (key : α → Nat) : List α → List α
  | [] => []
  | x :: xs => insertKey key x (sortKey key xs)

namespace State

/-- The die whose port carries the traffic of a peer (R258). -/
def peerDie (s : State) (id : Nat) : Nat :=
  match s.ual.ports.find? fun (i, p) => p.peer == some id && p.up && (s.die (i / 6)).live with
  | some (p, _) => p / 6
  | none => 0

/-- The home slice of a line: a fixed hash chooses it, on the die of its HBM region, on die 0 for a host line, on the die of the port for
a peer line (R258; the hash is a DESIGN CHOICE, log entry 28). -/
def sliceOf (s : State) (line : Nat) : Nat :=
  match regionOf (128 * line) with
  | .hbm d => 256 * d + Config.pick 0 line % 256
  | .peer id _ => 256 * s.peerDie id + Config.pick 0 line % 256
  | _ => Config.pick 0 line % 256

/-! ### Links -/

/-- An access of host or peer memory travels to the link as one request per 32-byte sector (R253). -/
def askLink (s : State) (pa n : Nat) (op : LinkOp) : State :=
  let sectors := (List.range ((pa + n + 31) / 32 - pa / 32)).map fun i => pa / 32 + i
  match s.region pa with
  | .host => sectors.foldl (fun s x => s.emit (.hostRequest x op)) s
  | .peer id _ => sectors.foldl (fun s x => s.emit (.peerRequest id x op)) s
  | _ => s

/-- A write of the part itself, or of a queue, at its home; a die out of service has none (R11). -/
def agentWrite (s : State) (pa : Nat) (bs : List Byte) : State :=
  match s.region pa with
  | .nowhere => s
  | _ => (s.askLink pa bs.length .write).homeWrite pa bs none

/-- The 32-byte sectors that stretches of memory touch, each once. -/
def sectorsOf (ps : List (Nat × Nat)) : List Nat :=
  ((ps.map fun (pa, n) => (List.range ((pa + n + 31) / 32 - pa / 32)).map fun i => pa / 32 + i).flatten).eraseDups

/-- The requests of one access that is made of several stretches: one for each sector (R253). -/
def askPieces (s : State) (op : LinkOp) (ps : List (Nat × Nat)) : State := (sectorsOf ps).foldl (fun s x => s.askLink (32 * x) 32 op) s

/-- Does a physical address lie behind a link? -/
def remote (s : State) (pa : Nat) : Bool := match s.region pa with | .host | .peer .. => true | _ => false

/-- The stack of a die's HBM that holds a physical address: 4,096-byte blocks in turn (R254). -/
def stackOf (pa : Nat) : Nat := pa % 2 ^ 38 / 4096 % 4

/-- Is the row of an address being copied to a spare, which holds accesses to it (R401), those of the host and of peers too? Those that the part
itself makes, for fetches, frames and walks, are not held, which is timing alone (DESIGN CHOICE, log entry 65). -/
def rowHeld (s : State) (pa : Nat) : Bool :=
  s.svc.rowCopies.any fun e => regionOf pa == .hbm e.die && stackOf pa == e.unit && Config.rowOf pa == e.detail

/-- The same for an address of a context. -/
def rowBusy (s : State) (die asid va : Nat) : Bool :=
  !s.svc.rowCopies.isEmpty &&
    (match (match s.tlbFind die asid va with | some e => Except.ok e | none => s.walk die asid va) with
     | .ok e => s.rowHeld (e.phys + (va % 2 ^ 57 - e.base))
     | .error _ => false)

/-! ### The core's ordered write path -/

/-- The stores in a core's ordered write path, in path order. -/
def pathStores (s : State) (core : Nat) : List Access :=
  sortKey (fun a => ((a.taken.map (·.stamp)).getD 0)) (s.accs.filter fun a => a.core == core && a.taken.isSome)

def pathOf (s : State) (core : Nat) : List Nat := (s.pathStores core).map (·.id)

/-- Bytes at `base` with those that a store writes over stretches of memory. -/
def overlay (base : Nat) : List (Nat × Nat) → List Byte → List Byte → List Byte
  | [], _, bs => bs
  | (pa, n) :: ps, data, bs =>
    overlay base ps (data.drop n)
      ((List.range bs.length).map fun i => if pa ≤ base + i ∧ base + i < pa + n then data.getD (base + i - pa) 0 else bs.getD i 0)

/-- Memory as a load of a core that is served behind its write path sees it. A SPILL there, whose lanes may write part of a slot alone, is not
laid on top: a FILL of its words waits for it (R154). -/
def behindPath (s : State) (core pa n : Nat) : List Byte :=
  ((s.pathStores core).filter fun a => a.kind != .spill).foldl (fun bs a => overlay pa ((a.taken.map (·.ps)).getD []) a.data bs) (s.bytesAt pa n)

/-! ### The core's L1 -/

def sectorOf (va : Nat) : Nat := va % 2 ^ 64 / 32

/-- The sector of a core's L1 that holds an address of a context, or of a grid's parameter area; a program's access finds no sector of a
private page, nor a private access one of a program's (R324). -/
def l1Find (s : State) (core asid : Nat) (space : L1Space) (va : Nat) : Option L1Sector :=
  s.l1.find? fun x => x.core == core && x.asid == asid && x.space == space && x.sector == sectorOf va

/-- The lines, of four sectors, that a core's L1 holds in one of its 128 sets, and whether a `.strm` access has allocated a sector of each. -/
def l1Lines (s : State) (core set : Nat) : List ((Nat × L1Space × Nat) × Bool) :=
  let xs := s.l1.filter fun x => x.core == core && x.sector / 4 % 128 == set
  (xs.map fun x => (x.asid, x.space, x.sector / 4)).eraseDups.map fun l =>
    (l, xs.any fun x => x.strm && x.asid == l.1 && x.space == l.2.1 && x.sector / 4 == l.2.2)

/-- Evicts the line that holds an address. -/
def l1Evict (s : State) (core asid : Nat) (space : L1Space) (va : Nat) : State :=
  { s with l1 := s.l1.filter fun x => !(x.core == core && x.asid == asid && x.space == space && x.sector / 4 == sectorOf va / 4) }

/-- Makes room in the set of a line: with eight other lines there, one of them is evicted, a `.strm` line first (Table 13.3); which is
otherwise unspecified. -/
def l1Room (s : State) (core asid : Nat) (space : L1Space) (va : Nat) : State :=
  let ls := s.l1Lines core (sectorOf va / 4 % 128)
  if ls.length < 8 || ls.any (fun l => l.1 == (asid, space, sectorOf va / 4)) then s
  else
    let vs := if ls.any (·.2) then ls.filter (·.2) else ls
    match vs[(s.freeVal 32 (sectorOf va % 2 ^ 40)).toNat % vs.length]? with
    | some ((a, p, l), _) => { s with l1 := s.l1.filter fun x => !(x.core == core && x.asid == a && x.space == p && x.sector / 4 == l) }
    | none => s

/-- Puts a sector in a core's L1. -/
def l1Put (s : State) (core asid : Nat) (space : L1Space) (va phys : Nat) (bs : List Byte) (strm : Bool) : State :=
  let s : State := s.l1Room core asid space va
  { s with l1 := ⟨core, asid, space, sectorOf va, phys, bs, [], strm⟩ ::
      s.l1.filter fun x => !(x.core == core && x.asid == asid && x.space == space && x.sector == sectorOf va) }

/-- Allocates or refreshes the sector of an access served at home; host and peer lines and a sector in error are not kept (R253). -/
def l1Fill (s : State) (core asid : Nat) (space : L1Space) (va pa : Nat) (strm : Bool) : State :=
  let base := pa / 32 * 32
  match s.region base with
  | .hbm _ =>
    if (s.poisoned base 32).isSome then s.l1Evict core asid space va else s.l1Put core asid space va base (s.behindPath core base 32) strm
  | _ => s

/-- The sectors of pages. -/
def l1Paged : L1Space → Bool
  | .param _ => false
  | _ => true

/-- A store updates the L1 copies of its sectors (R155); a unit covered whole gets fresh check bits (R263). -/
def l1Store (s : State) (core asid va : Nat) (bs : List Byte) : State :=
  { s with l1 := s.l1.map fun x =>
      if x.core = core ∧ x.asid = asid ∧ l1Paged x.space ∧ va % 2 ^ 64 < 32 * x.sector + 32 ∧ 32 * x.sector < va % 2 ^ 64 + bs.length then
        { x with
          bytes := overlay (32 * x.sector) [(va % 2 ^ 64, bs.length)] bs x.bytes
          bad := x.bad.filter fun u => !(decide (va % 2 ^ 64 ≤ 32 * x.sector + 8 * u) && decide (32 * x.sector + 8 * u + 8 ≤ va % 2 ^ 64 + bs.length)) }
      else x }

/-- A store's bytes over stretches of virtual memory, in the core's L1. -/
def l1Stores (s : State) (core asid : Nat) : List (Nat × Nat) → List Byte → State
  | [], _ => s
  | (va, n) :: ps, bs => l1Stores (s.l1Store core asid va (bs.take n)) core asid ps (bs.drop n)

/-- An acquire at cluster scope or wider on one core (R155, R163). -/
def l1Drop (s : State) (core asid : Nat) : State := { s with l1 := s.l1.filter fun x => !(x.core == core && x.asid == asid) }

/-- A copy of a core invalidates every line it writes in its own L1 (R192). -/
def l1DropPhys (s : State) (core pa n : Nat) : State :=
  { s with l1 := s.l1.filter fun x =>
      !(x.core == core && l1Paged x.space && decide (pa / 128 ≤ x.phys / 128) && decide (x.phys / 128 ≤ (pa + n - 1) / 128)) }

/-- An ASID-wide L1 invalidation: on the cores where the context is resident its lines go and the MWAIT sleepers, whosever they are, are woken
(R164, R257, R262). What other cores still hold of it goes too (DESIGN CHOICE, log entry 75). -/
def l1Invalidate (s : State) (asid : Nat) : State :=
  { s with
    l1 := s.l1.filter fun x => x.asid != asid
    watch := s.watch.map fun w =>
      if s.teams.any fun t => t.core == w.core && t.asid == asid && t.res == .resident then { w with fired := true } else w }

/-! ### Walkers -/

/-- The requests of a walk whose tables lie behind a link (R253). -/
def askWalk (s : State) (asid va : Nat) : State := (s.tableReads asid va).foldl (fun s pa => s.askLink pa 8 .read) s

/-- Is this walk one of a region of 2 MiB? -/
def walkIn (die asid va : Nat) (w : WalkReq) : Bool := w.die == die && w.asid == asid && w.addr / 2 ^ 21 == va % 2 ^ 57 / 2 ^ 21

/-- May an agent other than a thread's access use a translation now: it is cached, its walk has ended, or none is made (R326)? -/
def canWalk (s : State) (die asid va : Nat) : Bool :=
  !canonical va || (s.tlbFind die asid va).isSome || s.walked.any (walkIn die asid va)

/-- A miss joins the walks of its die, behind those that are waiting; one walk answers all misses of a region (R326). -/
def joinWalk (s : State) (die asid va : Nat) : State :=
  if s.canWalk die asid va then s
  else if s.walks.any (walkIn die asid va) then { s with walks := s.walks.map fun w => if walkIn die asid va w then { w with agent := true } else w }
  else { s with walks := s.walks ++ [⟨die, asid, va % 2 ^ 57, true⟩] }
def joinWalks (s : State) (die asid : Nat) (vas : List Nat) : State := vas.foldl (fun s va => s.joinWalk die asid va) s

/-- The answered walks of these addresses have been used. -/
def useWalks (s : State) (die asid : Nat) (vas : List Nat) : State :=
  { s with walked := s.walked.filter fun w => !(vas.any fun va => walkIn die asid va w) }

/-- The translations that an agent's successful accesses leave in the die's unit (R325). -/
def cacheWalks (s : State) (die asid : Nat) (u : Use) (v : Via) (vas : List Nat) : State :=
  vas.foldl (fun s va =>
    if (s.tlbFind die asid va).isSome then s
    else
      match s.translate die asid va u v with
      | .ok _ => (s.askWalk asid va).fillTlb die asid va
      | .error _ => s) s

/-- An agent's accesses to these addresses, once they may be translated and no copy of a row holds them; until then they wait for their walks
(R326, R401). -/
def withWalks (s : State) (die asid : Nat) (vas : List Nat) (f : State → State) : State :=
  if !vas.all (s.canWalk die asid) then s.joinWalks die asid vas
  else if vas.any (s.rowBusy die asid) then s
  else (f s).useWalks die asid vas

/-- What a successful read of a queue or a front end leaves behind: its translation, and its requests to a link. -/
def agentRead (s : State) (die asid va n : Nat) (u : Use) (v : Via) : State :=
  match s.translate die asid va u v with
  | .ok pa => ((s.askLink pa n .read).cacheWalks die asid u v [va]).useWalks die asid [va]
  | .error _ => s

/-- The requests of a successful read that leaves no translation behind (log entry 32). -/
def askVirt (s : State) (die asid va n : Nat) (u : Use) (v : Via) : State :=
  match s.translate die asid va u v with
  | .ok pa => s.askLink pa n .read
  | .error _ => s

/-- The stretches of a span of addresses, one in each 64 KiB page. -/
def stretches (va n : Nat) : List (Nat × Nat) :=
  (List.range (n / 2 ^ 16 + 2)).filterMap fun i =>
    let a := if i = 0 then va else (va / 2 ^ 16 + i) * 2 ^ 16
    let e := min (va + n) ((va / 2 ^ 16 + i + 1) * 2 ^ 16)
    if a < e then some (a % 2 ^ 64, e - a) else none

/-- The same for a span of any length. -/
def spanRead (s : State) (die asid va n : Nat) (u : Use) (v : Via) : State :=
  (stretches va n).foldl (fun s p => s.agentRead die asid p.1 p.2 u v) s

end State

end Sys2Proof.Machine
end

