-- ==== Sys2Proof/Machine/Engine.lean ====
section
/-! DEFINITION. What the operations of the copy and matrix engines name: scratchpad descriptors (R187), boxes (Table 9.4), the fields of
vpitch (Table 9.10), and the global bytes an operation writes. -/

namespace Sys2Proof.Machine

/-! ### Descriptors (R187, Table 9.3) -/

def descRow (w1 : Nat) : Nat := 16 * bits 11 0 w1
def descTile (w1 : Nat) : Nat := 16 * bits 23 12 w1
def descRot (w1 : Nat) : Nat := bits 26 24 w1

/-- Offset in the share of byte j of element (i, k), before it is cut to 19 bits. -/
def descOffset (w0 w1 i k e j : Nat) : Nat :=
  let rp := descRow w1
  let o := k % 64 * e + j
  let o := if descRot w1 = 0 then o else 4 * ((o / 4 + i * descRot w1) % (rp / 4)) + o % 4
  w0 % 2 ^ 19 + k / 64 * descTile w1 + i * rp + o

/-- `desc_addr` of R187: the window address. -/
def descAddr (w0 w1 i k e j : Nat) : Nat := w0 / 2 ^ 19 * 2 ^ 19 + descOffset w0 w1 i k e j % 2 ^ 19

/-! ### Boxes -/

def boxRows (w0 : Word) : Nat := bits 28 16 w0.toNat
def boxCols (w0 : Word) : Nat := bits 12 0 w0.toNat

/-- The elements (r, c) of a box, row by row. -/
def boxElems (rows cols : Nat) : List (Nat × Nat) :=
  ((List.range rows).map fun r => (List.range cols).map fun c => (r, c)).flatten

/-- Global address of element (r, c) (Table 9.5). -/
def copyGlobal (base stride e r c : Nat) : Nat := (base + r * stride + c * e) % 2 ^ 64

/-! ### Drains -/

/-- Format code of a drain's format field; the `q` form takes its code from a register. -/
def drainCode (f : DrainFmt) (q : Nat) : Nat :=
  match f with | .f32 => 0 | .bf16 => 1 | .f16 => 2 | .e4m3 => 8 | .e5m2 => 9 | .q => q

/-- Bytes of one element of a format (Table 2.1). -/
def codeBytes (code : Nat) : Nat := if code = 0 ∨ code = 3 then 4 else if code = 1 ∨ code = 2 then 2 else 1

def drainM (v : Word) : Nat := 8 * (bits 16 14 v.toNat + 1)
def drainN (v : Word) : Nat := 8 * (bits 19 17 v.toNat + 1)
def drainPitch (v : Word) : Nat := 16 * bits 13 0 v.toNat

/-- Destination address of element (r, c) of a drain (R206). -/
def drainAddr (x : DrainArgs) (r c : Nat) : Nat := x.dest + r * drainPitch x.vpitch + c * codeBytes x.code

/-- The global bytes that an operation writes. -/
def globalDest (e : EngOp) : List Nat :=
  match e.kind with
  | .copy .cpyo sz _ _ _ dst0 dst1 box0 box1 _ =>
    ((boxElems (boxRows box0) (boxCols box0)).map fun (r, c) =>
      (List.range sz).map fun j => copyGlobal (pairOf dst0 dst1).toNat box1.toNat sz r c + j).flatten
  | .drain x =>
    if x.form.glob then
      ((boxElems (drainM x.vpitch) (drainN x.vpitch)).map fun (r, c) =>
        (List.range (codeBytes x.code)).map fun j => (drainAddr x r c + j) % 2 ^ 64).flatten
    else []
  | _ => []

/-- Engine kind of Table 21.9. -/
def engKind (e : EngOp) : Nat := match e.kind with | .copy .. => 0 | _ => 1

namespace State

/-- Leaves bytes of a context's memory undefined: those that can be written get free values. -/
def spoilBytes (s : State) (die asid : Nat) (v : Via) (vas : List Nat) : State :=
  let k := s.draws
  ((List.range vas.length).zip vas).foldl (fun s (i, va) =>
    match s.translate die asid va .write v with
    | .ok pa => s.homeWrite pa [(Config.freeWord ((k * 2 ^ 8 + 12) * 2 ^ 40 + i)).setWidth 8] none
    | .error _ => s) s.drawn

/-- Global bytes that an operation of a core leaves undefined (R191, R207, R330). -/
def spoilGlobal (s : State) (core asid : Nat) (vas : List Nat) : State := s.spoilBytes (core / 1024) asid .program vas

/-! ### Tickets (R208, R241) -/

/-- A team's ticket number (R241). -/
def ticketNo (s : State) (t : Team) : Word :=
  BitVec.ofNat 32 t.linear + ((s.grid? t.grid).map fun g => g.launch.ticketBase).getD 0
def ticket (s : State) (grid n : Nat) : Ticket := (((s.grid? grid).bind fun g => g.tickets[n]?)).getD ⟨0, false⟩

/-- Is the operation a `.tk` drain still queued for its ticket: grid ticket counter 0 has not reached its team's number (R208)? -/
def ticketWait (s : State) (e : EngOp) : Bool :=
  e.queued && (match s.team? e.team with | some t => (s.ticket t.grid 0).value != s.ticketNo t | none => false)

/-- Is the operation behind such a drain on its tile, or the drain itself (R43, R208)? -/
def heldBack (s : State) (e : EngOp) : Bool :=
  engKind e == 1 && s.engs.any fun x => x.team == e.team && x.tile == e.tile && engKind x == 1 && decide (x.id ≤ e.id) && s.ticketWait x

/-- Is the operation a `.tk` drain whose ticket has come, or one in front of such a drain on its tile? The drain is in hand from that moment
and completes whatever freezes, and so does what it waits behind (R43, R208). -/
def inTurn (s : State) (e : EngOp) : Bool :=
  engKind e == 1 && s.engs.any fun x => x.team == e.team && x.tile == e.tile && decide (e.id ≤ x.id) &&
    (match x.kind with | .drain z => z.form.tk && !s.ticketWait x | _ => false)

/-- Is the operation the first of its engine that nothing holds back: the command in hand (R364)? -/
def firstInEngine (s : State) (e : EngOp) : Bool :=
  !s.heldBack e && !(s.engs.any fun x => x.core == e.core && engKind x == engKind e && decide (x.id < e.id) && !s.heldBack x)

end State

end Sys2Proof.Machine
end

