-- ==== Sys2Proof/Machine/Ops.lean ====
section
/-! DEFINITION. The named operations that the meanings share: interrupts, the fault buffer (R327), private memory (R249), clause
entry (R73 to R76), the fault frame (R63, R64), taking an exception (R65, R215) and returning from one (R218), the halt wave
(R361 to R367) and termination (R330). -/

namespace Sys2Proof.Machine

/-- A fault that no memory access raised; its detail is 0, of an operand-range fault too that no operand code raised (a tag, tile, mask or
field out of range), for which Table 4.5 names none. (DEDUCED, log entry 18) -/
def plainFault (cause : Byte) : FaultInfo := ⟨cause, 0, false, 7, false, 0, none⟩
/-- A fault of a fetch or transfer with its target as faulting address (R75). -/
def targetFault (cause : Byte) (addr : Nat) : FaultInfo :=
  ⟨cause, addr, true, 7, false, 0, if cause = 0x06 ∨ cause = 0x07 ∨ cause = 0x09 then some 3 else none⟩
/-- A memory fault found at issue (R152). -/
def accessFault (cause : Byte) (addr sizeCode access : Nat) : FaultInfo := ⟨cause, addr, true, sizeCode, false, 0, some access⟩

namespace State

def refTime (s : State) : Nat := s.now % 2 ^ 64
/-- Cycle count of a core's clock; all cores of a die run at one point (R310). -/
def cycles (s : State) (core : Nat) : Nat := (s.die (core / 1024)).cyc

/-- What the part does in service: in recovery FWCMD, FWSTAT and FWSRC alone act (R397), and after a critical shutdown the part stays down
(R403). -/
def inService (s : State) (f : State → State) : State := if s.svc.recovery || s.svc.shutdown then s else f s

/-! ### Interrupts (R390, R391) -/

/-- A byte of the MSI-X table; vector control resets masked (PRESUMED, log entry 8). -/
def msixByte (s : State) (i : Nat) : Byte := (tabFind i s.msix).getD (if i % 16 = 12 then 1 else 0)

/-- Raises a vector: a message, or its pending bit while the table masks it. -/
def raise (s : State) (v : Nat) : State :=
  if (s.msixByte (16 * v + 12)).getLsbD 0 then
    (if s.msixPending.contains v then s else { s with msixPending := s.msixPending ++ [v] })
  else s.emit (.msix v)

def raiseIf (s : State) (c : Bool) (v : Nat) : State := if c then s.raise v else s

/-! ### The fault buffer (R327, Table 19.4) -/

def fbFull (f : FaultBuf) : Bool := (f.wp + 1) % Config.fbSlots == f.rp
def fbReady (s : State) (d : Nat) : Bool := (s.die d).fb.ctl.getLsbD 0 && !fbFull (s.die d).fb

/-- The bytes of an entry, up to the time of its recording. -/
def fbEntry (addr asid : Nat) (cause : Byte) (source : Nat) (parked : Bool) (access : Option Nat) (core slot crew unit queue token : Nat) :
    List Byte :=
  toBytes 8 addr ++ toBytes 2 asid ++ [cause] ++
  [BitVec.ofNat 8 (source * 32 + b2n parked * 16 + (access.getD 0) * 4 + b2n access.isNone * 2)] ++
  toBytes 2 core ++ [BitVec.ofNat 8 (slot * 32 + crew)] ++ [BitVec.ofNat 8 unit] ++ [BitVec.ofNat 8 queue] ++ toBytes 3 0 ++
  toBytes 4 token

/-- Writes an entry at FBWP, with the time (R327). -/
def fbWrite (s : State) (d : Nat) (entry : List Byte) : State :=
  let f := (s.die d).fb
  let s : State := s.agentWrite (f.base + 32 * f.wp) (entry ++ toBytes 8 s.refTime)
  let s : State := s.modDie d fun x => { x with fb := { x.fb with wp := (f.wp + 1) % Config.fbSlots } }
  s.raiseIf (f.ctl.getLsbD 1) (bits 22 12 f.ctl.toNat)

/-- Records a fault, or lets it wait while the ring is full or disabled; the outcome of `act` waits with it. -/
def record (s : State) (d : Nat) (entry : List Byte) (act : WaitAct) : State × Bool :=
  if s.fbReady d && !(s.waits.any fun w => w.die == d) then (s.fbWrite d entry, true)
  else ({ s with waits := s.waits ++ [⟨d, entry, act⟩] }, false)

/-- Does the entry of a fault of this agent wait? Until it is written the agent is held where it stands. -/
def faultWaits (s : State) (p : WaitAct → Bool) : Bool := s.waits.any fun w => p w.act

/-! ### Private and spill memory (R249, R250, R324) -/

/-- Virtual address of the private byte a of a thread. -/
def privVirt (t : Team) (tid a : Nat) : Nat := t.privBase + ((a / 4) * t.nt + tid) * 4 + a % 4

/-- Private size of a team's launch (R62). -/
def privSize (s : State) (t : Team) : Nat := ((s.grid? t.grid).map fun g => g.launch.privSize).getD 0
def spillSize (s : State) (t : Team) : Nat := ((s.grid? t.grid).map fun g => g.launch.spillSize).getD 0

/-- Reads n bytes of a thread's private space word by word. -/
def privRead (s : State) (t : Team) (tid a : Nat) : Nat → Except Byte (List Byte)
  | 0 => .ok []
  | n + 1 =>
    match s.readVirt t.die t.asid (privVirt t tid a) 1 .read .private_, privRead s t tid (a + 1) n with
    | .ok b, .ok bs => .ok (b ++ bs)
    | .error c, _ => .error c
    | _, .error c => .error c

/-- Writes 4-byte words of a thread's private space at word-aligned addresses. -/
def privWriteWords (s : State) (t : Team) (tid a : Nat) : List (List Byte) → Except Byte State
  | [] => .ok s
  | w :: ws =>
    match s.writable t.die t.asid (privVirt t tid a) .private_ with
    | .error c => .error c
    | .ok pa =>
      if (s.poisoned pa 4).isSome then .error 0x09
      else
        let s : State := s.cacheWalks t.die t.asid .write .private_ [privVirt t tid a]
        privWriteWords (((s.askLink pa 4 .write).homeWrite pa w none).l1Store t.core t.asid (privVirt t tid a) w) t tid (a + 4) ws

/-- Bytes in groups of four. -/
def fours : Nat → List Byte → List (List Byte)
  | 0, _ => []
  | n + 1, bs => bs.take 4 :: fours n (bs.drop 4)

/-- Writes a byte of a thread's private space. -/
def privWriteByte (s : State) (t : Team) (tid a : Nat) (b : Byte) : Except Byte State :=
  match s.writable t.die t.asid (privVirt t tid a) .private_ with
  | .error c => .error c
  | .ok pa => .ok (((s.askLink pa 1 .write).homeWrite pa [b] none).l1Store t.core t.asid (privVirt t tid a) [b])

/-- What a successful read of n bytes of a thread's private space leaves behind: the translations of its words (R325), and their requests to
a link (R253). -/
def askPriv (s : State) (t : Team) (tid a n : Nat) : State :=
  let vas := (List.range ((a + n + 3) / 4 - a / 4)).map fun i => privVirt t tid (4 * (a / 4 + i))
  (s.cacheWalks t.die t.asid .read .private_ vas).askPieces .read (vas.filterMap fun va =>
    match s.translate t.die t.asid va .read .private_ with
    | .ok pa => some (pa, 4)
    | .error _ => none)

/-- The first byte of n in a thread's private space that cannot be read. -/
def privFail (s : State) (t : Team) (tid a n : Nat) : Nat :=
  ((List.range n).map fun i => a + i).find? (fun b =>
    match s.readVirt t.die t.asid (privVirt t tid b) 1 .read .private_ with | .ok _ => false | .error _ => true) |>.getD a

/-- The detail of a fault of a fetch, or of another read that the part itself makes: for a data error the structure (Table 4.5). -/
def codeFault (s : State) (die asid : Nat) (c : Byte) (va : Nat) : FaultInfo :=
  { targetFault c va with detail := if c = 0x09 then s.virtErrorClass die asid va 8 else 0 }

/-- The stretches of virtual memory of an access, in data order; none crosses a page. -/
def pieces (s : State) (a : Access) : List (Nat × Nat) :=
  match a.space with
  | .priv =>
    if a.size ≤ 4 then [(a.addr, a.size)]
    else (List.range (a.size / 4)).map fun i => (a.addr + i * 4 * ((s.team? a.team).map (·.nt)).getD 32, 4)
  | .spillSp => (List.range 33).map fun i => (a.addr + 4 * i, 4)
  | _ => [(a.addr, a.size)]

/-- Writes bytes over stretches of physical memory. -/
def pokePieces (s : State) (who : Option Writer) : List (Nat × Nat) → List Byte → State
  | [], _ => s
  | (pa, n) :: ps, bs => pokePieces (s.homeWrite pa (bs.take n) who) who ps (bs.drop n)

/-- Performs the thread's private stores that stand before an access the part itself makes of its frame (R154). -/
def drainPrivate (s : State) (t : Team) (tid : Nat) : State :=
  s.accs.foldl (fun s a =>
    if a.team = t.id ∧ a.tid = tid ∧ a.space = .priv ∧ a.kind = .store ∧ a.parked = none ∧ a.bad = none then
      match (s.pieces a).mapM fun (va, n) => (s.translate t.die t.asid va .write .private_).map fun pa => (pa, n) with
      | .ok ps =>
        let s : State := (((s.askPieces .write ps).pokePieces (some ⟨t.core, none⟩) ps a.data).l1Stores t.core t.asid (s.pieces a) a.data).dropAcc a.id
        if a.taken.isSome then s else s.modThread t.id tid fun x => { x with st := x.st - 1 }
      | .error _ => s
    else s) s

/-! ### Capabilities, freezing (R358, R361, R364) -/

def capJob (c : CapSlot) : Word := (c.word8 >>> 32).setWidth 32
def capAsid (c : CapSlot) : Nat := bits 31 16 c.word8.toNat
def capValid (c : CapSlot) : Bool := c.word8.getLsbD 6 && c.handle != 0
def capRight (c : CapSlot) (r : Nat) : Bool := c.word8.getLsbD r

/-- Jobs of the valid slots with the halt right that name a context. -/
def jobsOf (s : State) (asid : Nat) : List Word :=
  (s.dbg.caps.filterMap fun (_, c) => if capValid c && capRight c 0 && capAsid c == asid then some (capJob c) else none).eraseDups

/-- Is a debugger attached to the context (R361)? -/
def attached (s : State) (asid : Nat) : Bool := !(s.jobsOf asid).isEmpty

/-- Contexts of a job on this device. -/
def jobAsids (s : State) (job : Word) : List Nat :=
  (s.dbg.caps.filterMap fun (_, c) => if capValid c && capRight c 0 && capJob c == job then some (capAsid c) else none).eraseDups

def frozenJob (s : State) (job : Word) : Bool := s.dbg.frozen.any fun f => f.job == job
/-- Cores of the context do not issue (R364). -/
def frozen (s : State) (asid : Nat) : Bool := s.dbg.frozen.any fun f => f.asids.contains asid || (s.jobsOf asid).contains f.job
/-- Engines, queue processors and dispatchers of the context stand (R364, R372). -/
def enginesFrozen (s : State) (asid : Nat) : Bool :=
  s.dbg.frozen.any fun f => f.engines && (f.asids.contains asid || (s.jobsOf asid).contains f.job)

/-- Accelerator ids of the peers in a slot's list (Table 21.1). -/
def slotPeers (s : State) (c : CapSlot) : List Nat := (List.range c.peerCount).map fun i => s.physNat (c.peerList + 2 * i) 2 % 1024

/-- The slot whose list names a job's peers: its first valid one with the halt right. -/
def jobSlot (s : State) (job : Word) : Option CapSlot :=
  (s.dbg.caps.find? fun (_, c) => capValid c && capRight c 0 && capJob c == job).map (·.2)

/-- Accelerator ids of a job's peers. -/
def jobPeers (s : State) (job : Word) : List Nat := match s.jobSlot job with | some c => s.slotPeers c | none => []

/-- Reads a slot's list and sends each peer in it a message. -/
def sendPeers (s : State) (slot : Option CapSlot) (m : Nat → OutMsg) : State :=
  match slot with
  | some c => (s.slotPeers c).foldl (fun s p => s.emit (m p)) (if c.peerCount = 0 then s else s.askLink c.peerList (2 * c.peerCount) .read)
  | none => s

/-! ### Trace (R374, Table 21.9) -/

/-- In window mode, does the slot at TRWP hold a record of the window of a trigger that has arrived: one from arrival − pre on (R376)? -/
def inWindow (s : State) (p : DbgPage) : Bool :=
  match p.trEnd with
  | some e =>
    let start := e - 1000 * bits 63 32 p.trWin.toNat - 1000 * bits 31 0 p.trWin.toNat
    let t := s.physNat (p.trBase + 32 * (p.trWp % 2 ^ bits 15 8 p.trCtl.toNat)) 8
    decide (2 ^ bits 15 8 p.trCtl.toNat ≤ p.trWp) && decide (start ≤ t) && decide (t ≤ s.refTime)
  | none => false

/-- Writes a trace record into the ring of one command page. In window mode it overwrites the oldest record until a trigger, then stops at
arrival + post, or before a record of the window would be lost (DESIGN CHOICE, log entry 81). -/
def traceOn (s : State) (n : Nat) (rec : List Byte) : State :=
  let p := s.page n
  let size := 2 ^ bits 15 8 p.trCtl.toNat
  if !(p.trCtl.getLsbD 0) || p.trStopped then s
  else if p.trCtl.getLsbD 1 then
    if (match p.trEnd with | some e => decide (e < s.now) | none => false) || s.inWindow p then s.modPage n fun p => { p with trStopped := true }
    else (s.agentWrite (p.trBase + 32 * (p.trWp % size)) rec).modPage n fun p => { p with trWp := (p.trWp + 1) % 2 ^ 24 }
  else if p.trWp + 1 = size then
    -- the last record of a full ring in normal mode is of kind 0x7F
    (s.agentWrite (p.trBase + 32 * p.trWp) (rec.take 8 ++ [0x7F] ++ rec.drop 9)).modPage n
      fun p => { p with trWp := (p.trWp + 1) % 2 ^ 24, trStopped := true }
  else if p.trWp + 1 < size then
    (s.agentWrite (p.trBase + 32 * p.trWp) rec).modPage n fun p => { p with trWp := p.trWp + 1 }
  else s

/-- A record for the trace rings of a context (R374). -/
def trace (s : State) (asid kind queue engine : Nat) (seq detail extra : Nat) : State :=
  let rec_ := toBytes 8 s.refTime ++ toBytes 1 kind ++ toBytes 1 queue ++ toBytes 2 engine ++ toBytes 8 seq ++ toBytes 4 detail ++
    toBytes 8 extra
  (s.dbg.caps.filterMap fun (n, c) => if capValid c && capRight c 4 && capAsid c == asid then some n else none).foldl
    (fun s n => s.traceOn n rec_) s

/-- A trigger or halt closes the window of every trace ring in window mode (R374, R376). -/
def traceTrigger (s : State) (job : Word) (kind origin : Nat) : State :=
  (s.dbg.caps.filterMap fun (n, c) => if capValid c && capRight c 4 && capJob c == job then some (n, capAsid c) else none).foldl
    (fun s (n, _) =>
      let rec_ := toBytes 8 s.refTime ++ toBytes 1 kind ++ toBytes 1 0 ++ toBytes 2 (3 * 2048) ++ toBytes 8 0 ++ toBytes 4 0 ++ toBytes 8 origin
      (s.traceOn n rec_).modPage n fun p =>
        if p.trCtl.getLsbD 0 && p.trCtl.getLsbD 1 && p.trEnd.isNone then { p with trEnd := some (s.now + 1000 * bits 63 32 p.trWin.toNat) } else p) s

/-! ### The halt wave (R361 to R367) -/

/-- Bytes 0–23 of the cause entry of an origin at t0 = `since`. -/
def causeBytes (s : State) (seq : Word) (o : Origin) (since : Nat) : List Byte :=
  let die := match o.core with | some c => c / 1024 | none => o.die
  toBytes 4 seq.toNat ++ toBytes 2 (s.ual.uaid + 1024 * die) ++
  toBytes 2 (match o.core with | some c => c | none => 2048) ++
  toBytes 4 (match o.tid with | some t => t | none => 0xFFFFFFFF) ++ [o.cause] ++
  [BitVec.ofNat 8 (0x80 + b2n o.step * 0x40 + (o.threads - 1) % 64)] ++ toBytes 2 (o.crew * 8 + o.slot) ++ toBytes 8 (since % 2 ^ 64)

/-- Adds an entry to the cause block, or counts it in CAUSEOVF (R367). -/
def addCause (s : State) (entry : List Byte) : State :=
  if s.dbg.causes.length < 16 then
    { s with dbg := { s.dbg with causes := s.dbg.causes ++ [entry ++ toBytes 8 s.refTime] } }
  else { s with dbg := { s.dbg with causeOvf := min (s.dbg.causeOvf + 1) (2 ^ 32 - 1) } }

/-- An operation begins in its engine: the start record of the trace (R374). (DEDUCED, log entry 34) -/
def beginOp (s : State) (id : Nat) : State :=
  match s.eng? id with
  | none => s
  | some e =>
    if e.inHand then s
    else
      let g := (s.team? e.team).bind fun t => s.grid? t.grid
      (s.modEng id fun e => { e with inHand := true }).trace e.asid (3 + 2 * engKind e) ((g.map (·.queue)).getD 0)
        (engKind e * 2048 + e.core) (((g.map (·.qrpAtStart)).getD 0) * 2 ^ 32 + e.cmdIndex) (if engKind e = 0 then e.tag else e.tile) 0

/-- Commands in hand at a freeze: the first operation of each engine that no `.tk` drain holds back (R208, R364). -/
def markInHand (s : State) (asids : List Nat) : State :=
  ((s.engs.filter fun e => asids.contains e.asid && s.firstInEngine e).map (·.id)).foldl (fun s i => s.beginOp i) s

/-- Stops the job's cores and engines on this device (R364); MWAIT sleepers end their sleep. Their watch entries stay in the slice's table
until a write fires them, as do those of sleepers that pre-emption or termination takes away: R262 says only that an entry with a sleeper
is not dropped (DESIGN CHOICE, log entry 75). -/
def freezeJob (s : State) (job : Word) : State :=
  let asids := s.jobAsids job
  let s : State := { s with dbg := { s.dbg with frozen := s.dbg.frozen ++ [⟨job, asids, true, none⟩] } }
  let s : State := s.markInHand asids
  { s with
    teams := s.teams.map fun t =>
      if asids.contains t.asid then
        { t with threads := t.threads.map fun x => match x.run with | .asleep (.monitor _) => { x with run := .active } | _ => x }
      else t
    watch := s.watch.map fun w => { w with sleepers := w.sleepers.filter fun (tm, _) =>
      !(s.teams.any fun t => t.id == tm && asids.contains t.asid) } }

/-- A wave origin of one job (R361, R363): a new wave, or a cause entry and a cause report in a job already frozen. One that arose in a
step starts no wave (R371). The sequence number goes from 0xFFFFFFFF to 1, since 0 is that of no wave (DEDUCED, log entry 102). -/
def waveOf (s : State) (job : Word) (o : Origin) (since : Nat) : State :=
  if s.frozenJob job then
    let e := s.causeBytes s.dbg.waveSeq o since
    (s.addCause e).sendPeers (s.jobSlot job) fun p => .sloeCause p (toBytes 4 job.toNat ++ e)
  else if o.step then s
  else
    let seq := if s.dbg.waveSeq = 0xFFFFFFFF#32 then 1#32 else s.dbg.waveSeq + 1
    let s : State := { s with dbg := { s.dbg with waveSeq := seq } }
    let e := s.causeBytes seq o since
    let s : State := s.addCause e
    let s : State := s.freezeJob job
    let s : State := s.sendPeers (s.jobSlot job) fun p =>
      .sloeHalt p (toBytes 4 job.toNat ++ toBytes 2 s.ual.uaid ++ toBytes 4 seq.toNat ++ (e.drop 4).take 12 ++ toBytes 8 (since % 2 ^ 64))
    s.traceTrigger job 10 (since % 2 ^ 64)

def startWave (s : State) (asid : Nat) (o : Origin) (since : Nat) : State := (s.jobsOf asid).foldl (fun s j => s.waveOf j o since) s

/-- Is a thread run by a step in hand (R370)? -/
def inStep (s : State) (team tid : Nat) : Bool := s.dbg.steps.any fun w => w.team == team && w.tids.contains tid

/-- A fault that ends a step gives it status 5 and its cause (R371). -/
def endStep (s : State) (p : StepWait → Bool) (cause : Byte) : State :=
  { s with dbg := { s.dbg with steps := s.dbg.steps.map fun w => if p w then { w with status := 5, cause := cause.toNat } else w } }

/-- Adds a thread to the origins met: threads of one crew that stand at one place with one cause make one
entry, with the lowest `s.tid` (R367; that a group outside the issue slot is one of a crew: DEDUCED, log entry 74). -/
def addReached (r : Reached) : List Reached → List Reached
  | [] => [r]
  | y :: ys =>
    let o := r.origin
    if y.asid = r.asid ∧ y.clause = r.clause ∧ y.idx = r.idx ∧ y.since = r.since ∧ { y.origin with threads := o.threads, tid := o.tid } = o then
      let low := decide (o.tid.getD 0 < y.origin.tid.getD 0)
      { y with origin := { y.origin with threads := y.origin.threads + 1, tid := if low then o.tid else y.origin.tid } } :: ys
    else y :: addReached r ys

def reach (s : State) (r : Reached) : State := { s with dbg := { s.dbg with reached := addReached r s.dbg.reached } }

/-! ### Reports into a context's memory (R405) -/

/-- A report write; a fault drops it and records it with access write. -/
def reportWrite (s : State) (die asid va source queue : Nat) (bs : List Byte) : State :=
  match s.writable die asid va .frontEnd with
  | .ok pa => (s.cacheWalks die asid .write .frontEnd [va]).agentWrite pa bs
  | .error c =>
    (s.record die (fbEntry va asid c source false (some 1) 0xFFFF 0 0 0 queue 0) .report).1

/-- The context's status word (R321), written by the front end of die 0, or of die 1 while die 0 is out of service (R11, R405; DESIGN CHOICE,
log entry 41). -/
def writeStatus (s : State) (asid : Nat) : State :=
  match s.ctx? asid with
  | none => s
  | some c =>
    let q := ((s.queues.find? fun p => bits 47 32 p.2.ctl.toNat == asid).map (·.1)).getD 0
    s.reportWrite (if s.die0.live then 0 else 1) asid c.desc.statusAddr 3 q (toBytes 8 (b2n c.failed + 2 * b2n c.terminated + 4 * b2n c.suspended))

/-- An uncorrectable error consumed by an engine or queue marks the context failed (R321). -/
def markFailed (s : State) (asid : Nat) : State :=
  match s.ctx? asid with
  | some c => if c.failed then s else (s.modCtx asid fun c => { c with failed := true }).writeStatus asid
  | none => s

/-- The die whose front end walks a queue (R296). -/
def medlar (s : State) (q : Nat) : Nat := if (s.die (q % 2)).live then q % 2 else 1 - q % 2

/-- A queue that has turned OFF: enable reads 0, and its cause is gone (R298). -/
def offQueue (x : Queue) : Queue :=
  { x with state := .off, cause := 0, cursor := 0, held := none, parkedWord := none, retrying := false, test := none, ctl := x.ctl &&& 0xFFFFFFFFFFFFF7FF }

/-- A queue in DRAIN whose last started packet has completed turns OFF (R298). -/
def drained (x : Queue) : Queue := if x.state = .drain ∧ x.started = [] then offQueue x else x

/-- A started packet is complete: its vector is raised (R303). (DEDUCED, log entry 40) -/
def completePacket (s : State) (q id : Nat) : State :=
  let p := (s.queue q).started.find? fun p => p.id == id
  let s : State := s.modQueue q fun x => drained { x with started := x.started.filter fun p => p.id != id }
  match p.bind (·.irq) with
  | some v => s.raise v
  | none => s

/-- A grid retires with a completion word (R221, R303): the word is written, and the packet of a root grid completes. -/
def retireGridWith (s : State) (gid word : Nat) : State :=
  match s.grid? gid with
  | none => s
  | some g =>
    match g.state with
    | .retired _ => s
    | _ =>
      let s : State := s.modGrid gid fun g => { g with state := .retired word }
      let s : State := if g.launch.completion = 0 then s
               else s.reportWrite (s.medlar g.queue) g.asid g.launch.completion 3 g.queue (toBytes 8 word)
      let s : State := s.trace g.asid 2 g.queue (3 * 2048) (g.qrpAtStart * 2 ^ 32) word 0
      if g.parent.isNone then s.completePacket g.queue g.packet else s

/-! ### Termination of a context (R330) -/

/-- Is a pending store of a terminated context or a killed team still performed (R319, R330)? One that its core's write path has accepted
is; another one is or is not. (DEDUCED, log entry 38) -/
def storeLeft (s : State) (a : Access) : Bool :=
  a.taken.isSome ||
    (a.parked.isNone && a.bad.isNone && a.space == .global && (match a.kind with | .store | .red _ => true | _ => false) && s.freeBit 10 a.id &&
      (match s.translate (a.core / 1024) a.asid a.addr .write .program with | .ok _ => true | .error _ => false))

/-- Operations in hand of a terminated context leave their destinations undefined (R330). -/
def abortEngs (s : State) (asid : Nat) : State :=
  (s.engs.filter fun e => e.asid == asid && !s.ticketWait e && (e.inHand || s.firstInEngine e || s.freeBit 13 e.id)).foldl
    (fun s e => if (globalDest e).isEmpty then s else s.spoilGlobal e.core asid (globalDest e)) s

/-- The part of a termination that waits for clause boundaries: teams stop and free their resources, the terminated bit is set
and every DEAD queue's vector is raised. -/
def finishTermination (s : State) (asid : Nat) : State :=
  let gone := (s.teams.filter fun t => t.asid == asid).map (·.id)
  let s : State := (s.abortEngs asid).l1Invalidate asid
  let kept := (s.accs.filter s.storeLeft).map (·.id)
  let s : State := s.drawn
  let s : State := { s with
    teams := s.teams.filter fun t => t.asid != asid
    clusters := s.clusters.filter fun c => !(s.grids.any fun g => g.id == c.grid && g.asid == asid)
    engs := s.engs.filter fun e => !gone.contains e.team
    accs := s.accs.filter fun a => !gone.contains a.team || kept.contains a.id
    watch := s.watch.map fun w => { w with sleepers := w.sleepers.filter fun (tm, _) => !gone.contains tm }
    walks := s.walks.filter fun w => w.asid != asid
    walked := s.walked.filter fun w => w.asid != asid
    l1 := s.l1.filter fun x => x.asid != asid }
  let s : State := s.modCtx asid fun c => { c with terminated := true, terminating := false, suspending := false }
  let s : State := s.writeStatus asid
  let s : State := { s with tlb := s.tlb.filter fun e => e.asid != asid }
  (s.queues.filter fun p => bits 47 32 p.2.ctl.toNat == asid && p.2.state == .dead).foldl
    (fun (s : State) (p : Nat × Queue) => s.raiseIf (p.2.ctl.getLsbD 23) (bits 22 12 p.2.ctl.toNat)) s

/-- Termination, whatever its cause (R330): queues go DEAD with cause 7, grids complete with status 1, collectives end with
reason 7; a team in the issue slot stops at its clause boundary. A COPY packet in hand is dropped and raises no vector (DESIGN CHOICE, log entry
38). -/
def terminateContext (s : State) (asid : Nat) : State :=
  match s.ctx? asid with
  | none => s
  | some c =>
    if c.terminated || c.terminating then s
    else
      let s : State := s.modCtx asid fun c => { c with terminating := true }
      let qs := (s.queues.filter fun p => bits 47 32 p.2.ctl.toNat == asid && p.2.state != .off).map (·.1)
      let s : State := qs.foldl (fun s q => s.modQueue q fun x => { x with state := .dead, cause := 7, held := none, parkedWord := none, retrying := false, test := none }) s
      let s : State := { s with colls := s.colls.map fun c => if c.asid = asid then { c with ending := some (3, 7, none) } else c }
      let s : State := (s.grids.filter fun g => g.asid == asid).foldl (fun s g => s.retireGridWith g.id 1) s
      -- a COPY packet in hand leaves its destination undefined, a parked one too
      let s : State := qs.foldl (fun s q => (s.queue q).started.foldl (fun s p =>
        match p.kind with
        | .copy _ dst len => s.spoilBytes (s.medlar q) asid .frontEnd ((List.range len).map fun i => (dst + i) % 2 ^ 64)
        | _ => s) s) s
      let s : State := qs.foldl (fun s q => s.modQueue q fun x =>
        { x with started := x.started.filter fun p => match p.kind with | .coll _ => true | _ => false }) s
      match s.issue with
      | some sl => if ((s.team? sl.team).map (·.asid)) = some asid then s else s.finishTermination asid
      | none => s.finishTermination asid

/-! ### Clause entry (R72 to R76) -/

/-- Number of instructions, class, thresholds and the yield bit of a header (Table 5.1). -/
def hdrN (h : DWord) : Nat := bits 55 52 h.toNat + 1
def hdrClass (h : DWord) : Nat := bits 51 48 h.toNat
def hdrWait (h : DWord) (i : Nat) : Nat := bits (47 - 4 * i) (44 - 4 * i) h.toNat
def hdrYield (h : DWord) : Bool := h.getLsbD 31
/-- Bytes a clause of n instructions occupies (R72). -/
def footprint (n : Nat) : Nat := (8 * (n + 1) + 15) / 16 * 16
/-- The canonical NOP of a pad word (R72). -/
def nopWord : DWord := 0xA670000000000000#64

/-- Origins take effect: a wave with a debugger attached, otherwise the end of the context (R65). The wave reaches the cores within 600 ns of
t0 (R362), the first step of the machine that would pass that bound included; a termination has no bound. Until then other threads
issue on (R227). Which origin takes effect in a step is unspecified; one that arose in a step of the debugger does so at once (R371). -/
def takeOrigin (s : State) (r : Reached) : State :=
  if s.attached r.asid then s.startWave r.asid r.origin r.since else s.terminateContext r.asid
def overdue (s : State) (r : Reached) : Bool :=
  s.attached r.asid && decide (r.since + 600 < s.now + Config.elapsed s.draws)
def startReached (s : State) : State :=
  let due (r : Reached) : Bool := r.origin.step || s.freeBit 36 r.since
  let rs := s.dbg.reached
  if rs.isEmpty then s
  else
    let s : State := (rs.filter due).foldl takeOrigin { s with dbg := { s.dbg with reached := rs.filter fun r => !due r } }
    if s.dbg.reached.any s.overdue then s.dbg.reached.foldl takeOrigin { s with dbg := { s.dbg with reached := [] } } else s

/-- Steps 2 to 5 of R75 for the word at a target: the header, or the cause. An uncorrectable error in that word is charged like a word that
cannot be fetched: R75 names 0x06 and 0x07 only, and R73 speaks of the words fetched on entry (DEDUCED, log entry 84). -/
def landing (s : State) (core asid va : Nat) : Except Byte DWord :=
  match s.fetchWord core asid va with
  | .error c => .error c
  | .ok w =>
    if bits 63 56 w.toNat = 0xFB then .error 0x05
    else if bits 63 56 w.toNat ≠ 0xFA then .error 0x04
    else .ok w

/-- Fetches the words of a footprint after its header: the first that fails, by address and cause. -/
def fetchRest (s : State) (core asid va : Nat) : Nat → Nat → Except (Byte × Nat) (List (Nat × DWord))
  | 0, _ => .ok []
  | n + 1, i =>
    match s.fetchWord core asid (va + 8 * i), fetchRest s core asid va n (i + 1) with
    | .ok w, .ok ws => .ok ((va + 8 * i, w) :: ws)
    | .error c, _ => .error (c, va + 8 * i)
    | _, .error e => .error e

/-- R73's checks of a clause on entry: the words of its footprint after the header, or the fault. -/
def entryFetch (s : State) (core asid va : Nat) (hdr : DWord) : Except FaultInfo (List DWord) :=
  match s.fetchRest core asid va (footprint (hdrN hdr) / 8 - 1) 1 with
  | .error (c, a) => .error (s.codeFault (core / 1024) asid c a)
  | .ok ws =>
    let padBad := hdrN hdr % 2 = 0 ∧ (ws.getLast?.map (·.2)) ≠ some nopWord
    if 3 ≤ hdrClass hdr ∨ bits 30 0 hdr.toNat ≠ 0 ∨ padBad then .error (plainFault 0x17) else .ok (ws.map (·.2))

/-- What the fetch of n words leaves behind: for those that memory gave, their translations in the die's unit (R325) and their requests to a
link (R253). -/
def fetched (s : State) (core asid va n : Nat) : State :=
  let vas := ((List.range n).map fun i => va + 8 * i).filter fun a =>
    s.fromMemory core asid a && (match s.fetchWord core asid a with | .ok _ => true | .error _ => false)
  (s.cacheWalks (core / 1024) asid .fetch .program vas).askPieces .read (vas.filterMap fun a =>
    match s.translate (core / 1024) asid a .fetch .program with
    | .ok pa => some (pa, 8)
    | .error _ => none)

/-- The same of a footprint in which R73 finds a fault: all of it, or the words in front of the one that cannot be fetched. -/
def fetchedTo (s : State) (core asid va : Nat) (hdr : DWord) (f : FaultInfo) : State :=
  s.fetched core asid va (if f.cause = 0x17 then footprint (hdrN hdr) / 8 else (f.addr - va) / 8)

/-- Keeps the words of a footprint in the core's instruction cache (R251). -/
def cacheClause (s : State) (core asid va : Nat) (words : List DWord) : State :=
  ((List.range words.length).zip words).foldl (fun s (i, w) => s.cacheWord core asid (va + 8 * i) w) (s.fetched core asid va words.length)

/-! ### The thread in a clause -/

/-- Gives a v register of a thread a value outside an instruction of its own: a fragment register will hold it after the covering TWAIT
(R184), another holds it now. -/
def settleReg (x : Thread) (code : Nat) (v : Word) : Thread :=
  if x.frags.any fun f => f.code == code then { x with frags := x.frags.map fun f => if f.code = code then { f with val := v } else f }
  else { x with regs := tabPut 0#32 code v x.regs }

/-- What it holds apart from a pending load or tile operation. -/
def settledReg (x : Thread) (code : Nat) : Word :=
  match x.frags.find? fun f => f.code == code with
  | some f => f.val
  | none => tabGet 0#32 code x.regs

/-- Transient results that can no longer be read become undefined, also as the old value of a register whose load no wait has covered (R54,
R55). -/
def expireIf (s : State) (p : Nat × Nat → Bool) (x : Thread) : Thread :=
  (x.trans.filter p).foldl (fun x (c, _) =>
    let v := s.freeVal 9 (256 * x.tid + c)
    { (settleReg x c v) with flips := x.flips.map fun f => if f.code = c then { f with old := v } else f })
    { x with trans := x.trans.filter fun e => !p e }

/-- Those whose seven readers have passed. -/
def expire (s : State) (idx : Nat) (x : Thread) : Thread := s.expireIf (fun p => decide (p.2 ≤ idx)) x

/-- All of them, at the end of a clause. -/
def expireAll (s : State) (x : Thread) : Thread := s.expireIf (fun _ => true) x

/-- Fragment registers of a pending operation may read differently every time; those of a complete one hold one pattern until they are
written, `now` being those that have just been (R3, R184). -/
def scramble (s : State) (now : List Reg) (x : Thread) : Thread :=
  let fs := x.frags.filter fun f => !f.settled || now.any fun r => r.toNat == f.code
  { x with regs := fs.foldl (fun r f => tabPut 0#32 f.code (s.freeVal 18 (256 * x.tid + f.code)) r) x.regs }

/-- A register whose load no wait has covered reads its old value or the loaded one, at each occurrence (R3, R55). -/
def showFlips (s : State) (x : Thread) : Thread :=
  { x with regs := (x.flips.filter fun f => !(x.frags.any fun g => g.code == f.code)).foldl (fun r f =>
      tabPut 0#32 f.code (if s.freeBit 37 (256 * x.tid + f.code) then f.new else f.old) r) x.regs }

/-- A wait has covered the thread's returned loads (R55): their registers hold the loaded values, or either value where they were written.
A wait covers them when it lets `ld` stand at 0 only; one that leaves loads outstanding is not taken to name which (DEDUCED, log entry 12). -/
def coverFlips (s : State) (x : Thread) : Thread :=
  x.flips.foldl (fun x f =>
    if f.written && s.freeBit 37 (256 * x.tid + f.code) then settleReg x f.code f.old
    else { (settleReg x f.code f.new) with trans := x.trans.filter fun p => p.1 != f.code }) { x with flips := [] }

/-- A thread leaves the group in the issue slot (R77). -/
def leaveGroup (s : State) (team tid : Nat) : State :=
  { s with issue := s.issue.map fun sl => if sl.team = team then { sl with group := sl.group.filter fun t => t != tid } else sl }

/-- Puts a thread at index `idx` of a clause whose words it has fetched. -/
def placeAt (s : State) (team tid clause idx : Nat) (hdr : DWord) (words : List DWord) : State :=
  s.modThread team tid fun x =>
    let x := s.showFlips (s.expireAll x)
    { x with clause := clause, idx := idx, hdr := hdr, words := words, run := .active, window := [], stamp := none, skipBpt := false, arrive := none }

/-- Does an ICSYNC in hand keep the thread from its next clause (R223)? -/
def holdsEntry (s : State) (team tid : Nat) : Bool := ((s.thread? team tid).map fun x => !x.icsync.isEmpty).getD false

/-- The thread leaves its clause and waits for the invalidation in front of the next one (R223): it is fetched, and checked, after that, and a
failure is charged as without the wait, to `clause` and `idx` where the way there leaves them (DEDUCED, log entry 71). -/
def holdArrival (s : State) (team tid clause idx : Nat) (a : Arrival) : State :=
  (s.modThread team tid fun x => { x with clause := clause, idx := idx, run := .active, stamp := none, arrive := some a }).leaveGroup team tid

/-! ### The fault frame (R63, R64) -/

/-- A slot of the window snapshot (Table 4.6). -/
def slotBytes (w : List WinSlot) (rho k : Nat) : List Byte :=
  if rho + k < 8 then toBytes 16 0
  else
    match w.find? fun x => x.idx == rho + k - 8 with
    | some x =>
      if x.guard then
        toBytes 4 x.lo.toNat ++ toBytes 4 x.hi.toNat ++ [x.code] ++ [BitVec.ofNat 8 (4 + 2 * b2n x.wide + b2n x.trans)] ++ toBytes 6 0
      else toBytes 16 0
    | none => toBytes 16 0

/-- The 192 bytes of a frame (Table 4.5). -/
def frameBytes (s : State) (x : Thread) (clause idx : Nat) (preds : BitVec 7) (rgen : Word) (win : List WinSlot)
    (f : FaultInfo) (live : Bool) (replayable : Bool) : List Byte :=
  toBytes 8 clause ++ toBytes 1 (idx % 16) ++ [f.cause] ++
  [BitVec.ofNat 8 (8 * b2n f.resumeAfter + 4 * b2n replayable + 2 * b2n live + b2n f.addrValid)] ++ toBytes 1 f.sizeCode ++
  toBytes 4 (32 * x.crew + x.lane) ++ toBytes 8 (if f.addrValid then f.addr else 0) ++ toBytes 4 rgen.toNat ++ toBytes 4 preds.toNat ++
  toBytes 8 s.refTime ++
  toBytes 8 (if f.cause = 0x09 then (Config.structureCode f.detail).toNat else f.detail) ++ toBytes 16 0 ++
  ((List.range 8).map fun k => slotBytes win (idx + b2n f.resumeAfter) k).flatten

/-- The frame-live flag of the frame at `s.fault`; none when it cannot be read. -/
def frameLive (s : State) (t : Team) (x : Thread) : Option Bool :=
  match s.privRead t x.tid (x.sfault.toNat + 10) 1 with
  | .ok (b :: _) => some (b.getLsbD 1)
  | _ => none

/-- Writes a frame at `s.fault`. -/
def writeFrame (s : State) (t : Team) (x : Thread) (bs : List Byte) : Except Byte State :=
  s.privWriteWords t x.tid x.sfault.toNat (fours 48 bs)

/-- The part keeps the window that it wrote a thread's frame with: RETT takes only value words and transient flags from memory (R64;
DEDUCED, log entry 69). -/
def keepShadow (s : State) (team : Nat) (x : Thread) (clause rho : Nat) : State :=
  s.modThread team x.tid fun y => { y with shadows := tabSet x.sfault.toNat ⟨clause, rho, x.window⟩ y.shadows }

/-! ### Taking an exception (R65, R215) -/

/-- Adds a thread to the origins of the clause in the issue slot: threads that reach one origin together make one entry, with
the lowest `s.tid` (R367). -/
def addOrigin (idx : Nat) (o : Origin) : List ClauseOrigin → List ClauseOrigin
  | [] => [⟨idx, o⟩]
  | c :: cs =>
    if c.idx = idx ∧ c.origin.cause = o.cause then
      let low := decide (o.tid.getD 0 < c.origin.tid.getD 0)
      ⟨idx, { c.origin with threads := c.origin.threads + 1, tid := if low then o.tid else c.origin.tid,
                            crew := if low then o.crew else c.origin.crew }⟩ :: cs
    else c :: addOrigin idx o cs

/-- A thread is a wave's origin (R361): the wave starts at the end of the clause in the issue slot, or at the end of this step of the
machine outside one. A step ends with status 5 and starts no wave (R371). -/
def stopOrigin (s : State) (t : Team) (tid : Nat) (cause : Byte) : State :=
  let x := s.thread? t.id tid
  let stepped := s.inStep t.id tid
  let o : Origin := ⟨some t.core, t.die, some tid, cause, 1, (x.map (·.crew)).getD 0, t.slot, stepped⟩
  let s : State := if stepped then s.endStep (fun w => w.team == t.id && w.tids.contains tid) cause else s
  match s.issue with
  | some sl =>
    if sl.team = t.id then { s with issue := some { sl with origins := addOrigin sl.idx o sl.origins } }
    else s.reach ⟨t.asid, (x.map (·.clause)).getD 0, (x.map (·.idx)).getD 0, o, s.now⟩
  | none => s.reach ⟨t.asid, (x.map (·.clause)).getD 0, (x.map (·.idx)).getD 0, o, s.now⟩

/-- The path of R65 once the fault is recorded: an origin, of a halt wave with a debugger attached and otherwise of the termination of the
context. -/
def afterR65 (s : State) (team tid : Nat) (cause : Byte) : State :=
  match s.team? team with
  | none => s
  | some t =>
    if s.attached t.asid then s.stopOrigin t tid cause
    else (s.modThread team tid fun x => { x with endedByFault := true }).reach
      ⟨t.asid, 0, 0, ⟨some t.core, t.die, some tid, cause, 1, ((t.thread? tid).map (·.crew)).getD 0, t.slot, false⟩, s.now⟩

/-- The cause of a thread on the path of R65 goes to the fault buffer, and its outcome follows. -/
def r65Record (s : State) (team tid clause : Nat) (f : FaultInfo) : State :=
  match s.team? team with
  | none => s
  | some t =>
    let crew := ((t.thread? tid).map (·.crew)).getD 0
    let lane := ((t.thread? tid).map (·.lane)).getD 0
    let addr := match f.access with | some _ => f.addr | none => clause
    let (s, ok) := s.record t.die
      (fbEntry addr t.asid f.cause 0 false f.access t.core t.slot crew lane t.queue 0) (.thread team tid f.cause)
    if ok then s.afterR65 team tid f.cause else s

/-- The path of R65 for a precise fault: the thread stands at its resume index. (DEDUCED, log entry 13) -/
def r65Path (s : State) (team tid clause idx : Nat) (f : FaultInfo) : State :=
  ((s.modThread team tid fun x =>
    { x with clause := clause, idx := idx + b2n f.resumeAfter, run := .stopped false, stamp := none }).leaveGroup team tid).r65Record team tid clause f

/-- The transfer to the handler once the frame is written (R215). A target that fails the check of R75 puts the fault on the path of R65;
R73's faults there are charged to index 0 of the handler. -/
def enterHandler (s : State) (team tid clause idx target : Nat) (f : FaultInfo) : State :=
  match s.team? team with
  | none => s
  | some t =>
    match s.landing t.core t.asid target with
    | .error _ => (s.fetched t.core t.asid target 1).r65Path team tid clause idx f
    | .ok hdr =>
      match s.entryFetch t.core t.asid target hdr with
      | .error f' => (((s.fetchedTo t.core t.asid target hdr f').placeAt team tid target 0 hdr []).leaveGroup team tid).r65Path team tid target 0 f'
      | .ok ws => ((s.placeAt team tid target 0 hdr ws).leaveGroup team tid).cacheClause t.core t.asid target (hdr :: ws)

/-- Delivers a fault or trap to a thread (R215): the frame at `s.fault`, frame-live, and the transfer to the handler, or the
path of R65. The saved position is the frame's clause address and index; the mode of a thread is its frame-live flag. -/
def deliver (s : State) (team tid clause idx : Nat) (f : FaultInfo) : State :=
  match s.team? team with
  | none => s
  | some t =>
    let s : State := s.drainPrivate t tid
    match s.thread? team tid with
    | none => s
    | some x =>
      if x.trapvec = 0xFFFFFFFF#32 then s.r65Path team tid clause idx f
      else
        match s.frameLive t x with
        | none => s.r65Path team tid clause idx f
        | some true => (s.askPriv t tid (x.sfault.toNat + 10) 1).r65Path team tid clause idx f
        | some false =>
          let s : State := s.askPriv t tid (x.sfault.toNat + 10) 1
          match s.writeFrame t x (s.frameBytes x clause idx x.preds t.rgen x.window f true false) with
          | .error _ => s.r65Path team tid clause idx f
          | .ok s =>
            let s : State := s.keepShadow team x clause (idx + b2n f.resumeAfter)
            let target := s.window t.asid + 16 * x.trapvec.toNat
            if s.holdsEntry team tid then s.holdArrival team tid clause idx (.handler target f)
            else s.enterHandler team tid clause idx target f

/-- Cause 0x10 with a debugger attached (R217, R368): the frame is written with frame-live clear and the thread stops at its
resume index, an origin of a halt wave. With the frame live or unwritable, or no debugger, it is a fault like others. On its first execution
after the thread resumes a breakpoint does not fire again (R368). (DEDUCED, log entry 20) -/
def breakStop (s : State) (team tid clause idx : Nat) (after : Bool) : State :=
  let f : FaultInfo := { plainFault 0x10 with resumeAfter := after }
  let last (s : State) : State := (s.r65Path team tid clause idx f).modThread team tid fun x => { x with skipBpt := !after }
  match s.team? team with
  | none => s
  | some t =>
    if !s.attached t.asid then s.deliver team tid clause idx f
    else
      let s : State := s.drainPrivate t tid
      match s.thread? team tid with
      | none => s
      | some x =>
        match s.frameLive t x with
        | none => last s
        | some true => last (s.askPriv t tid (x.sfault.toNat + 10) 1)
        | some false =>
          let s : State := s.askPriv t tid (x.sfault.toNat + 10) 1
          match s.writeFrame t x (s.frameBytes x clause idx x.preds t.rgen x.window f false false) with
          | .error _ => last s
          | .ok s' =>
            ((((s'.keepShadow team x clause (idx + b2n after)).modThread team tid fun x =>
              { x with clause := clause, idx := idx + b2n after, run := .stopped true, stamp := none, skipBpt := !after }).leaveGroup team tid).stopOrigin t tid 0x10)

/-- Moves a thread to a clause header that passed R75, with R73's checks charged to index 0 there. -/
def enterClause (s : State) (team tid target idx : Nat) (hdr : DWord) : State :=
  match s.team? team with
  | none => s
  | some t =>
    match s.entryFetch t.core t.asid target hdr with
    | .error f => (((s.fetchedTo t.core t.asid target hdr f).placeAt team tid target idx hdr []).leaveGroup team tid).deliver team tid target 0 f
    | .ok ws => ((s.placeAt team tid target idx hdr ws).leaveGroup team tid).cacheClause t.core t.asid target (hdr :: ws)

/-- The thread of a group completes index n − 1 without transferring: it enters the clause behind the footprint (R76), once no ICSYNC in
hand holds it (R223). -/
def fallThrough (s : State) (team tid : Nat) : State :=
  match s.team? team, s.thread? team tid with
  | some t, some x =>
    let n := hdrN x.hdr
    let next := (x.clause + footprint n) % 2 ^ 64
    if s.holdsEntry team tid then s.holdArrival team tid x.clause n .fall
    else
      match s.landing t.core t.asid next with
      | .error c => (s.fetched t.core t.asid next 1).deliver team tid x.clause (n - 1) { s.codeFault t.die t.asid c next with resumeAfter := true }
      | .ok hdr => s.enterClause team tid next 0 hdr
  | _, _ => s

/-! ### Returning from an exception (R218) -/

/-- First destination register of an encoded instruction, and whether it is a pair (R64). -/
def destOf : Instr → Option (Reg × Bool)
  | .iadd _ _ _ d _ _ | .isub _ _ _ d _ _ | .imul _ _ d _ _ | .imulhi _ _ _ d _ _ | .imad _ _ d _ _ _ | .imin _ _ _ d _ _
  | .imax _ _ _ d _ _ | .iabs _ _ _ d _ | .and _ _ d _ _ | .or _ _ d _ _ | .xor _ _ d _ _ | .andn _ _ d _ _ | .shl _ _ d _ _
  | .shr _ _ d _ _ | .sar _ _ d _ _ | .rotl _ _ d _ _ | .clz _ _ d _ | .popc _ _ d _ | .brev _ _ d _ | .bfx _ _ _ d _ _
  | .bfi _ _ d _ _ _ | .prmt _ _ d _ _ _ | .sel _ _ _ _ d _ _ => some (d, false)
  | .iadd64 _ _ _ d _ _ | .lea _ _ _ _ d _ _ | .iadd64Imm _ d _ _ => some (d, true)
  | .mov _ _ b64 d _ => some (d, b64)
  | .movp _ _ toPred r => if toPred then none else some (r, false)
  | .movi _ m d _ => some (d, m != .w32)
  | .iaddImm _ d _ _ | .imulImm _ d _ _ | .andImm _ d _ _ | .orImm _ d _ _ | .xorImm _ d _ _ | .andnImm _ d _ _ | .shlImm _ d _ _
  | .shrImm _ d _ _ | .sarImm _ d _ _ | .rotlImm _ d _ _ | .iminImm _ _ d _ _ | .imaxImm _ _ d _ _ => some (d, false)
  | .fadd _ _ _ d _ _ | .fsub _ _ _ d _ _ | .fmul _ _ _ d _ _ | .ffma _ _ _ d _ _ _ | .fmin _ _ d _ _ | .fmax _ _ d _ _
  | .fclass _ _ d _ | .fscale _ _ _ d _ _ | .frnd _ _ _ d _ | .hadd2 _ _ _ _ d _ _ | .hmul2 _ _ _ _ d _ _ | .hfma2 _ _ _ _ d _ _ _
  | .frcp _ _ _ d _ | .frsq _ _ _ d _ | .fsqrt _ _ _ _ d _ | .fdiv _ _ _ _ d _ _ | .fexp2 _ _ _ d _ | .flog2 _ _ _ d _
  | .fsin _ _ _ d _ | .fcos _ _ _ d _ | .f2i _ _ _ _ d _ | .i2f _ _ _ _ d _ | .fcvt _ _ _ _ _ _ d _ _ | .qcvt _ _ _ _ _ d _ _ _
  | .dqcvt _ _ _ d _ | .mxq _ _ _ d _ _ | .rng _ _ d _ _ | .rngf _ _ d _ _ => some (d, false)
  | .ld _ _ m r _ | .lds _ _ m r _ => some (r, m.size == .b64)
  | .ldp _ s _ r _ => some (r, s == .b64)
  | .atom _ _ m d _ _ | .atoms _ _ m d _ _ => some (d, m.size == .b64)
  | .fill _ _ _ r _ => some (r, false)
  | .shfl _ _ _ _ d _ _ _ | .matchLanes _ _ _ _ d _ | .credux _ _ _ d _ | .tkwait _ _ d | .tgff _ _ _ d _ | .twait _ d
  | .mread _ _ _ _ _ d | .mswr _ _ _ _ d => some (d, false)
  | .vote _ _ m _ d => match m with | .test _ => none | _ => some (d, false)
  | .call _ d _ => some (d, false)
  | .callx _ d _ _ => some (d.reg, false)
  | .sread _ _ s d => some (d, s.wide)
  | _ => none

/-- Every v register that an instruction writes, quads included (R83); a pair that is kz writes none (R52). -/
def destRegs (i : Instr) : List Reg :=
  match i with
  | .dqcvt _ _ _ d _ | .mswr _ _ _ _ d => [d, d + 1#8, d + 2#8, d + 3#8].filter isV
  | .ld _ _ m r _ | .lds _ _ m r _ => (if m.size == .b128 && r != 0xFF#8 then [r, r + 1#8, r + 2#8, r + 3#8] else if m.size == .b64 && r != 0xFF#8 then [r, r + 1#8] else [r]).filter isV
  | .ldp _ z _ r _ => (if z == .b128 && r != 0xFF#8 then [r, r + 1#8, r + 2#8, r + 3#8] else if z == .b64 && r != 0xFF#8 then [r, r + 1#8] else [r]).filter isV
  | i => match destOf i with
    | some (d, wide) => (if wide && d != 0xFF#8 then [d, d + 1#8] else [d]).filter isV
    | none => []

/-- Slots 1 to 7 of a window as RETT reloads it at resume index ρ of a clause with these words (R64): each slot's codes and guard are those
that the part wrote the frame with, its value words and transient flag those of the frame; slot 0 stays as it was. Of a frame that the
part did not write there the codes follow the instruction words. (DEDUCED, log entry 69) -/
def reloadSlots (x : Thread) (fr : List Byte) (clause rho : Nat) (words : List DWord) : List WinSlot :=
  let old : List WinSlot := match tabFind x.sfault.toNat x.shadows with
    | some h => if h.clause = clause ∧ h.rho = rho then h.slots else []
    | none => []
  (List.range 8).filterMap fun k =>
    if rho + k < 8 then none
    else
      let idx := rho + k - 8
      let b := (fr.drop (64 + 16 * k)).take 16
      let trans := bit 0 (ofBytes (b.drop 9 |>.take 1))
      let lo : Word := BitVec.ofNat 32 (ofBytes (b.take 4))
      let hi : Word := BitVec.ofNat 32 (ofBytes ((b.drop 4).take 4))
      match old.find? fun w => w.idx == idx with
      | some w => some (if k = 0 then w else if trans then { w with lo := lo, hi := hi, trans := true, acc := none } else { w with trans := false })
      | none =>
        match words[idx]?.map decodeWord with
        | some (.ok i) =>
          some (match destOf i with
            | some (d, wide) => if d = 0xFF#8 then ⟨idx, 0, 0, 0xFF, true, false, false, none⟩ else ⟨idx, if trans then lo else 0, if trans && wide then hi else 0, d, true, wide, trans && k != 0, none⟩
            | none => ⟨idx, 0, 0, 0xFF, true, false, false, none⟩)
        | _ => none

/-- Does the instruction raise `ld` (R57)? -/
def raisesLd : Instr → Bool
  | .ld .. | .lds .. | .ldp .. | .fill .. | .atom .. | .atoms .. => true
  | _ => false

/-- The registers that slots 1 to 7 of the reloaded window give back: each holds the value of its last writer in the window if that result
is transient, and is left to it otherwise (R54). A load that has not returned, or that no wait has covered, is no later writer: the register
reads its old value, the one given back, or the loaded one (R55). The result of slot 0 is out of reach at ρ and is not reloaded (R64). A slot
holds the words of its first destination alone: of a transient quad (DQCVT, MSWR) the registers d+1 to d+3 are not given back, and are
undefined (DESIGN CHOICE, log entry 69). -/
def reloadRegs (words : List DWord) (rho : Nat) (w : List WinSlot) (x : Thread) : Thread :=
  (w.filter fun sl => decide (rho < sl.idx + 8)).foldl (fun x sl =>
    match words[sl.idx]?.map decodeWord with
    | some (.ok i) =>
      -- registers that a later result without T has in the register file
      let kept (d : Reg) : Bool := w.any fun y => decide (sl.idx < y.idx) && y.guard && !y.trans &&
        (match words[y.idx]?.map decodeWord with
         | some (.ok j) => (destRegs j).contains d &&
             !(raisesLd j && (x.pend.any (fun p => p.code == d.toNat) || x.flips.any fun f => f.code == d.toNat))
         | _ => false)
      if sl.guard && sl.trans then
        (((destRegs i).zip (if sl.wide then [sl.lo, sl.hi] else [sl.lo])).filter fun p => !kept p.1).foldl (fun x p =>
          { (settleReg x p.1.toNat p.2) with
            flips := x.flips.map fun f => if f.code = p.1.toNat then { f with old := p.2 } else f
            trans := (p.1.toNat, sl.idx + 7) :: x.trans.filter fun e => e.1 != p.1.toNat }) x
      else x
    | _ => x) x

/-- Resumes a thread from a frame's bytes at index ρ of its clause, with the window reloaded; `hdr` passed R75. -/
def resumeFrom (s : State) (t : Team) (tid clause rho : Nat) (hdr : DWord) (words : List DWord) (fr : List Byte) : State :=
  (s.placeAt t.id tid clause rho hdr words).modThread t.id tid fun x =>
    let w := reloadSlots x fr clause rho words
    s.scramble [] (s.showFlips { (reloadRegs words rho w x) with window := w })

/-- Return from an exception for one thread (R218); `clause` and `idx` are RETT's own position. A frame at index n of its clause goes on as
fall-through, which checks nothing there; one edited to an index beyond n has no instruction left either and, its clause checked, also
falls through (DESIGN CHOICE, log entry 70). A failure of R73 in the clause it returns to is taken as one of the target check, charged to RETT
with the frame live (DESIGN CHOICE, log entry 100). -/
def rettThread (s : State) (team tid clause idx : Nat) : State :=
  match s.team? team with
  | none => s
  | some t =>
    if s.holdsEntry team tid then s.holdArrival team tid clause idx .rett else
    let s : State := s.drainPrivate t tid
    match s.thread? team tid with
    | none => s
    | some x =>
      match s.privRead t tid x.sfault.toNat 192 with
      | .error c => s.deliver team tid clause idx { targetFault c x.sfault.toNat with
          access := some 0, detail := if c = 0x09 then s.virtErrorClass t.die t.asid (privVirt t tid (s.privFail t tid x.sfault.toNat 192)) 1 else 0 }
      | .ok fr =>
        let s : State := s.askPriv t tid x.sfault.toNat 192
        if !((ofBytes (fr.drop 10 |>.take 1) / 2) % 2 == 1) then s.deliver team tid clause idx (plainFault 0x02)
        else
          let fclause := ofBytes (fr.take 8)
          let fidx := ofBytes ((fr.drop 8).take 1) % 16
          let flags := ofBytes ((fr.drop 10).take 1)
          let rho := fidx + b2n (bit 3 flags)
          let preds : BitVec 7 := BitVec.ofNat 7 (ofBytes ((fr.drop 28).take 4))
          -- clears frame-live and goes on at the frame's place
          let go (hdr : DWord) (words : List DWord) : State :=
            match s.privWriteByte t tid (x.sfault.toNat + 10) (BitVec.ofNat 8 (flags - 2)) with
            | .error c => s.deliver team tid clause idx { targetFault c (x.sfault.toNat + 10) with access := some 1 }
            | .ok s =>
              let s : State := s.modThread team tid fun x => { x with preds := preds }
              let s : State := (s.resumeFrom t tid fclause rho hdr words fr).leaveGroup team tid
              if hdrN hdr ≤ rho then s.fallThrough team tid else s.cacheClause t.core t.asid fclause (hdr :: words)
          match s.fetchWord t.core t.asid fclause with
          | .ok hdr =>
            if bits 63 56 hdr.toNat = 0xFA ∧ rho = hdrN hdr then go hdr []
            else if fclause % 16 ≠ 0 then s.deliver team tid clause idx (targetFault 0x03 fclause)
            else
              match s.landing t.core t.asid fclause with
              | .error c => (s.fetched t.core t.asid fclause 1).deliver team tid clause idx (s.codeFault t.die t.asid c fclause)
              | .ok hdr =>
                match s.entryFetch t.core t.asid fclause hdr with
                | .error f => (s.fetchedTo t.core t.asid fclause hdr f).deliver team tid clause idx f
                | .ok ws => go hdr ws
          | .error c => s.deliver team tid clause idx (s.codeFault t.die t.asid (if fclause % 16 ≠ 0 then 0x03 else c) fclause)

end State

end Sys2Proof.Machine
end

