-- ==== Sys2Proof/Machine/Operands.lean ====
section
/-! DEFINITION. Operands: the operand codes of R49, pairs and quads (R52, R83), granules held (R50), the issue group's active
lanes, and the commit of results under R51 to R55. -/

namespace Sys2Proof.Machine

/-- Does the crew hold the granule of an operand code (R50)? -/
def holds (c : Crew) (r : Reg) : Bool := !isV r || decide (r.toNat < 32 * (1 + c.granules))

/-- Reads an operand code (Table 4.2); a k register is the crew's, the same for every thread of it (R68). -/
def readReg (x : Thread) (c : Crew) (r : Reg) : Word :=
  if isV r then tabGet 0#32 r.toNat x.regs else if r = 0xFF#8 then 0#32 else tabGet 0#32 (r.toNat - 0xC0) c.kregs

/-- Reads a 64-bit operand (R52). -/
def readPair (x : Thread) (c : Crew) (r : Reg) : DWord :=
  if r = 0xFF#8 then 0#64 else pairOf (readReg x c r) (readReg x c (r + 1#8))

/-- Codes of a pair or a quad. -/
def pairCodes (r : Reg) : List Reg := if r = 0xFF#8 then [r] else [r, r + 1#8]
def quadCodes (r : Reg) : List Reg := [r, r + 1#8, r + 2#8, r + 3#8]
def sizedCodes (s : Size) (r : Reg) : List Reg :=
  match s with | .b64 => pairCodes r | .b128 => (if r = 0xFF#8 then [r] else quadCodes r) | _ => [r]

/-- A 64-bit result in a pair. -/
def pairWrites (d : Reg) (v : DWord) : List (Reg × Word) := if d = 0xFF#8 then [] else [(d, loWord v), (d + 1#8, hiWord v)]

/-- What an instruction writes for one lane: registers and predicates. -/
structure LaneOut where
  regs : List (Reg × Word)
  preds : BitVec 7
deriving DecidableEq, Repr

/-- Writes a v register of a thread; T makes the result transient for seven instructions (R54), and a write to the destination of a load
that no wait has covered is remembered (R55); a fragment register will hold what was written after the covering TWAIT (R184). -/
def writeV (t : Bool) (idx : Nat) (x : Thread) (r : Reg) (v : Word) : Thread :=
  { x with
    regs := tabPut 0#32 r.toNat v x.regs
    pend := x.pend.map fun p => if p.code = r.toNat then { p with written := true } else p
    flips := x.flips.map fun f => if f.code = r.toNat then { f with old := v, written := true } else f
    frags := x.frags.map fun f => if f.code = r.toNat then { f with val := v } else f
    trans := (if t then [(r.toNat, idx + 7)] else []) ++ x.trans.filter fun p => p.1 != r.toNat }

/-- A lane's results in its own thread: v registers and predicates. -/
def commitThread (t : Bool) (idx : Nat) (x : Thread) (o : LaneOut) : Thread :=
  let y := o.regs.foldl (fun y (r, v) => if isV r then writeV t idx y r v else y) x
  { y with preds := o.preds }

/-- A lane's results in its crew: k registers, whose new value every thread of the crew reads (R51, R68). -/
def commitCrew (c : Crew) (o : LaneOut) : Crew :=
  { c with kregs := o.regs.foldl (fun k (r, v) => if isK r then tabPut 0#32 (r.toNat - 0xC0) v k else k) c.kregs }

/-- The thread of lowest lane. -/
def lowestLane : List Thread → Option Thread
  | [] => none
  | x :: xs => match lowestLane xs with
    | some y => if y.lane < x.lane then some y else some x
    | none => some x

/-- Inserts a thread by ascending lane. -/
def insertLane (x : Thread) : List Thread → List Thread
  | [] => [x]
  | y :: ys => if x.lane ≤ y.lane then x :: y :: ys else y :: insertLane x ys

def sortLanes : List Thread → List Thread
  | [] => []
  | x :: xs => insertLane x (sortLanes xs)

def emptyCrew (slot : Nat) : Crew := ⟨slot, [], 0, [], []⟩

def Team.crewOf (t : Team) (x : Thread) : Crew := (t.crew? x.crew).getD (emptyCrew x.crew)

/-- An operand the crew does not hold (R50): where several are lacking, the frame names the first in the order d, a, b, c in which the
meanings list their codes (DESIGN CHOICE, notes/assumptions/96.md). -/
def missing (c : Crew) (codes : List Reg) : Option Reg := codes.find? fun r => !holds c r

/-- The operand-range fault (R50, Table 4.5). -/
def rangeFault (r : Reg) : FaultInfo := { plainFault 0x0E with detail := r.toNat }

namespace Team

/-- Threads of the group whose guard is true, by ascending lane. -/
def active (t : Team) (sl : IssueSlot) (g : Guard) : List Thread :=
  sortLanes (t.threads.filter fun x => sl.group.contains x.tid && guardOf x.preds g)

/-- Those that hold every operand. -/
def able (t : Team) (sl : IssueSlot) (g : Guard) (codes : List Reg) : List Thread :=
  (t.active sl g).filter fun x => (missing (t.crewOf x) codes).isNone

/-- The results of a lane-wise instruction: every able lane computes from the state before; then v registers and predicates per
thread, k registers per crew from its lowest able lane (R51). (DEDUCED, log entry 30) -/
def commit (t : Team) (sl : IssueSlot) (g : Guard) (tb : Bool) (codes : List Reg) (f : Thread → Crew → LaneOut) : Team :=
  { t with
    threads := t.threads.map fun x =>
      if sl.group.contains x.tid && guardOf x.preds g && (missing (t.crewOf x) codes).isNone then
        commitThread tb sl.idx x (f x (t.crewOf x))
      else x
    crews := t.crews.map fun c =>
      match lowestLane ((t.able sl g codes).filter fun x => x.crew == c.slot) with
      | some x => commitCrew c (f x (t.crewOf x))
      | none => c }

end Team

namespace State

/-- Charges each active lane that lacks an operand with 0x0E. -/
def chargeRange (s : State) (sl : IssueSlot) (t : Team) (g : Guard) (codes : List Reg) : State :=
  (t.active sl g).foldl (fun s x =>
    match missing (t.crewOf x) codes with
    | some r => s.deliver sl.team x.tid sl.clause sl.idx (rangeFault r)
    | none => s) s

/-- A lane-wise instruction of the group in the issue slot: its operand codes, and what one lane writes. -/
def laneOp (s : State) (g : Guard) (tb : Bool) (codes : List Reg) (f : Thread → Crew → LaneOut) : State :=
  match s.issue with
  | none => s
  | some sl =>
    match s.team? sl.team with
    | none => s
    | some t => (s.modTeam sl.team fun t => t.commit sl g tb codes f).chargeRange sl t g codes

/-- Registers only: one destination. -/
def aluOp (s : State) (g : Guard) (tb : Bool) (d : Reg) (codes : List Reg) (f : Thread → Crew → Word) : State :=
  s.laneOp g tb (d :: codes) fun x c => ⟨[(d, f x c)], x.preds⟩

/-- Registers only: a pair destination. -/
def aluOp64 (s : State) (g : Guard) (tb : Bool) (d : Reg) (codes : List Reg) (f : Thread → Crew → DWord) : State :=
  s.laneOp g tb (pairCodes d ++ codes) fun x c => ⟨pairWrites d (f x c), x.preds⟩

/-- A predicate destination. -/
def predOp (s : State) (g : Guard) (d : Reg) (codes : List Reg) (f : Thread → Crew → Bool) : State :=
  s.laneOp g false codes fun x c => ⟨[], setPred x.preds d.toNat (f x c)⟩

/-- The slot, its team and the active lanes that hold their operands; the others are charged. Used by the instructions that act
beyond the registers. -/
def withLanes (s : State) (g : Guard) (codes : List Reg) (f : State → IssueSlot → Team → List Thread → State) : State :=
  match s.issue with
  | none => s
  | some sl =>
    match s.team? sl.team with
    | none => s
    | some t => f (s.chargeRange sl t g codes) sl t (t.able sl g codes)

/-- A group-singular instruction (R183): the issuing thread is the guard-true thread of lowest lane; it alone reads operands and takes
their faults. -/
def single (s : State) (g : Guard) (codes : List Reg) (f : State → IssueSlot → Team → Thread → Crew → State) : State :=
  s.withLanes g [] fun s sl t ls =>
    match ls with
    | [] => s
    | x :: _ =>
      match missing (t.crewOf x) codes with
      | some r => s.deliver sl.team x.tid sl.clause sl.idx (rangeFault r)
      | none => f s sl t x (t.crewOf x)

/-- Writes one lane's registers and predicates after the fact (waits, loads, votes): v in the thread, k in its crew; a fragment register
stays undefined to every reader. -/
def writeRegs (s : State) (team tid : Nat) (tb : Bool) (idx : Nat) (regs : List (Reg × Word)) : State :=
  s.modTeam team fun t =>
    match t.thread? tid with
    | none => t
    | some x =>
      (t.modThread tid fun x => s.scramble (regs.map (·.1)) (commitThread tb idx x ⟨regs, x.preds⟩)).modCrew x.crew fun c => commitCrew c ⟨regs, x.preds⟩

/-- How an instruction's slot of the window snapshot reads once it has executed (R64); `acc` is the pending access that will give its value. -/
def slotOf (x : Thread) (c : Crew) (idx : Nat) (dest : Option (Reg × Bool)) (guard : Bool) (acc : Option Nat) : WinSlot :=
  if !guard then ⟨idx, 0, 0, 0, false, false, false, none⟩
  else
    match dest with
    | none => ⟨idx, 0, 0, 0xFF, true, false, false, none⟩
    | some (d, wide) =>
      if d = 0xFF#8 then ⟨idx, 0, 0, 0xFF, true, false, false, none⟩
      else
        match acc with
        | some n => ⟨idx, 0, 0, d, true, wide, false, some n⟩
        | none => ⟨idx, readReg x c d, if wide then readReg x c (d + 1#8) else 0, d, true, wide, x.trans.contains (d.toNat, idx + 7), none⟩

/-- The pending load, FILL or atomic that will give the value of an instruction that a thread has issued: its own access, or for a k register,
which one lane of the crew writes (R51), that lane's. -/
def pendingLoad (s : State) (team tid clause idx : Nat) : Option Nat :=
  match (s.accs.filter fun a => a.ofThread team tid && a.isLoad && a.clause == clause && a.idx == idx).getLast? with
  | none => none
  | some a =>
    let crew (i : Nat) : Option Nat := (s.thread? team i).map (·.crew)
    if isK a.slotDst && a.slotDst != 0xFF#8 && a.dst == 0xFF#8 then
      (((s.accs.find? fun b => b.group == a.group && b.dst == a.slotDst && crew b.tid == crew a.tid).map (·.id)).orElse fun _ => some a.id)
    else some a.id

/-- Adds the slot of an executed instruction to a thread's window. -/
def note (s : State) (team tid idx : Nat) (dest : Option (Reg × Bool)) (guard : Bool) : State :=
  s.modTeam team fun t => t.modThread tid fun x =>
    { x with window := slotOf x (t.crewOf x) idx dest guard (s.pendingLoad team tid x.clause idx) :: x.window.filter fun w => w.idx != idx }

end State

end Sys2Proof.Machine
end

