-- ==== Sys2Proof/Machine/Launch.lean ====
section
/-! DEFINITION. Launches: records and packets (Tables 10.3, 18.4), their checks (R220, R308, R322), and the start of a grid
(R308, R309, R311, R314). -/

namespace Sys2Proof.Machine

/-- The resource word at offset 24 of Table 10.3. -/
structure ResWord where
  detmin : Nat
  cohort : Bool
  tags : Nat
  tiles : Nat
  granules : Nat
  h : Nat
  w : Nat
  crews : Nat
  spare : Nat
deriving DecidableEq, Repr

def resWord (n : Nat) : ResWord :=
  ⟨bits 28 27 n, bit 26 n, bits 25 19 n, bits 18 12 n, bits 11 9 n, bits 8 7 n + 1, bits 6 5 n + 1, bits 4 0 n + 1, bits 31 29 n⟩

/-- A launch record of 64 bytes (Table 10.3). -/
def recordLaunch (bs : List Byte) (depth minDies maxDies hint : Nat) : LaunchF :=
  let at_ (o n : Nat) : Nat := ofBytes ((bs.drop o).take n)
  let r := resWord (at_ 24 4)
  { code := at_ 0 8, paramAddr := at_ 8 8, gx := at_ 16 4, gy := at_ 20 2, gz := at_ 22 2, detmin := r.detmin, cohort := r.cohort,
    tags := r.tags, tiles := r.tiles, granules := r.granules, h := r.h, w := r.w, crews := r.crews, scratchKiB := at_ 28 4 % 1024,
    privSize := at_ 32 4, spillSize := at_ 36 4, paramSize := at_ 40 4, linkage := BitVec.ofNat 32 (at_ 44 4), completion := at_ 48 8,
    ticketBase := BitVec.ofNat 32 (at_ 56 4), minDies := minDies, maxDies := maxDies, hint := hint, depth := depth }

/-- A LAUNCH packet (Tables 18.3, 18.4). -/
def packetLaunch (d : List DWord) : LaunchF :=
  let w (i : Nat) : Nat := (d.getD i 0).toNat
  let r := resWord (bits 31 0 (w 4))
  { code := w 1, paramAddr := w 2, gx := bits 31 0 (w 3), gy := bits 47 32 (w 3), gz := bits 63 48 (w 3), detmin := r.detmin,
    cohort := r.cohort, tags := r.tags, tiles := r.tiles, granules := r.granules, h := r.h, w := r.w, crews := r.crews,
    scratchKiB := bits 41 32 (w 4), privSize := bits 31 0 (w 5), spillSize := bits 63 32 (w 5), paramSize := bits 16 0 (w 6),
    linkage := BitVec.ofNat 32 (bits 63 32 (w 6)), completion := w 7, ticketBase := BitVec.ofNat 32 (bits 63 32 (w 0)),
    minDies := bits 25 25 (w 0) + 1, maxDies := bits 26 26 (w 0) + 1, hint := bits 24 22 (w 0), depth := bits 31 28 (w 0) }

/-- Size fields in the ranges of Tables 10.3 and 18.4. -/
def LaunchF.inRange (l : LaunchF) : Bool :=
  decide (1 ≤ l.gx) && decide (1 ≤ l.gy) && decide (1 ≤ l.gz) && decide (l.gx * l.gy * l.gz ≤ 2 ^ 32 - 1) &&
  decide (l.tags ≤ 64) && decide (l.tiles ≤ 64) && decide (l.granules ≤ 5) && decide (l.w * l.h ≤ 8) &&
  decide (l.crews * (1 + l.granules) ≤ 64) && decide (l.scratchKiB ≤ 512) && l.privSize % 64 == 0 && decide (256 ≤ l.privSize) &&
  decide (l.privSize ≤ 2 ^ 24) && l.spillSize % 4 == 0 && l.paramSize % 4 == 0 && decide (l.paramSize ≤ 65536) && l.completion % 8 == 0

def LaunchF.teams (l : LaunchF) : Nat := l.gx * l.gy * l.gz
def LaunchF.clusters (l : LaunchF) : Nat := l.teams / (l.w * l.h)

/-- Bytes of the private pool one team takes: private area and spill space, each from a multiple of 128 (R250). -/
def LaunchF.privateArea (l : LaunchF) : Nat := ceilDiv (32 * l.crews * l.privSize) 128 * 128
def LaunchF.poolBytes (l : LaunchF) : Nat := l.privateArea + ceilDiv (l.crews * l.spillSize) 128 * 128

/-- What a core's residents leave of the limits of Table 12.1, as the number of teams of this launch that still fit; the context
limit is tested with the placement. -/
def roomFor (l : LaunchF) (teams crews granules scratch tiles tags : Nat) : Nat :=
  let per (left each : Nat) : Nat := if each = 0 then Config.coreTeams else left / each
  [Config.coreTeams - teams, per (Config.coreCrews - crews) l.crews, per (Config.coreGranules - granules) (l.crews * (1 + l.granules)),
   per (Config.coreScratchKiB - scratch) l.scratchKiB, per (Config.coreTiles - tiles) l.tiles, per (Config.coreTags - tags) l.tags].foldl min
    Config.coreTeams

namespace State

def liveDies (s : State) : List Nat := (if s.die0.live then [0] else []) ++ if s.die1.live then [1] else []

/-- Teams of the launch that fit a core beside the resident teams that `keep` selects (R229). -/
def coreRoom (s : State) (l : LaunchF) (core : Nat) (keep : Team → Bool) : Nat :=
  let ts := s.teams.filter fun t => t.core == core && t.res == .resident && keep t
  let sum (f : Team → Nat) : Nat := (ts.map f).foldl (· + ·) 0
  roomFor l ts.length (sum fun t => t.crews.length) (sum fun t => (t.crews.map fun c => 1 + c.granules).foldl (· + ·) 0)
    (sum fun t => t.scratchBytes / 1024) (sum fun t => t.tiles.length) (sum fun t => t.tags.length)

/-- Cores of the rectangle of a cluster with its lowest corner at (x, y), by rank (R230). -/
def rectCores (l : LaunchF) (die x y : Nat) : List Nat :=
  (List.range (l.w * l.h)).map fun r => 1024 * die + 32 * (y + r / l.w) + (x + r % l.w)

/-- Origins of the rectangle slots of a die (R313). -/
def slotCount (l : LaunchF) : Nat := (32 / l.w) * (32 / l.h)
def slotOrigin (l : LaunchF) (j : Nat) : Nat × Nat := (l.w * (j % (32 / l.w)), l.h * (j / (32 / l.w)))

/-- Clusters that fit at once on the given dies beside the teams that `keep` selects. (DEDUCED, log entry 27) -/
def clustersFit (s : State) (l : LaunchF) (dies : List Nat) (keep : Team → Bool) : Nat :=
  (dies.map fun d => ((List.range (slotCount l)).map fun j =>
    ((rectCores l d (slotOrigin l j).1 (slotOrigin l j).2).map fun c => s.coreRoom l c keep).foldl min Config.coreTeams).foldl (· + ·) 0).foldl (· + ·) 0

/-- Private pool size of a context. -/
def poolSize (s : State) (asid : Nat) : Nat := ((s.ctx? asid).map fun c => c.desc.poolSize).getD 0

/-- Is team t the launching team or one of its ancestors? -/
def ancestor (s : State) (t : Nat) : (fuel : Nat) → Option Nat → Bool
  | 0, _ => false
  | fuel + 1, some p => p == t ||
      (match s.team? p with
       | some tm => ancestor s t fuel ((s.grid? tm.grid).bind (·.parent))
       | none => false)
  | _, none => false

/-- Is team t one of a grid that the launching team descends from (R221)? -/
def ancestorGrid (s : State) (t : Team) : (fuel : Nat) → Option Nat → Bool
  | 0, _ => false
  | fuel + 1, some p =>
    (match s.team? p with
     | some tm => tm.grid == t.grid || ancestorGrid s t fuel ((s.grid? tm.grid).bind (·.parent))
     | none => false)
  | _, none => false

/-- Is the launch refused (R308, R221, R322)? -/
def refused (s : State) (l : LaunchF) (asid level : Nat) (dies : List Nat) (parent : Option Nat) : Bool :=
  let win := s.window asid
  let n := l.clusters
  l.code % 16 != 0 || decide (l.code < win) || decide (win + 2 ^ 36 ≤ l.code) ||
  !l.inRange || l.teams % (l.w * l.h) != 0 || decide (level < l.detmin) || decide (s.liveDies.length < l.minDies) ||
  decide (roomFor l 0 0 0 0 0 0 = 0) ||
  decide (s.poolSize asid < l.w * l.h * l.poolBytes) ||
  (l.cohort && (decide (s.clustersFit l dies (fun t => s.ancestorGrid t 16 parent) < n) || decide (s.poolSize asid < l.teams * l.poolBytes)))

/-- Writes bytes of a context's memory page by page; a fault ends it, and what went before stays written. -/
def writeSpan (s : State) (die asid va : Nat) (v : Via) : (fuel : Nat) → List Byte → State × Option (Byte × Nat)
  | 0, _ => (s, none)
  | fuel + 1, bs =>
    if bs.isEmpty then (s, none)
    else
      let k := 2 ^ 16 - va % 2 ^ 16
      match s.writable die asid va v with
      | .error c => (s, some (c, va))
      | .ok pa => writeSpan ((s.cacheWalks die asid .write v [va]).agentWrite pa (bs.take k)) die asid ((va + k) % 2 ^ 64) v fuel (bs.drop k)

/-- Reads a stretch of a context's memory page by page: the bytes, or the first fault and its address. -/
def readSpan (s : State) (die asid va : Nat) (u : Use) (v : Via) : (fuel n : Nat) → Except (Byte × Nat) (List Byte)
  | 0, _ => .ok []
  | fuel + 1, n =>
    if n = 0 then .ok []
    else
      let k := min n (2 ^ 16 - va % 2 ^ 16)
      match s.readVirt die asid va k u v with
      | .error c => .error (c, va)
      | .ok bs =>
        match readSpan s die asid ((va + k) % 2 ^ 64) u v fuel (n - k) with
        | .ok rest => .ok (bs ++ rest)
        | .error e => .error e

/-- May a fault of an agent of this die be recorded at once (R327)? -/
def recordReady (s : State) (d : Nat) : Bool := s.fbReady d && !(s.waits.any fun w => w.die == d)

/-- A replay token for a fault of a context (R328): none in fatal mode, and none for a data error. -/
def parkToken (s : State) (asid : Nat) (c : Byte) : Nat × State :=
  if ((s.ctx? asid).map fun c => c.desc.replayable).getD false && (c == 0x06 || c == 0x07) then s.fresh else (0, s)

/-- The outcome of a fault on a parameter area (R308): it parks, or the launch completes faulted. -/
def gridFault (s : State) (gid : Nat) (c : Byte) (token : Nat) : State :=
  match s.grid? gid with
  | none => s
  | some g =>
    match g.state with
    | .retired _ => s
    | _ =>
      if token ≠ 0 then s.modGrid gid fun g => { g with state := .parked token }
      else
        let s : State := if c = 0x09 then s.markFailed g.asid else s
        (s.modGrid gid fun g => { g with faulted := true }).retireGridWith gid 1

/-- Starts a grid whose launch is accepted: its parameter area is read once (R308). -/
def startGrid (s : State) (gid : Nat) : State :=
  match s.grid? gid with
  | none => s
  | some g =>
    let d := s.medlar g.queue
    match s.readSpan d g.asid g.launch.paramAddr .read .frontEnd 3 g.launch.paramSize with
    | .ok bs =>
      ((s.spanRead d g.asid g.launch.paramAddr g.launch.paramSize .read .frontEnd).modGrid gid fun g => { g with params := bs, state := .running }).trace
        g.asid 1 g.queue (3 * 2048) (g.qrpAtStart * 2 ^ 32) 0 0
    | .error (c, a) =>
      let (token, s) := s.parkToken g.asid c
      let (s, ok) := s.record d (fbEntry a g.asid c 3 (token != 0) (some 0) 0xFFFF 0 0 0 g.queue token) (.grid gid c token)
      if ok then s.gridFault gid c token else s

/-- A new grid (R309, R311): four ticket counters at the ticket base, barriers idle. -/
def newGrid (s : State) (id q asid : Nat) (l : LaunchF) (parent : Option Nat) (packet startCount : Nat) (dies : List Nat) : Grid where
  id := id
  queue := q
  asid := asid
  launch := l
  params := []
  paramErrs := []
  parent := parent
  packet := packet
  startCount := startCount
  qrpAtStart := match (parent.bind s.team?).bind fun t => s.grid? t.grid with | some g => g.qrpAtStart | none => (s.queue q).rp.toNat
  dies := dies
  next := 0
  tickets := List.replicate 4 ⟨l.ticketBase, false⟩
  bars := []
  faulted := false
  killed := false
  claims := []
  slots := []
  placed := 0
  cmds := []
  state := .waiting

/-- The dies that serve a launch of this die count: the lowest live ones at REPEAT and above (R313); at FREE the dispatchers choose
(R312), in a replay the die that the log gives its clusters (R378). -/
def launchDies (s : State) (level count id : Nat) (logged : Option Nat) : List Nat :=
  if level = 0 ∧ count = 1 then
    match logged with
    | some d => [d]
    | none => ((s.liveDies)[Config.pick 3 id % s.liveDies.length]?).toList
  else s.liveDies.take count

/-- Children of a team that have not retired (R220). -/
def childrenOf (s : State) (team : Nat) : List Grid :=
  s.grids.filter fun g => g.parent == some team && (match g.state with | .retired _ => false | _ => true)

end State

end Sys2Proof.Machine
end

