-- ==== Sys2Proof/Machine/Integer.lean ====
section
/-! DEFINITION. Integer, address, predicate and move instructions: opcodes 0x00 to 0x1E (R99 to R113). -/

namespace Sys2Proof.Machine

/-! ### What they compute -/

def clampInt (lo hi x : Int) : Int := if x < lo then lo else if hi < x then hi else x

/-- IADD and ISUB (R101). -/
def addSat (m : SatMode) (a b : Word) : Word :=
  match m with
  | .wrap => a + b
  | .satSgn => BitVec.ofInt 32 (clampInt (-2147483648) 2147483647 (a.toInt + b.toInt))
  | .satUns => BitVec.ofInt 32 (clampInt 0 4294967295 ((a.toNat : Int) + b.toNat))
def subSat (m : SatMode) (a b : Word) : Word :=
  match m with
  | .wrap => a - b
  | .satSgn => BitVec.ofInt 32 (clampInt (-2147483648) 2147483647 (a.toInt - b.toInt))
  | .satUns => BitVec.ofInt 32 (clampInt 0 4294967295 ((a.toNat : Int) - b.toNat))

/-- IMULHI (R101). -/
def mulHigh (sgn : Bool) (a b : Word) : Word :=
  if sgn then BitVec.ofInt 32 (a.toInt * b.toInt / 4294967296) else BitVec.ofNat 32 (a.toNat * b.toNat / 4294967296)

/-- IMIN and IMAX (R102). -/
def minOf (sgn : Bool) (a b : Word) : Word := if (if sgn then b.slt a else b.ult a) then b else a
def maxOf (sgn : Bool) (a b : Word) : Word := if (if sgn then a.slt b else a.ult b) then b else a

/-- IABS (R102). -/
def absOf (sat : Bool) (a : Word) : Word :=
  if sat && a == 0x80000000#32 then 0x7FFFFFFF#32 else if a.slt 0#32 then -a else a

/-- IADD64 and LEA (R103). -/
def extend (sx : Bool) (b : Word) : DWord := if sx then b.signExtend 64 else b.setWidth 64
def leaOf (sx : Bool) (sh : BitVec 3) (a : DWord) (b : Word) : DWord := a + (extend sx b <<< sh.toNat)

/-- Shifts (R105): the count is the whole register. -/
def shlOf (a n : Word) : Word := if 32 ≤ n.toNat then 0 else a <<< n.toNat
def shrOf (a n : Word) : Word := if 32 ≤ n.toNat then 0 else a >>> n.toNat
def sarOf (a n : Word) : Word := a.sshiftRight (min n.toNat 31)
def rotlOf (a n : Word) : Word := a.rotateLeft (n.toNat % 32)

/-- CLZ, POPC and BREV (R106). -/
def clzFrom (a : Word) : Nat → Nat
  | 0 => 0
  | i + 1 => if a.getLsbD i then 0 else 1 + clzFrom a i
def clzOf (a : Word) : Word := BitVec.ofNat 32 (clzFrom a 32)
def popFrom (a : Nat) : Nat → Nat
  | 0 => 0
  | i + 1 => b2n (bit i a) + popFrom a i
def popOf (a : Word) : Word := BitVec.ofNat 32 (popFrom a.toNat 32)
def brevOf (a : Word) : Word := a.reverse

/-- The effective length of a bit field (R107). -/
def fieldLen (ctl : Word) : Nat :=
  let pos := bits 7 0 ctl.toNat
  let len := bits 15 8 ctl.toNat
  if len = 0 ∨ 32 ≤ pos then 0 else min len (32 - pos)
def bfxOf (sx : Bool) (a ctl : Word) : Word :=
  let e := fieldLen ctl
  let f := a.toNat / 2 ^ bits 7 0 ctl.toNat % 2 ^ e
  if e = 0 then 0 else if sx then BitVec.ofInt 32 (sextNat e f) else BitVec.ofNat 32 f
def bfiOf (a b ctl : Word) : Word :=
  let e := fieldLen ctl
  let pos := bits 7 0 ctl.toNat
  let mask := BitVec.ofNat 32 ((2 ^ e - 1) * 2 ^ pos)
  if e = 0 then a else (a &&& ~~~mask) ||| (BitVec.ofNat 32 (b.toNat * 2 ^ pos) &&& mask)

/-- PRMT (R108): byte i of the result from code byte g. -/
def prmtByte (pool : DWord) (g : Nat) : Nat :=
  let p := pool.toNat / 2 ^ (8 * (g % 8)) % 256
  match g / 16 % 4 with
  | 0 => if bit 3 g then p % 16 * 16 + p / 16 else p
  | 1 => 0
  | 2 => 0xFF
  | _ => if bit 7 p then 0xFF else 0
def prmtOf (a b sel : Word) : Word :=
  let pool := pairOf a b
  BitVec.ofNat 32 (prmtByte pool (bits 7 0 sel.toNat) + 2 ^ 8 * prmtByte pool (bits 15 8 sel.toNat) +
    2 ^ 16 * prmtByte pool (bits 23 16 sel.toNat) + 2 ^ 24 * prmtByte pool (bits 31 24 sel.toNat))

/-! ### Meanings -/

/-- What a meaning answers. -/
abbrev Result := Host.Outcome State Fault Refusal

def execIadd (g : Guard) (t : Bool) (m : SatMode) (d a b : Reg) (s : State) : Result :=
  .next (s.aluOp g t d [a, b] fun x c => addSat m (readReg x c a) (readReg x c b))
def execIsub (g : Guard) (t : Bool) (m : SatMode) (d a b : Reg) (s : State) : Result :=
  .next (s.aluOp g t d [a, b] fun x c => subSat m (readReg x c a) (readReg x c b))
def execImul (g : Guard) (t : Bool) (d a b : Reg) (s : State) : Result :=
  .next (s.aluOp g t d [a, b] fun x c => readReg x c a * readReg x c b)
def execImulhi (g : Guard) (t sgn : Bool) (d a b : Reg) (s : State) : Result :=
  .next (s.aluOp g t d [a, b] fun x c => mulHigh sgn (readReg x c a) (readReg x c b))
def execImad (g : Guard) (t : Bool) (d a b c' : Reg) (s : State) : Result :=
  .next (s.aluOp g t d [a, b, c'] fun x c => readReg x c a * readReg x c b + readReg x c c')
def execImin (g : Guard) (t sgn : Bool) (d a b : Reg) (s : State) : Result :=
  .next (s.aluOp g t d [a, b] fun x c => minOf sgn (readReg x c a) (readReg x c b))
def execImax (g : Guard) (t sgn : Bool) (d a b : Reg) (s : State) : Result :=
  .next (s.aluOp g t d [a, b] fun x c => maxOf sgn (readReg x c a) (readReg x c b))
def execIabs (g : Guard) (t sat : Bool) (d a : Reg) (s : State) : Result :=
  .next (s.aluOp g t d [a] fun x c => absOf sat (readReg x c a))
def execIadd64 (g : Guard) (t : Bool) (m : Ext64) (d a b : Reg) (s : State) : Result :=
  .next (s.aluOp64 g t d (pairCodes a ++ if m = .pair then pairCodes b else [b]) fun x c =>
    readPair x c a + match m with
      | .pair => readPair x c b
      | .zx => extend false (readReg x c b)
      | .sx => extend true (readReg x c b))
def execLea (g : Guard) (t sx : Bool) (sh : BitVec 3) (d a b : Reg) (s : State) : Result :=
  .next (s.aluOp64 g t d (pairCodes a ++ [b]) fun x c => leaOf sx sh (readPair x c a) (readReg x c b))
def execAnd (g : Guard) (t : Bool) (d a b : Reg) (s : State) : Result :=
  .next (s.aluOp g t d [a, b] fun x c => readReg x c a &&& readReg x c b)
def execOr (g : Guard) (t : Bool) (d a b : Reg) (s : State) : Result :=
  .next (s.aluOp g t d [a, b] fun x c => readReg x c a ||| readReg x c b)
def execXor (g : Guard) (t : Bool) (d a b : Reg) (s : State) : Result :=
  .next (s.aluOp g t d [a, b] fun x c => readReg x c a ^^^ readReg x c b)
def execAndn (g : Guard) (t : Bool) (d a b : Reg) (s : State) : Result :=
  .next (s.aluOp g t d [a, b] fun x c => readReg x c a &&& ~~~readReg x c b)
def execShl (g : Guard) (t : Bool) (d a b : Reg) (s : State) : Result :=
  .next (s.aluOp g t d [a, b] fun x c => shlOf (readReg x c a) (readReg x c b))
def execShr (g : Guard) (t : Bool) (d a b : Reg) (s : State) : Result :=
  .next (s.aluOp g t d [a, b] fun x c => shrOf (readReg x c a) (readReg x c b))
def execSar (g : Guard) (t : Bool) (d a b : Reg) (s : State) : Result :=
  .next (s.aluOp g t d [a, b] fun x c => sarOf (readReg x c a) (readReg x c b))
def execRotl (g : Guard) (t : Bool) (d a b : Reg) (s : State) : Result :=
  .next (s.aluOp g t d [a, b] fun x c => rotlOf (readReg x c a) (readReg x c b))
def execClz (g : Guard) (t : Bool) (d a : Reg) (s : State) : Result :=
  .next (s.aluOp g t d [a] fun x c => clzOf (readReg x c a))
def execPopc (g : Guard) (t : Bool) (d a : Reg) (s : State) : Result :=
  .next (s.aluOp g t d [a] fun x c => popOf (readReg x c a))
def execBrev (g : Guard) (t : Bool) (d a : Reg) (s : State) : Result :=
  .next (s.aluOp g t d [a] fun x c => brevOf (readReg x c a))
def execBfx (g : Guard) (t sx : Bool) (d a b : Reg) (s : State) : Result :=
  .next (s.aluOp g t d [a, b] fun x c => bfxOf sx (readReg x c a) (readReg x c b))
def execBfi (g : Guard) (t : Bool) (d a b c' : Reg) (s : State) : Result :=
  .next (s.aluOp g t d [a, b, c'] fun x c => bfiOf (readReg x c a) (readReg x c b) (readReg x c c'))
def execPrmt (g : Guard) (t : Bool) (d a b c' : Reg) (s : State) : Result :=
  .next (s.aluOp g t d [a, b, c'] fun x c => prmtOf (readReg x c a) (readReg x c b) (readReg x c c'))
def execSel (g : Guard) (t neg : Bool) (p : PReg) (d a b : Reg) (s : State) : Result :=
  .next (s.aluOp g t d [a, b] fun x c => if predOf x.preds p != neg then readReg x c a else readReg x c b)
def execIset (g : Guard) (uns : Bool) (m : ICmp) (d a b : Reg) (s : State) : Result :=
  .next (s.predOp g d [a, b] fun x c => icmp m uns (readReg x c a) (readReg x c b))
def execPlop (g : Guard) (tt : BitVec 4) (d : Reg) (p q : PSrc) (s : State) : Result :=
  .next (s.predOp g d [] fun x _ => plopBit tt (srcOf x.preds p) (srcOf x.preds q))
def execMov (g : Guard) (t b64 : Bool) (d a : Reg) (s : State) : Result :=
  .next (if b64 then s.aluOp64 g t d (pairCodes a) fun x c => readPair x c a else s.aluOp g t d [a] fun x c => readReg x c a)
def execMovp (g : Guard) (t toPred : Bool) (r : Reg) (s : State) : Result :=
  .next (if toPred then s.laneOp g false [r] fun x c => ⟨[], (readReg x c r).setWidth 7⟩
    else s.aluOp g t r [] fun x _ => x.preds.setWidth 32)
def execMovi (g : Guard) (m : MoviMode) (d : Reg) (imm : Word) (s : State) : Result :=
  .next (match m with
    | .w32 => s.aluOp g false d [] fun _ _ => imm
    | .sx => s.aluOp64 g false d [] fun _ _ => extend true imm
    | .zx => s.aluOp64 g false d [] fun _ _ => extend false imm)
def execIaddImm (g : Guard) (d a : Reg) (imm : Word) (s : State) : Result :=
  .next (s.aluOp g false d [a] fun x c => addSat .wrap (readReg x c a) imm)
def execImulImm (g : Guard) (d a : Reg) (imm : Word) (s : State) : Result :=
  .next (s.aluOp g false d [a] fun x c => readReg x c a * imm)
def execAndImm (g : Guard) (d a : Reg) (imm : Word) (s : State) : Result :=
  .next (s.aluOp g false d [a] fun x c => readReg x c a &&& imm)
def execOrImm (g : Guard) (d a : Reg) (imm : Word) (s : State) : Result :=
  .next (s.aluOp g false d [a] fun x c => readReg x c a ||| imm)
def execXorImm (g : Guard) (d a : Reg) (imm : Word) (s : State) : Result :=
  .next (s.aluOp g false d [a] fun x c => readReg x c a ^^^ imm)
def execAndnImm (g : Guard) (d a : Reg) (imm : Word) (s : State) : Result :=
  .next (s.aluOp g false d [a] fun x c => readReg x c a &&& ~~~imm)
def execShlImm (g : Guard) (d a : Reg) (imm : Word) (s : State) : Result :=
  .next (s.aluOp g false d [a] fun x c => shlOf (readReg x c a) imm)
def execShrImm (g : Guard) (d a : Reg) (imm : Word) (s : State) : Result :=
  .next (s.aluOp g false d [a] fun x c => shrOf (readReg x c a) imm)
def execSarImm (g : Guard) (d a : Reg) (imm : Word) (s : State) : Result :=
  .next (s.aluOp g false d [a] fun x c => sarOf (readReg x c a) imm)
def execRotlImm (g : Guard) (d a : Reg) (imm : Word) (s : State) : Result :=
  .next (s.aluOp g false d [a] fun x c => rotlOf (readReg x c a) imm)
def execIminImm (g : Guard) (uns : Bool) (d a : Reg) (imm : Word) (s : State) : Result :=
  .next (s.aluOp g false d [a] fun x c => minOf (!uns) (readReg x c a) imm)
def execImaxImm (g : Guard) (uns : Bool) (d a : Reg) (imm : Word) (s : State) : Result :=
  .next (s.aluOp g false d [a] fun x c => maxOf (!uns) (readReg x c a) imm)
def execIadd64Imm (g : Guard) (d a : Reg) (imm : Word) (s : State) : Result :=
  .next (s.aluOp64 g false d (pairCodes a) fun x c => readPair x c a + extend true imm)

end Sys2Proof.Machine
end

