-- ==== Sys2Proof/Machine/Numbers.lean ====
section
/-! DEFINITION. Number formats (R16 to R25), rounding and conversion (R26 to R31), the counter-based generator (R32 to R34). Exact
values are rationals with the sign kept apart, so a zero keeps its sign. -/

namespace Sys2Proof.Machine

/-- A decoded value: NaN, an infinity, or the exact magnitude num / den (den positive) with a sign. -/
inductive FVal
  | nan
  | inf (neg : Bool)
  | fin (neg : Bool) (num den : Nat)
deriving DecidableEq, Repr

/-- A floating format of R18 or R22: precision p (mantissa width plus one), bias, width, largest finite magnitude code, positive
infinity, canonical NaN. -/
structure Fmt where
  p : Nat
  bias : Int
  width : Nat
  maxCode : Nat
  infCode : Option Nat
  nanCode : Nat
  unsigned : Bool
  negZero : Bool
  ieee : Bool
  e2m1 : Bool
  p3109 : Bool
deriving DecidableEq, Repr

def fp32 : Fmt := ⟨24, 127, 32, 0x7F7FFFFF, some 0x7F800000, 0x7FC00000, false, true, true, false, false⟩
def bf16 : Fmt := ⟨8, 127, 16, 0x7F7F, some 0x7F80, 0x7FC0, false, true, true, false, false⟩
def fp16 : Fmt := ⟨11, 15, 16, 0x7BFF, some 0x7C00, 0x7E00, false, true, true, false, false⟩
def e4m3 : Fmt := ⟨4, 7, 8, 0x7E, none, 0x7F, false, true, false, false, false⟩
def e5m2 : Fmt := ⟨3, 15, 8, 0x7B, some 0x7C, 0x7E, false, true, false, false, false⟩
def e2m1 : Fmt := ⟨2, 1, 4, 7, none, 0, false, true, false, true, false⟩

/-- P3109 code 0x40 + (P − 1) + 8·I + 16·U (Tables 2.1, 2.4 and R23). -/
def p3109Fmt (code : Nat) : Fmt :=
  let c := code - 0x40
  let p := c % 8 + 1
  let i := bit 3 c
  if bit 4 c then ⟨p, 2 ^ (8 - p), 8, if i then 0xFD else 0xFE, if i then some 0xFE else none, 0xFF, true, false, false, false, true⟩
  else ⟨p, 2 ^ (7 - p), 8, if i then 0x7E else 0x7F, if i then some 0x7F else none, 0x80, false, false, false, false, true⟩

/-- The floating format of a code of Table 2.1. -/
def fmtOf (code : Nat) : Option Fmt :=
  match code with
  | 0x00 => some fp32 | 0x01 => some bf16 | 0x02 => some fp16 | 0x08 => some e4m3 | 0x09 => some e5m2 | 0x0B => some e2m1
  | _ => if 0x40 ≤ code ∧ code ≤ 0x5E ∧ code % 8 ≠ 7 then some (p3109Fmt code) else none

/-- Is the code one of the 8-bit floating formats of the operand pairs (Table 3.1)? -/
def isFp8 (code : Nat) : Bool := code == 0x08 || code == 0x09 || (decide (0x40 ≤ code ∧ code ≤ 0x5E) && code % 8 != 7)

/-! ### Decoding -/

/-- 2^e times m as a rational. -/
def scaled (neg : Bool) (m : Nat) (e : Int) : FVal :=
  if 0 ≤ e then .fin neg (m * 2 ^ e.toNat) 1 else .fin neg m (2 ^ (-e).toNat)

/-- The value of a magnitude code (R18, R22). -/
def magValue (f : Fmt) (neg : Bool) (mc : Nat) : FVal :=
  let m := 2 ^ (f.p - 1)
  if mc / m = 0 then scaled neg mc (2 - f.bias - f.p) else scaled neg (m + mc % m) ((mc / m : Nat) - f.bias - (f.p - 1 : Nat))

/-- Decodes a code of a floating format (R18 to R23). -/
def decodeF (f : Fmt) (code : Nat) : FVal :=
  if f.unsigned then
    if code = f.nanCode then .nan else if f.infCode = some code then .inf false else magValue f false code
  else
    let neg := bit (f.width - 1) code
    let mc := code % 2 ^ (f.width - 1)
    if f.p3109 then
      if code = f.nanCode then .nan else if f.infCode = some mc then .inf neg else magValue f neg mc
    else if f.infCode = some mc then .inf neg
    else if f.maxCode < mc then .nan
    else magValue f neg mc

def dec32 (w : Word) : FVal := decodeF fp32 w.toNat

/-! ### Rounding (R26) -/

/-- floor(log2(n / d)) for positive n and d. -/
def floorLog2 (n d : Nat) : Int :=
  let k : Int := (n.log2 : Int) - d.log2
  if 0 ≤ k then (if d * 2 ^ k.toNat ≤ n then k else k - 1) else (if d ≤ n * 2 ^ (-k).toNat then k else k - 1)

/-- n / d in units of 2^q, as a fraction. -/
def inUnits (n d : Nat) (q : Int) : Nat × Nat := if 0 ≤ q then (n, d * 2 ^ q.toNat) else (n * 2 ^ (-q).toNat, d)

/-- Whether the kept quanta go up (R26): f = rem / den is the discarded fraction. -/
def roundsUp (rnd : Rnd) (neg : Bool) (out n rem den : Nat) : Bool :=
  match rnd with
  | .rne => decide (den < 2 * rem) || (decide (2 * rem = den) && n % 2 == 1)
  | .rtz => false
  | .rup => decide (0 < rem) && !neg
  | .rdn => decide (0 < rem) && neg
  | .sr => decide (out < rem * 2 ^ 32 / den)

/-- round_mag of R26 as a magnitude code: (quanta + (binades above the lowest) · 2^(p−1)), a carry included. -/
def roundCode (f : Fmt) (rnd : Rnd) (out : Nat) (neg : Bool) (n d : Nat) : Nat :=
  let emin : Int := 1 - f.bias
  let e := max (floorLog2 n d) emin
  let (a, b) := inUnits n d (e - (f.p - 1 : Nat))
  let k := a / b
  let k' := if roundsUp rnd neg out k (a % b) b then k + 1 else k
  k' + (e - emin).toNat * 2 ^ (f.p - 1)

def signBit (f : Fmt) (neg : Bool) : Nat := if neg && !f.unsigned then 2 ^ (f.width - 1) else 0
def signedZero (f : Fmt) (neg : Bool) : Nat := if f.negZero then signBit f neg else 0
def towardZero (rnd : Rnd) (neg : Bool) : Bool :=
  match rnd with | .rtz => true | .rdn => !neg | .rup => neg | _ => false

/-- convert of R27: the code of v in a floating format. -/
def convert (f : Fmt) (rnd : Rnd) (sat : Bool) (out : Nat) (v : FVal) : Nat :=
  match v with
  | .nan => f.nanCode
  | .inf neg =>
    if f.unsigned && neg then (if sat then 0 else f.nanCode)
    else
      match f.infCode with
      | some i => if sat then signBit f neg + f.maxCode else signBit f neg + i
      | none => if sat || f.e2m1 then signBit f neg + f.maxCode else f.nanCode
  | .fin neg n d =>
    if n = 0 then signedZero f neg
    else if f.unsigned && neg then (if sat then 0 else f.nanCode)
    else
      let c := roundCode f rnd out neg n d
      if c = 0 then signedZero f neg
      else if f.maxCode < c then
        if f.e2m1 || sat then signBit f neg + f.maxCode
        else if f.ieee && towardZero rnd neg then signBit f neg + f.maxCode
        else match f.infCode with
          | some i => signBit f neg + i
          | none => f.nanCode
      else signBit f neg + c

def to32 (rnd : Rnd) (v : FVal) : Word := BitVec.ofNat 32 (convert fp32 rnd false 0 v)

/-- Rounds to an integer with quantum 1 (R30, R135). -/
def roundInt (rnd : Rnd) (out : Nat) (neg : Bool) (n d : Nat) : Int :=
  let k := n / d
  let k' := if roundsUp rnd neg out k (n % d) d then k + 1 else k
  if neg then -(k' : Int) else k'

/-- Conversion to an integer format with its range (R30). -/
def convertInt (lo hi : Int) (rnd : Rnd) (out : Nat) (v : FVal) : Int :=
  match v with
  | .nan => 0
  | .inf neg => if neg then lo else hi
  | .fin neg n d =>
    let x := roundInt rnd out neg n d
    if x < lo then lo else if hi < x then hi else x

/-- The exact value of an integer; zero is +0. -/
def ofInteger (x : Int) : FVal := .fin (decide (x < 0)) x.natAbs 1

/-! ### Exact arithmetic with the special cases of R131 -/

def FVal.neg : FVal → FVal
  | .nan => .nan
  | .inf s => .inf !s
  | .fin s n d => .fin (!s) n d

/-- The sum; `rdn` says whether an exact zero sum of opposite operands is −0 (R131). -/
def FVal.add (rdn : Bool) : FVal → FVal → FVal
  | .nan, _ => .nan
  | _, .nan => .nan
  | .inf s, .inf t => if s = t then .inf s else .nan
  | .inf s, .fin .. => .inf s
  | .fin .., .inf t => .inf t
  | .fin s n d, .fin t m e =>
    let a : Int := (if s then -1 else 1) * (n * e : Nat)
    let b : Int := (if t then -1 else 1) * (m * d : Nat)
    if a + b = 0 then (if n = 0 ∧ m = 0 ∧ s = t then .fin s 0 1 else .fin rdn 0 1)
    else .fin (decide (a + b < 0)) (a + b).natAbs (d * e)

def FVal.mul : FVal → FVal → FVal
  | .nan, _ => .nan
  | _, .nan => .nan
  | .inf s, .inf t => .inf (s != t)
  | .inf s, .fin t n _ => if n = 0 then .nan else .inf (s != t)
  | .fin s n _, .inf t => if n = 0 then .nan else .inf (s != t)
  | .fin s n d, .fin t m e => .fin (s != t) (n * m) (d * e)

/-- a · b + c with the product exact (R131). -/
def FVal.fma (rdn : Bool) (a b c : FVal) : FVal := FVal.add rdn (FVal.mul a b) c

def FVal.isNan : FVal → Bool | .nan => true | _ => false
def FVal.isNeg : FVal → Bool | .nan => false | .inf s => s | .fin s _ _ => s

/-- Order of ordered operands; the two zeros are equal. -/
def FVal.lt : FVal → FVal → Bool
  | .nan, _ => false
  | _, .nan => false
  | .inf s, .inf t => s && !t
  | .inf s, .fin .. => s
  | .fin .., .inf t => !t
  | .fin s n d, .fin t m e =>
    decide ((if s then -1 else 1) * ((n * e : Nat) : Int) < (if t then -1 else 1) * ((m * d : Nat) : Int))

def FVal.eqv (a b : FVal) : Bool := !a.isNan && !b.isNan && !FVal.lt a b && !FVal.lt b a

/-! ### The generator (R32) -/

def srRound (x y : Word) : Word × Word :=
  let x := x * 0x9E6C63D1#32
  let x := x ^^^ (x >>> 13)
  let y := y + x
  let y := y * 0xB5A3F0A7#32
  let y := y ^^^ (y >>> 16)
  (x + y, y)

/-- The generator as R32 states it (DEDUCED, log entry 14). -/
def srgen (ka kb chi clo : Word) : Word :=
  let (x1, y1) := srRound (clo ^^^ ka) (chi ^^^ kb)
  let (x2, y2) := srRound x1 y1
  let (x3, y3) := srRound x2 y2
  let (x4, y4) := srRound x3 y3
  x4 ^^^ y4

/-- RNGF (R34): (out >> 8) · 2^−24, exact. -/
def rngFloat (out : Word) : Word := to32 .rne (.fin false (out.toNat / 256) (2 ^ 24))

/-! ### MXFP4 blocks (R31) -/

/-- The larger of two magnitudes n / d. -/
def maxMag (a b : Nat × Nat) : Nat × Nat := if a.1 * b.2 < b.1 * a.2 then b else a

def magOf : FVal → Nat × Nat
  | .fin _ n d => (n, d)
  | _ => (0, 1)

/-- The scale byte and the 32 element codes of a block. -/
def toMxfp4 (x : List FVal) (rnd : Rnd) (out : List Nat) : Nat × List Nat :=
  if x.any fun v => match v with | .fin .. => false | _ => true then (0xFF, x.map fun _ => 0)
  else
    let amax := x.foldl (fun m v => maxMag m (magOf v)) (0, 1)
    let se : Int := max (if amax.1 = 0 then 0 else floorLog2 amax.1 amax.2 - 2) (-127)
    let sc (v : FVal) : FVal :=
      match v with
      | .fin s n d => if 0 ≤ se then .fin s n (d * 2 ^ se.toNat) else .fin s (n * 2 ^ (-se).toNat) d
      | v => v
    ((se + 127).toNat, (x.zip out).map fun (v, o) => convert e2m1 rnd true o (sc v))

end Sys2Proof.Machine
end

