-- ==== Sys2Proof/Machine/Transcend.lean ====
section
/-! DEFINITION. Roots and transcendental functions (R137 to R139). Each is computed as a rational that agrees with the exact value to
far more bits than a correct rounding to FP32 needs, and convert of R27 rounds it once (DEDUCED, notes/assumptions/9.md). -/

namespace Sys2Proof.Machine

/-- Bits of the fixed-point work. -/
def workBits : Nat := 640

/-! ### Square roots: exact classification -/

/-- An approximation of sqrt(n / d) strictly on the right side of every FP32 boundary: the integer root with a sticky bit. -/
def sqrtVal (n d : Nat) : FVal :=
  let x := n * 4 ^ 400 / d
  let r := Nat.sqrt x
  .fin false (2 * r + (if r * r * d = n * 4 ^ 400 then 0 else 1)) (2 * 2 ^ 400)

/-! ### Constants -/

/-- atan(1/k) or atanh(1/k) in units of 2^−bits by their series: `i` terms from index `j`. -/
def atanSeries (alt : Bool) (k : Nat) : (terms j : Nat) → (power : Nat) → Int
  | 0, _, _ => 0
  | i + 1, j, p =>
    (if alt && j % 2 == 1 then -1 else 1) * ((p / (2 * j + 1) : Nat) : Int) + atanSeries alt k i (j + 1) (p / (k * k))

/-- pi in units of 2^−640 (Machin). -/
def piFix : Nat :=
  (16 * atanSeries true 5 145 0 (2 ^ workBits / 5) - 4 * atanSeries true 239 45 0 (2 ^ workBits / 239)).toNat

/-- ln 2 in units of 2^−640. -/
def ln2Fix : Nat := (2 * atanSeries false 3 205 0 (2 ^ workBits / 3)).toNat

/-! ### Series on a fixed-point argument -/

/-- Sum of x^k / k! for k from j: `t` is the current term. -/
def expSeries (x : Nat) : (terms j t : Nat) → Nat
  | 0, _, _ => 0
  | i + 1, j, t => t + expSeries x i (j + 1) (t * x / 2 ^ workBits / (j + 1))

/-- Alternating sum of every second term of the exponential series: cosine from term 1, sine from term x. -/
def trigSeries (x2 : Nat) : (terms j t : Nat) → Int
  | 0, _, _ => 0
  | i + 1, j, t => (t : Int) - trigSeries x2 i (j + 2) (t * x2 / 2 ^ workBits / ((j + 1) * (j + 2)))

/-- 2^(n/d) for a positive or negative argument that is no integer. -/
def exp2Val (neg : Bool) (n d : Nat) : FVal :=
  let a : Int := if neg then -(n : Int) else n
  let k : Int := a / d
  let f : Nat := (a % d).toNat
  let x := f * ln2Fix / d
  let v := expSeries x 160 0 (2 ^ workBits)
  if 0 ≤ k then .fin false (v * 2 ^ k.toNat) (2 ^ workBits) else .fin false v (2 ^ (workBits + (-k).toNat))

/-- ln of m = n / d in [1, 2), in units of 2^−640: 2 atanh((m − 1) / (m + 1)). -/
def lnSeries (t2num t2den : Nat) : (terms j t : Nat) → Nat
  | 0, _, _ => 0
  | i + 1, j, t => t / (2 * j + 1) + lnSeries t2num t2den i (j + 1) (t * t2num / t2den)

/-- log2(n / d). -/
def log2Val (n d : Nat) : FVal :=
  let e := floorLog2 n d
  let (a, b) := if 0 ≤ e then (n, d * 2 ^ e.toNat) else (n * 2 ^ (-e).toNat, d)
  let num := a - b
  let den := a + b
  let ln := 2 * lnSeries (num * num) (den * den) 205 0 (num * 2 ^ workBits / den)
  let v : Int := e * (2 ^ workBits : Nat) + ((ln * 2 ^ workBits / ln2Fix : Nat) : Int)
  .fin (decide (v < 0)) v.natAbs (2 ^ workBits)

/-- Quadrant and remainder of n / d modulo pi/2, in units of 2^−640. -/
def reduceArg (n d : Nat) : Nat × Nat :=
  let x := n * 2 ^ workBits * 2 / d
  (x / piFix, x % piFix / 2)

/-- Sine and cosine of a remainder in [0, pi/2), in units of 2^−640. -/
def sinFix (r : Nat) : Int := trigSeries (r * r / 2 ^ workBits) 80 1 r
def cosFix (r : Nat) : Int := trigSeries (r * r / 2 ^ workBits) 80 0 (2 ^ workBits)

def fixVal (v : Int) : FVal := .fin (decide (v < 0)) v.natAbs (2 ^ workBits)

def sinVal (neg : Bool) (n d : Nat) : FVal :=
  let (q, r) := reduceArg n d
  let v := match q % 4 with | 0 => sinFix r | 1 => cosFix r | 2 => -sinFix r | _ => -cosFix r
  fixVal (if neg then -v else v)

def cosVal (n d : Nat) : FVal :=
  let (q, r) := reduceArg n d
  fixVal (match q % 4 with | 0 => cosFix r | 1 => -sinFix r | 2 => -cosFix r | _ => sinFix r)

/-! ### The `.ax` bounds (Table 7.5) -/

/-- Is |w − y| at most `k` ulp of the exact y (or of an absolute bound 2^−ab when given)? -/
def within (k : Nat) (ab : Option Nat) (y : FVal) (w : Word) : Bool :=
  match y, dec32 w with
  | .fin s n d, .fin t m e =>
    let diff : Nat := ((if s then -1 else 1) * ((n * e : Nat) : Int) - (if t then -1 else 1) * ((m * d : Nat) : Int)).natAbs
    match ab with
    | some b => decide (diff * 2 ^ b ≤ d * e)
    | none =>
      let u : Int := max (if n = 0 then -126 else floorLog2 n d) (-126) - 23
      let (a, b) := inUnits diff (d * e) u
      decide (a ≤ k * b)
  | _, _ => false

/-- The part's `.ax` bits: a fixed function of the inputs within the bound (R139); the free value counts when it lies inside. -/
def axWord (form : Nat) (a b : Word) (k : Nat) (ab : Option Nat) (y : FVal) : Word :=
  let w := Config.ax form a b
  if within k ab y w then w else to32 .rne y

end Sys2Proof.Machine
end

