-- ==== Sys2Proof/Machine/Float.lean ====
section
/-! DEFINITION. Floating point, conversion and random numbers: opcodes 0x20 to 0x3C (R127 to R149). -/

namespace Sys2Proof.Machine

/-! ### What they compute -/

def isRdn (r : Rnd) : Bool := r == .rdn

def faddOf (r : Rnd) (a b : Word) : Word := to32 r (FVal.add (isRdn r) (dec32 a) (dec32 b))
def fsubOf (r : Rnd) (a b : Word) : Word := to32 r (FVal.add (isRdn r) (dec32 a) (dec32 b).neg)
def fmulOf (r : Rnd) (a b : Word) : Word := to32 r (FVal.mul (dec32 a) (dec32 b))
def ffmaOf (r : Rnd) (a b c : Word) : Word := to32 r (FVal.fma (isRdn r) (dec32 a) (dec32 b) (dec32 c))

/-- R132 on any format: NaN yields to the other operand, −0 is below +0, the result is an operand's pattern. -/
def minMaxCode (f : Fmt) (isMin : Bool) (a b : Nat) : Nat :=
  let x := decodeF f a
  let y := decodeF f b
  if x.isNan && y.isNan then f.nanCode
  else if x.isNan then b
  else if y.isNan then a
  else
    let below := FVal.lt x y || (FVal.eqv x y && x.isNeg && !y.isNeg)
    if below == isMin then a else b
def fminOf (a b : Word) : Word := BitVec.ofNat 32 (minMaxCode fp32 true a.toNat b.toNat)
def fmaxOf (a b : Word) : Word := BitVec.ofNat 32 (minMaxCode fp32 false a.toNat b.toNat)

/-- Table 7.2. -/
def fcmp (m : FCmp) (a b : FVal) : Bool :=
  let uo := a.isNan || b.isNan
  match m with
  | .eq => FVal.eqv a b
  | .ne => !FVal.eqv a b
  | .lt => FVal.lt a b
  | .le => FVal.lt a b || FVal.eqv a b
  | .gt => FVal.lt b a
  | .ge => FVal.lt b a || FVal.eqv a b
  | .uo => uo
  | .ord => !uo

/-- Table 7.3. -/
def fclassOf (a : Word) : Word :=
  let sub := decide (bits 30 23 a.toNat = 0)
  match dec32 a with
  | .nan => 0x100
  | .inf neg => if neg then 0x001 else 0x080
  | .fin neg n _ =>
    if n = 0 then (if neg then 0x008 else 0x010)
    else if sub then (if neg then 0x004 else 0x020)
    else if neg then 0x002 else 0x040

/-- FSCALE (R135). A count beyond the reach of the format gives what the nearest count in reach gives. -/
def fscaleOf (r : Rnd) (a b : Word) : Word :=
  match dec32 a with
  | .nan => 0x7FC00000
  | .inf _ => a
  | .fin neg n d =>
    if n = 0 then a
    else
      let k : Int := max (min b.toInt 1000) (-1000)
      to32 r (if 0 ≤ k then .fin neg (n * 2 ^ k.toNat) d else .fin neg n (d * 2 ^ (-k).toNat))

/-- FRND (R135). -/
def frndOf (r : Rnd) (a : Word) : Word :=
  match dec32 a with
  | .nan => 0x7FC00000
  | .inf _ => a
  | .fin neg n d =>
    if n = 0 ∨ 2 ^ 23 * d ≤ n then a else to32 .rne (.fin neg (roundInt r 0 neg n d).natAbs 1)

/-- The packed 16-bit operations (R136), element by element. -/
def halves (f : Nat → Nat) : Word := BitVec.ofNat 32 (f 0 + 2 ^ 16 * f 1)
def halfOf (w : Word) (e : Nat) : Nat := w.toNat / 2 ^ (16 * e) % 2 ^ 16
def hFmt (bf : Bool) : Fmt := if bf then bf16 else fp16
def hadd2Of (bf : Bool) (r : Rnd) (a b : Word) : Word :=
  let f := hFmt bf
  halves fun e => convert f r false 0 (FVal.add (isRdn r) (decodeF f (halfOf a e)) (decodeF f (halfOf b e)))
def hmul2Of (bf : Bool) (r : Rnd) (a b : Word) : Word :=
  let f := hFmt bf
  halves fun e => convert f r false 0 (FVal.mul (decodeF f (halfOf a e)) (decodeF f (halfOf b e)))
def hfma2Of (bf : Bool) (r : Rnd) (a b c : Word) : Word :=
  let f := hFmt bf
  halves fun e => convert f r false 0 (FVal.fma (isRdn r) (decodeF f (halfOf a e)) (decodeF f (halfOf b e)) (decodeF f (halfOf c e)))

/-- FRCP (R137 to R139). -/
def frcpOf (ax : Bool) (a : Word) : Word :=
  match dec32 a with
  | .nan => 0x7FC00000
  | .inf neg => to32 .rne (.fin neg 0 1)
  | .fin neg n d =>
    if n = 0 then to32 .rne (.inf neg)
    else if ax then axWord 0 a 0 1 none (.fin neg d n) else to32 .rne (.fin neg d n)

def frsqOf (ax : Bool) (a : Word) : Word :=
  match dec32 a with
  | .nan => 0x7FC00000
  | .inf neg => if neg then 0x7FC00000 else 0
  | .fin neg n d =>
    if n = 0 then to32 .rne (.inf neg)
    else if neg then 0x7FC00000
    else if ax then axWord 1 a 0 1 none (sqrtVal d n) else to32 .rne (sqrtVal d n)

def fsqrtOf (ax : Bool) (r : Rnd) (a : Word) : Word :=
  match dec32 a with
  | .nan => 0x7FC00000
  | .inf neg => if neg then 0x7FC00000 else a
  | .fin neg n d =>
    if n = 0 then a
    else if neg then 0x7FC00000
    else if ax then axWord 2 a 0 1 none (sqrtVal n d) else to32 r (sqrtVal n d)

/-- FDIV (R138, R139). Table 7.4 has no row for an infinity by a finite b, zero included, nor for `.ax` of a zero by a finite nonzero b: the
infinity, or the zero, of the product of the signs is returned (DESIGN CHOICE, log entry 83). -/
def fdivOf (ax : Bool) (r : Rnd) (a b : Word) : Word :=
  match dec32 a, dec32 b with
  | .nan, _ => 0x7FC00000
  | _, .nan => 0x7FC00000
  | .inf _, .inf _ => 0x7FC00000
  | .inf s, .fin t _ _ => to32 r (.inf (s != t))
  | .fin s _ _, .inf t => to32 r (.fin (s != t) 0 1)
  | .fin s n d, .fin t m e =>
    if m = 0 then (if n = 0 then 0x7FC00000 else to32 r (.inf (s != t)))
    else if n = 0 then to32 r (.fin (s != t) 0 1)
    else
      let y : FVal := .fin (s != t) (n * e) (d * m)
      if ax then
        if 2 ^ 125 * e < m then to32 .rne y
        else if n * e * 2 ^ 126 < d * m then axWord 3 a b 0 (some 147) y
        else axWord 3 a b 2 none y
      else to32 r y

/-- FEXP2: an integer argument is exact in both forms; far arguments overflow and underflow under RNE, through the subnormals to +0
(R138): no result has its sign set. -/
def fexp2Of (ax : Bool) (a : Word) : Word :=
  match dec32 a with
  | .nan => 0x7FC00000
  | .inf neg => if neg then 0 else a
  | .fin neg n d =>
    if n = 0 then 0x3F800000
    else if 200 * d ≤ n then (if neg then 0 else 0x7F800000)
    else if n % d = 0 then to32 .rne (scaled false 1 (if neg then -((n / d : Nat) : Int) else (n / d : Nat)))
    else if !neg && decide (128 * d ≤ n) then 0x7F800000
    else if neg && decide (150 * d ≤ n) then 0
    else if ax then
      let w := axWord 4 a 0 2 none (exp2Val neg n d)
      if w.msb then to32 .rne (exp2Val neg n d) else w
    else to32 .rne (exp2Val neg n d)

/-- FLOG2: an exact power of two is exact in both forms. -/
def flog2Of (ax : Bool) (a : Word) : Word :=
  match dec32 a with
  | .nan => 0x7FC00000
  | .inf neg => if neg then 0x7FC00000 else a
  | .fin neg n d =>
    if n = 0 then 0xFF800000
    else if neg then 0x7FC00000
    else
      let e := floorLog2 n d
      if (if 0 ≤ e then n = d * 2 ^ e.toNat else n * 2 ^ (-e).toNat = d) then to32 .rne (ofInteger e)
      else if ax then
        axWord 5 a 0 2 (if d ≤ 2 * n ∧ n ≤ 2 * d then some 21 else none) (log2Val n d)
      else to32 .rne (log2Val n d)

/-- FSIN and FCOS; beyond 100 pi the `.ax` result is only known to lie in [−1, 1]. -/
def trigAx (form : Nat) (a : Word) (n d : Nat) (y : FVal) : Word :=
  if n * 2 ^ workBits ≤ 100 * piFix * d then axWord form a 0 0 (some 21) y
  else
    let w := Config.ax form a 0
    match dec32 w with
    | .fin _ m e => if m ≤ e then w else to32 .rne y
    | _ => to32 .rne y
def fsinOf (ax : Bool) (a : Word) : Word :=
  match dec32 a with
  | .nan => 0x7FC00000
  | .inf _ => 0x7FC00000
  | .fin neg n d =>
    if n = 0 then a else if ax then trigAx 6 a n d (sinVal neg n d) else to32 .rne (sinVal neg n d)
def fcosOf (ax : Bool) (a : Word) : Word :=
  match dec32 a with
  | .nan => 0x7FC00000
  | .inf _ => 0x7FC00000
  | .fin _ n d =>
    if n = 0 then 0x3F800000 else if ax then trigAx 7 a n d (cosVal n d) else to32 .rne (cosVal n d)

/-- F2I (R141). -/
def f2iOf (f : IntDst) (r : Rnd) (a : Word) : Word :=
  match f with
  | .int32 => BitVec.ofInt 32 (convertInt (-2147483648) 2147483647 r 0 (dec32 a))
  | .int8 => BitVec.ofInt 32 (convertInt (-128) 127 r 0 (dec32 a))
  | .uint8 => BitVec.ofInt 32 (convertInt 0 255 r 0 (dec32 a))
/-- I2F (R142). -/
def i2fOf (uns : Bool) (r : Rnd) (a : Word) : Word := to32 r (ofInteger (if uns then (a.toNat : Int) else a.toInt))

def cvtFmt : CvtFmt → Fmt | .f32 => fp32 | .bf16 => bf16 | .f16 => fp16
/-- FCVT (R143): a 16-bit source is read from bits [15:0]. -/
def fcvtOf (sat : Bool) (src dst : CvtFmt) (r : Rnd) (out : Word) (a : Word) : Word :=
  let v := match src with | .f32 => dec32 a | _ => decodeF (cvtFmt src) (a.toNat % 2 ^ 16)
  BitVec.ofNat 32 (convert (cvtFmt dst) r sat out.toNat v)

/-- One element to an 8-bit code (R144). -/
def quantise (code : Nat) (r : Rnd) (sat : Bool) (out : Nat) (v : FVal) : Nat :=
  match code with
  | 0x04 => (convertInt (-128) 127 r out v % 256).toNat
  | 0x05 => (convertInt 0 255 r out v).toNat
  | _ => match fmtOf code with
    | some f => convert f r sat out v
    | none => 0
/-- An 8-bit element widened (R145). -/
def widen8 (code b : Nat) : FVal :=
  match code with
  | 0x04 => ofInteger (sextNat 8 b)
  | 0x05 => ofInteger b
  | _ => match fmtOf code with
    | some f => decodeF f b
    | none => .nan

def packBytes (l : List Nat) : Word := BitVec.ofNat 32 (l.foldr (fun b n => b % 256 + 256 * n) 0)

def qcvtOf (code : Nat) (sr sat : Bool) (x : List Word) (out : List Word) : Word :=
  packBytes ((x.zip out).map fun (v, o) => quantise code (if sr then .sr else .rne) sat o.toNat (dec32 v))
def dqcvtOf (code : Nat) (a : Word) (e : Nat) : Word := to32 .rne (widen8 code (a.toNat / 2 ^ (8 * e) % 256))

/-- MXQ's result for a lane (Table 7.6). -/
def mxqLane (scale : Nat) (elems : List Nat) (lane : Nat) : Word :=
  if lane < 4 then BitVec.ofNat 32 (((elems.drop (8 * lane)).take 8).foldr (fun e n => e % 16 + 16 * n) 0) else BitVec.ofNat 32 scale

/-! ### Meanings -/

/-- Determinism level of the queue a team runs for (R336). -/
def State.detLevel (s : State) (t : Team) : Nat := bits 10 9 (s.queue t.queue).ctl.toNat

/-- An `.ax` form: at PORTABLE every guard-true thread takes 0x0A instead (R140); one that lacks an operand's granule takes 0x0E, which
comes first (DESIGN CHOICE, log entry 97). -/
def State.axOp (s : State) (g : Guard) (t ax : Bool) (d : Reg) (codes : List Reg) (f : Thread → Crew → Word) : State :=
  let trapped := ax && (match s.issue.bind fun sl => s.team? sl.team with | some tm => decide (s.detLevel tm = 3) | none => false)
  if trapped then
    s.withLanes g (d :: codes) fun s sl _ ls => ls.foldl (fun s x => s.deliver sl.team x.tid sl.clause sl.idx (plainFault 0x0A)) s
  else s.aluOp g t d codes f

def execFadd (g : Guard) (t : Bool) (r : Rnd) (d a b : Reg) (s : State) : Result :=
  .next (s.aluOp g t d [a, b] fun x c => faddOf r (readReg x c a) (readReg x c b))
def execFsub (g : Guard) (t : Bool) (r : Rnd) (d a b : Reg) (s : State) : Result :=
  .next (s.aluOp g t d [a, b] fun x c => fsubOf r (readReg x c a) (readReg x c b))
def execFmul (g : Guard) (t : Bool) (r : Rnd) (d a b : Reg) (s : State) : Result :=
  .next (s.aluOp g t d [a, b] fun x c => fmulOf r (readReg x c a) (readReg x c b))
def execFfma (g : Guard) (t : Bool) (r : Rnd) (d a b c' : Reg) (s : State) : Result :=
  .next (s.aluOp g t d [a, b, c'] fun x c => ffmaOf r (readReg x c a) (readReg x c b) (readReg x c c'))
def execFmin (g : Guard) (t : Bool) (d a b : Reg) (s : State) : Result :=
  .next (s.aluOp g t d [a, b] fun x c => fminOf (readReg x c a) (readReg x c b))
def execFmax (g : Guard) (t : Bool) (d a b : Reg) (s : State) : Result :=
  .next (s.aluOp g t d [a, b] fun x c => fmaxOf (readReg x c a) (readReg x c b))
def execFset (g : Guard) (m : FCmp) (d a b : Reg) (s : State) : Result :=
  .next (s.predOp g d [a, b] fun x c => fcmp m (dec32 (readReg x c a)) (dec32 (readReg x c b)))
def execFclass (g : Guard) (t : Bool) (d a : Reg) (s : State) : Result :=
  .next (s.aluOp g t d [a] fun x c => fclassOf (readReg x c a))
def execFscale (g : Guard) (t : Bool) (r : Rnd) (d a b : Reg) (s : State) : Result :=
  .next (s.aluOp g t d [a, b] fun x c => fscaleOf r (readReg x c a) (readReg x c b))
def execFrnd (g : Guard) (t : Bool) (r : Rnd) (d a : Reg) (s : State) : Result :=
  .next (s.aluOp g t d [a] fun x c => frndOf r (readReg x c a))
def execHadd2 (g : Guard) (t bf : Bool) (r : Rnd) (d a b : Reg) (s : State) : Result :=
  .next (s.aluOp g t d [a, b] fun x c => hadd2Of bf r (readReg x c a) (readReg x c b))
def execHmul2 (g : Guard) (t bf : Bool) (r : Rnd) (d a b : Reg) (s : State) : Result :=
  .next (s.aluOp g t d [a, b] fun x c => hmul2Of bf r (readReg x c a) (readReg x c b))
def execHfma2 (g : Guard) (t bf : Bool) (r : Rnd) (d a b c' : Reg) (s : State) : Result :=
  .next (s.aluOp g t d [a, b, c'] fun x c => hfma2Of bf r (readReg x c a) (readReg x c b) (readReg x c c'))
def execFrcp (g : Guard) (t ax : Bool) (d a : Reg) (s : State) : Result :=
  .next (s.axOp g t ax d [a] fun x c => frcpOf ax (readReg x c a))
def execFrsq (g : Guard) (t ax : Bool) (d a : Reg) (s : State) : Result :=
  .next (s.axOp g t ax d [a] fun x c => frsqOf ax (readReg x c a))
def execFsqrt (g : Guard) (t ax : Bool) (r : Rnd) (d a : Reg) (s : State) : Result :=
  .next (s.axOp g t ax d [a] fun x c => fsqrtOf ax r (readReg x c a))
def execFdiv (g : Guard) (t ax : Bool) (r : Rnd) (d a b : Reg) (s : State) : Result :=
  .next (s.axOp g t ax d [a, b] fun x c => fdivOf ax r (readReg x c a) (readReg x c b))
def execFexp2 (g : Guard) (t ax : Bool) (d a : Reg) (s : State) : Result :=
  .next (s.axOp g t ax d [a] fun x c => fexp2Of ax (readReg x c a))
def execFlog2 (g : Guard) (t ax : Bool) (d a : Reg) (s : State) : Result :=
  .next (s.axOp g t ax d [a] fun x c => flog2Of ax (readReg x c a))
def execFsin (g : Guard) (t ax : Bool) (d a : Reg) (s : State) : Result :=
  .next (s.axOp g t ax d [a] fun x c => fsinOf ax (readReg x c a))
def execFcos (g : Guard) (t ax : Bool) (d a : Reg) (s : State) : Result :=
  .next (s.axOp g t ax d [a] fun x c => fcosOf ax (readReg x c a))
def execF2i (g : Guard) (t : Bool) (f : IntDst) (r : Rnd) (d a : Reg) (s : State) : Result :=
  .next (s.aluOp g t d [a] fun x c => f2iOf f r (readReg x c a))
def execI2f (g : Guard) (t uns : Bool) (r : Rnd) (d a : Reg) (s : State) : Result :=
  .next (s.aluOp g t d [a] fun x c => i2fOf uns r (readReg x c a))
def execFcvt (g : Guard) (t sat : Bool) (src dst : CvtFmt) (r : Rnd) (d a c' : Reg) (s : State) : Result :=
  .next (s.aluOp g t d (if r = .sr then [a, c'] else [a]) fun x c =>
    fcvtOf sat src dst r (if r = .sr then readReg x c c' else 0) (readReg x c a))
def execQcvt (g : Guard) (t sat sr : Bool) (code : BitVec 8) (d a b c' : Reg) (s : State) : Result :=
  .next (s.aluOp g t d (pairCodes a ++ pairCodes b ++ if sr then quadCodes c' else []) fun x c =>
    let pa := readPair x c a
    let pb := readPair x c b
    qcvtOf code.toNat sr sat [loWord pa, hiWord pa, loWord pb, hiWord pb]
      (if sr then (quadCodes c').map (readReg x c) else [0, 0, 0, 0]))
def execDqcvt (g : Guard) (t : Bool) (code : BitVec 8) (d a : Reg) (s : State) : Result :=
  .next (s.laneOp g t (quadCodes d ++ [a]) fun x c =>
    ⟨(List.range 4).map fun e => (d + BitVec.ofNat 8 e, dqcvtOf code.toNat (readReg x c a) e), x.preds⟩)

/-- MXQ (R146, R147): one block of the crew, an absent lane or one that faults supplies +0. -/
def execMxq (g : Guard) (t sr : Bool) (d a b : Reg) (s : State) : Result :=
  .next (
    let codes := if sr then [a, b] else [a]
    let block : Nat × List Nat :=
      match s.issue with
      | none => (0, [])
      | some sl =>
        match s.team? sl.team with
        | none => (0, [])
        | some tm =>
          let ls := tm.able sl g (d :: codes)
          let at' (i : Nat) : Option Thread := ls.find? fun x => x.lane == i
          toMxfp4 ((List.range 32).map fun i => match at' i with | some x => dec32 (readReg x (tm.crewOf x) a) | none => .fin false 0 1)
            (if sr then .sr else .rne)
            ((List.range 32).map fun i => match at' i with | some x => if sr then (readReg x (tm.crewOf x) b).toNat else 0 | none => 0)
    s.aluOp g t d codes fun x _ => mxqLane block.1 block.2 x.lane)

def rngOut (a b : DWord) : Word := srgen (loWord a) (hiWord a) (hiWord b) (loWord b)
def execRng (g : Guard) (t : Bool) (d a b : Reg) (s : State) : Result :=
  .next (s.aluOp g t d (pairCodes a ++ pairCodes b) fun x c => rngOut (readPair x c a) (readPair x c b))
def execRngf (g : Guard) (t : Bool) (d a b : Reg) (s : State) : Result :=
  .next (s.aluOp g t d (pairCodes a ++ pairCodes b) fun x c => rngFloat (rngOut (readPair x c a) (readPair x c b)))

end Sys2Proof.Machine
end

