-- ==== Sys2Proof/Machine/Memory.lean ====
section
/-! DEFINITION. The memory system: accesses in flight, their order (R154, R155, R163, R268 to R275), late checks (R152), and the
opcodes 0x40 to 0x4C (R150 to R165) with the steps that complete them. -/

namespace Sys2Proof.Machine

/-- Does a page support an atomic (R160)? The host aperture does while AtomicOp Requester Enable is set (R392). (DESIGN CHOICE, log entry 64) -/
def atomSupported (requester : Bool) (r : Region) (op : AtomOp) : Bool :=
  match r with
  | .host => requester && (op == .add || op == .exch || op == .cas)
  | .peer .. => op != .fadd
  | _ => true

/-- Do two ranges share an 8-byte unit? -/
def unitsMeet (a n b m : Nat) : Bool := decide (a / 8 ≤ (b + m - 1) / 8) && decide (b / 8 ≤ (a + n - 1) / 8)

namespace State

/-! ### Late checks -/

/-- The physical stretches of an access whose pages are translated; none while a walk is outstanding (R152, step 4). -/
def accPhys (s : State) (a : Access) : Option (Except Byte (List (Nat × Nat))) :=
  match a.bad with
  | some c => some (.error c)
  | none =>
    match a.space with
    | .window _ | .param => some (.ok [])
    | _ =>
      (s.pieces a).foldr (fun (va, n) acc =>
        match s.tlbFind a.die a.asid va with
        | none => none
        | some e =>
          match acc with
          | none => none
          | some (.error c) => some (.error c)
          | some (.ok l) =>
            let pa := e.phys + (va % 2 ^ 57 - e.base)
            if !permitted e a.use a.via then some (.error 0x07)
            else
              match s.region pa with
              | .nowhere => some (.error 0x07)
              | r =>
                match a.op? with
                | some o => if atomSupported s.link.atomicReq r o then some (.ok ((pa, n) :: l)) else some (.error 0x07)
                | none => some (.ok ((pa, n) :: l))) (some (.ok []))

def readPieces (s : State) : List (Nat × Nat) → List Byte
  | [] => []
  | (pa, n) :: ps => s.bytesAt pa n ++ s.readPieces ps

end State

/-- A byte of a team's scratchpad share (R247); one that nothing has written is undefined (R228). -/
def Team.scratchByte (t : Team) (o : Nat) : Byte := (tabFind o t.scratch).getD (Config.undefByte t.id o)
def Team.scratchBytes? (t : Team) (o : Nat) : Nat → List Byte
  | 0 => []
  | n + 1 => t.scratchByte o :: Team.scratchBytes? t (o + 1) n
/-- Writes bytes of a share at its bank; a unit covered whole gets fresh check bits (R263). -/
def Team.scratchPut (t : Team) (o : Nat) (bs : List Byte) : Team :=
  { t with
    scratch := (bs.foldl (fun (p : Nat × Tab Byte) b => (p.1 + 1, tabSet p.1 b p.2)) (o, t.scratch)).2
    scratchPoison := t.scratchPoison.filter fun u => !(decide (o ≤ 8 * u) && decide (8 * u + 8 ≤ o + bs.length)) }

namespace State

/-- The grid whose parameter area a team's LDP reads. -/
def gridOf (s : State) (team : Nat) : Option Grid := (s.team? team).bind fun t => s.grid? t.grid

/-- Parameter bytes in the dispatcher's copy (R157). -/
def paramBytes (s : State) (team off n : Nat) : List Byte :=
  match s.gridOf team with
  | some g => (List.range n).map fun i => g.params.getD (off + i) 0
  | none => List.replicate n 0

/-- Units of the copy that hold an error (R157). -/
def paramErrs (s : State) (team : Nat) : List Nat := ((s.gridOf team).map (·.paramErrs)).getD []

/-- The stretches of a slot that a FILL or a partial SPILL reads: the header, then what the format in it makes it read (R70, R71). -/
def spillReads (a : Access) (fmt : Nat) : List Nat :=
  let lanes := match a.kind with | .fill => a.lanes.map (fun (l : SpillLane) => l.lane) | _ => List.range 32
  0 :: (match fmt with
    | 0 => (match a.kind with | .fill => lanes.map (· + 1) | _ => [])
    | 1 => 1 :: lanes.map fun j => 2 + j / 4
    | 2 => 1 :: lanes.map fun j => 2 + j / 2
    | 3 => [1]
    | _ => [])

/-- The bytes an access names, as its place of performance holds them. -/
def accBytes (s : State) (a : Access) (ps : List (Nat × Nat)) : List Byte :=
  match a.space with
  | .window w => match s.team? w with | some t => t.scratchBytes? a.addr a.size | none => List.replicate a.size 0
  | .param => s.paramBytes a.team a.addr a.size
  | _ => s.readPieces ps

/-- Does reading them meet an uncorrectable error? -/
def accPoisoned (s : State) (a : Access) (ps : List (Nat × Nat)) : Bool :=
  match a.space with
  | .window w => match s.team? w with | some t => (unitsOf a.addr a.size).any fun u => t.scratchPoison.contains u | none => false
  | .param => (unitsOf a.addr a.size).any fun u => (s.paramErrs a.team).contains u
  | .spillSp =>
    (spillReads a (match ps with | (pa, _) :: _ => (s.byteAt pa).toNat | [] => 0)).any fun i =>
      match ps[i]? with | some (pa, n) => (s.poisoned pa n).isSome | none => false
  | _ => ps.any fun (pa, n) => (s.poisoned pa n).isSome

/-- Does a SPILL cover all 32 lanes? -/
def fullSpill (a : Access) : Bool := (List.range 32).all fun j => a.lanes.any fun l => l.lane == j

/-- The cause of a failed late check, once its translation is known (R152, R71). -/
def failCause (s : State) (a : Access) : Option Byte :=
  if a.isMarker || a.served.isSome || a.taken.isSome then none
  else
  match s.accPhys a with
  | none => none
  | some (.error c) => some c
  | some (.ok ps) =>
    let reads := match a.kind with | .load _ | .atom _ | .red _ | .fill => true | .spill => !fullSpill a | _ => false
    if reads && s.accPoisoned a ps then some 0x09
    else
      match a.kind with
      | .fill | .spill => if reads && decide (3 < ((s.accBytes a ps).headD 0).toNat) then some 0x02 else none
      | _ => none

/-! ### Order -/

/-- Does an earlier fence hold a later access (R163)? An acquire fence holds every later access; a release fence holds later writes,
arrivals and passes, never a load. -/
def fenceHolds (x a : Access) : Bool :=
  x.isFence && (x.acq || (x.rel && (a.isStore || a.isAtom || (a.isMarker && !a.isFence))))

/-- Does an ICSYNC of its thread hold a later release, so that code is not published before the invalidation is complete (R223, R224)? -/
def icsyncHolds (s : State) (a : Access) : Bool :=
  a.rel && (match s.thread? a.team a.tid with | some x => x.icsync.any fun w => decide (w.id ≤ a.id) | none => false)

/-- The order conditions of R155, R163, R271 and R273 on one access: its thread's earlier acquires have returned, fences before it are
done, and a release finds the earlier loads returned and the earlier stores accepted at its scope's point (Table 13.4), for a scope
wider than team also the stores that stood ahead of it in the core's write path. (DEDUCED, log entry 29) -/
def orderOk (s : State) (a : Access) : Bool :=
  (s.accs.all fun x =>
    !(decide (x.id < a.id) && x.sameThread a) ||
      (!(x.acq && !x.isFence) && !fenceHolds x a &&
       (!a.rel || x.isMarker || (!x.isLoad && !a.wideRel && x.taken.isSome)))) &&
  (!a.wideRel || a.after.all fun i => !(s.accs.any fun x => x.id == i)) &&
  !s.icsyncHolds a

/-- The physical stretch that an access of global memory starts at, cached translation or not. -/
def physOf (s : State) (a : Access) : Option (Nat × Nat) :=
  match a.taken with
  | some k => k.ps.head?
  | none =>
    match (match s.tlbFind a.die a.asid a.addr with | some e => Except.ok e | none => s.walk a.die a.asid a.addr) with
    | .ok e => some (e.phys + (a.addr % 2 ^ 57 - e.base), a.size)
    | .error _ => none

/-- Do two accesses touch one unit of one space (R154, R165)? Global ones may do so by two virtual addresses. -/
def meets (s : State) (x a : Access) : Bool :=
  match x.space, a.space with
  | .global, .global =>
    (x.asid == a.asid && unitsMeet x.addr x.size a.addr a.size) ||
      (match s.physOf x, s.physOf a with
       | some (p, n), some (q, m) => unitsMeet p n q m
       | _, _ => false)
  | .window v, .window w => v == w && unitsMeet x.addr x.size a.addr a.size
  | .priv, .priv => x.team == a.team && x.tid == a.tid && unitsMeet x.named x.size a.named a.size
  | .spillSp, .spillSp => x.team == a.team && unitsMeet x.addr 132 a.addr 132
  | _, _ => false

/-- Must x, if both touch a unit, be performed before `a`: an earlier access of the thread (R154), an earlier access of a spill slot
(R165), or a store of a lower lane of one instruction (R268)? -/
def older (x a : Access) : Bool :=
  if x.sameThread a || a.space == .spillSp then decide (x.id < a.id)
  else x.group == a.group && x.parked.isNone && x.isStore && a.isStore && decide (x.id < a.id)

/-- An access that stands on the units of `a` and has not been performed. -/
def standsOn (s : State) (x a : Access) : Bool := x.id != a.id && !x.isMarker && x.served.isNone && s.meets x a

/-- Nothing older stands in front of the access where the core's write path and L1 take it: older stores are in the path already, older
spill accesses are complete. -/
def pathClear (s : State) (a : Access) : Bool :=
  s.accs.all fun x => !(s.standsOn x a && older x a) || (x.taken.isSome && a.space != .spillSp)

/-- Nothing stands in front of the access where it is performed at home or at a bank: nothing older, and no store ahead of it in its
core's write path (Table 13.4). -/
def clearOf (s : State) (a : Access) : Bool :=
  s.accs.all fun x =>
    !(s.standsOn x a && (older x a ||
      (x.core == a.core &&
        (match x.taken, a.taken with
         | some k, some l => decide (k.stamp < l.stamp)
         | some _, none => true
         | none, _ => false))))

/-- At REPEAT and above each unit receives a team's atomics of scope crew and team in issue order (R238). -/
def waveOk (s : State) (a : Access) : Bool :=
  !(a.isAtom && a.narrow && (match s.team? a.team with | some t => decide (1 ≤ s.detLevel t) | none => false)) ||
    s.accs.all fun x => !(decide (x.id < a.id) && x.team == a.team && x.group != a.group && x.isAtom && x.narrow && x.served.isNone &&
      s.meets x a)

/-- Does a copy of a row hold the access (R401)? -/
def rowHolds (s : State) (a : Access) : Bool :=
  match a.space with
  | .window _ | .param => false
  | _ => !s.svc.rowCopies.isEmpty && (match s.physOf a with | some (pa, _) => s.rowHeld pa | none => false)

/-- May the access be performed where it is performed, or return? -/
def ready (s : State) (a : Access) : Bool :=
  a.parked.isNone && (a.served.isSome || !s.rowHolds a) && (a.served.isSome || a.taken.isSome || s.orderOk a) && (a.served.isSome || (s.clearOf a && s.waveOk a))

/-- May the core take it: a store into its write path, a load at its L1? -/
def readyAtCore (s : State) (a : Access) : Bool := a.parked.isNone && s.orderOk a && s.pathClear a

/-! ### The core's L1, as an access finds it (R255, R256) -/

/-- What L1 sectors an access uses; those of a parameter area go by grid and offset (DESIGN CHOICE, log entry 80). -/
def l1Space (s : State) (a : Access) : L1Space :=
  match a.space with
  | .param => .param (((s.gridOf a.team).map (·.id)).getD 0)
  | .priv | .spillSp => .priv
  | _ => .program
/-- The number that stands for the physical address of a cached parameter sector (log entry 54). -/
def paramPhys (grid off : Nat) : Nat := 2 ^ 52 + grid * 2 ^ 20 + off / 32 * 32

/-- Is a load served by the L1 where it finds its bytes there: private, spill and parameter loads, and global ones of scope crew and team
(R155, R245)? -/
def usesL1 (a : Access) : Bool :=
  (match a.kind with | .load _ | .fill => true | _ => false) &&
  (match a.space with | .global => a.narrow | .window _ => false | _ => true)

/-- The sectors that hold all the bytes of an access. -/
def l1Sectors (s : State) (a : Access) : Option (List (L1Sector × Nat × Nat)) :=
  (s.pieces a).mapM fun (va, n) => (s.l1Find a.core a.asid (s.l1Space a) va).map fun x => (x, va, n)

/-- An L1 hit: the bytes, and whether those that are read hold an error (R263). -/
def l1Hit (s : State) (a : Access) : Option (List Byte × Bool) :=
  if !usesL1 a || a.bad.isSome then none
  else
    match s.l1Sectors a with
    | none => none
    | some xs =>
      let bytes := (xs.map fun (x, va, n) => (x.bytes.drop (va % 32)).take n).flatten
      let bad (p : L1Sector × Nat × Nat) : Bool := (unitsOf (p.2.1 % 32) p.2.2).any fun u => p.1.bad.contains u
      some (bytes, match a.space with
        | .spillSp => (spillReads a (bytes.headD 0).toNat).any fun i => (xs[i]?.map bad).getD false
        | _ => xs.any bad)

/-- A load served at home brings the sectors it missed into the L1 (R255): not under `.l2`, which still refreshes a copy (R269). -/
def l1FillFor (s : State) (a : Access) (ps : List (Nat × Nat)) : State :=
  match a.space with
  | .window _ => s
  | .param =>
    if (unitsOf (a.addr / 32 * 32) 32).any fun u => (s.paramErrs a.team).contains u then s
    else s.l1Put a.core a.asid (s.l1Space a) a.addr (paramPhys (((s.gridOf a.team).map (·.id)).getD 0) a.addr)
      (s.paramBytes a.team (a.addr / 32 * 32) 32) false
  | _ =>
    ((s.pieces a).zip ps).foldl (fun s (p, q) =>
      if a.hint = .l2 && (s.l1Find a.core a.asid (s.l1Space a) p.1).isNone then s
      else s.l1Fill a.core a.asid (s.l1Space a) p.1 q.1 (a.hint == .strm)) s

/-! ### Waking a thread -/

/-- A thread asleep at index n − 1 wakes: the result is written, and it falls through (R76, R232). -/
def wake (s : State) (team tid : Nat) (res : List (Reg × Word)) : State :=
  match s.thread? team tid with
  | none => s
  | some x =>
    let idx := hdrN x.hdr - 1
    let s : State := s.modThread team tid fun x => { x with run := .active }
    let s : State := s.writeRegs team tid false idx res
    let s : State := s.note team tid idx (res.head?.map fun r => (r.1, false)) true
    s.fallThrough team tid

/-- A thread of the group in the issue slot goes to sleep in its waiting instruction. -/
def sleep (s : State) (sl : IssueSlot) (tid : Nat) (w : Sleep) : State :=
  (s.modThread sl.team tid fun x => { x with clause := sl.clause, idx := sl.idx, run := .asleep w, stamp := none }).leaveGroup sl.team tid

/-! ### Markers: fences, arrivals and passes that wait in the thread's memory queue -/

/-- A walk for every access whose translation is missing and not asked for (R326); an L1 hit needs none (R257). -/
def requestWalks (s : State) : State :=
  s.accs.foldl (fun s a =>
    if a.isMarker || a.parked.isSome || a.served.isSome || (s.accPhys a).isSome || (s.l1Hit a).isSome then s
    else
      (s.pieces a).foldl (fun s (va, _) =>
        let va := va % 2 ^ 57
        if (s.tlbFind a.die a.asid va).isSome || s.walks.any (walkIn a.die a.asid va) then s
        else { s with walks := s.walks ++ [⟨a.die, a.asid, va, false⟩] }) s) s

/-- The barrier a reference names. -/
def bar (s : State) (b : BarRef) : Bar :=
  match b.level with
  | .crew => match (s.team? b.owner).bind fun t => t.crew? b.crew with | some c => tabGet Bar.idle b.index c.bars | none => Bar.idle
  | .team => match s.team? b.owner with | some t => tabGet Bar.idle b.index t.bars | none => Bar.idle
  | .cluster => match s.cluster? b.owner with | some c => tabGet Bar.idle b.index c.bars | none => Bar.idle
  | .grid => match s.grid? b.owner with | some g => tabGet Bar.idle b.index g.bars | none => Bar.idle

def modBar (s : State) (b : BarRef) (f : Bar → Bar) : State :=
  let up (t : Tab Bar) : Tab Bar := tabPut Bar.idle b.index (f (tabGet Bar.idle b.index t)) t
  match b.level with
  | .crew => s.modTeam b.owner fun t => t.modCrew b.crew fun c => { c with bars := up c.bars }
  | .team => s.modTeam b.owner fun t => { t with bars := up t.bars }
  | .cluster => s.modCluster b.owner fun c => { c with bars := up c.bars }
  | .grid => s.modGrid b.owner fun g => { g with bars := up g.bars }

/-- Wakes the TKWAIT sleepers of counter n whose team's number it has reached (R175); the end of the wait is a device acquire. -/
def wakeTickets (s : State) (grid n : Nat) : State :=
  let c := s.ticket grid n
  (s.teams.filter fun t => t.grid == grid && t.res == .resident && s.ticketNo t == c.value).foldl (fun s t =>
    (t.threads.filterMap fun x => match x.run with | .asleep (.ticket m d) => if m = n then some (x.tid, d) else none | _ => none).foldl
      (fun s (tid, d) => ((s.l1Drop t.core t.asid).wake t.id tid [(d, if c.abandoned then 1 else 0)])) s) s

/-- Counter n of a grid advances by one, with the abandoned flag if this pass is abandoned; the passes that retired teams have
left with the dispatcher follow when the counter reaches their number (R176, R241). -/
def passTicket (s : State) (grid n : Nat) (abandoned : Bool) : (fuel : Nat) → State
  | 0 => s
  | fuel + 1 =>
    let s : State := s.modGrid grid fun g =>
      { g with tickets := listSet n ⟨(g.tickets.getD n ⟨0, false⟩).value + 1, (g.tickets.getD n ⟨0, false⟩).abandoned || abandoned⟩ g.tickets }
    let s : State := s.wakeTickets grid n
    match s.teams.find? fun t => t.grid == grid && t.res == .retired && t.parkedTickets.contains n && s.ticketNo t == (s.ticket grid n).value with
    | none => s
    | some t =>
      let bad := !(t.passed.any fun p => p.n == n && p.executed) || t.threads.any (·.endedByFault)
      let s : State := s.modTeam t.id fun t => { t with parkedTickets := t.parkedTickets.filter fun m => m != n }
      passTicket s grid n bad fuel

/-- A marker whose conditions hold leaves the queue with its effect. The acquire side of an acquire-release fence is done as soon as the
earlier loads have returned; it stays as a release fence (R163). -/
def land (s₀ : State) (a : Access) : State :=
  let s : State := s₀.dropAcc a.id
  match a.kind with
  | .fence =>
    let s : State := if a.order = .ar then s₀.modAcc a.id fun y => { y with order := .rel } else s
    if a.wideAcq then s.l1Drop a.core a.asid else s
  | .arrive b => s.modBar b fun x => { x with arrivals := x.arrivals + 1 }
  | .pass n =>
    match s.team? a.team with
    | some t => s.passTicket t.grid n false (s.teams.length + 1)
    | none => s
  | .launch g => s.startGrid g
  | _ => s

/-- Have the loads and atomics before an acquire fence returned (R163)? -/
def loadsDone (s : State) (a : Access) : Bool := s.accs.all fun x => !(decide (x.id < a.id) && x.sameThread a && (x.isLoad || (x.isFence && x.acq)))

/-- Is a die's clock stopped for a relock (R310)? -/
def dieStopped (s : State) (d : Nat) : Bool := match (s.die d).relock with | .stopped .. => true | _ => false

/-- Does the bridge between the two dies of a launch stand in a relock (R174, R311)? -/
def bridgeStalled (s : State) (g : Grid) : Bool := g.dies.contains 0 && g.dies.contains 1 && (s.dieStopped 0 || s.dieStopped 1)

/-- The leader of a launch: its lowest live die (R311). -/
def leaderDie (s : State) (g : Grid) : Nat := if g.dies.contains 0 && s.die0.live then 0 else 1

/-- May a marker land? An acquire fence waits for the earlier loads; a pass waits for the team (R176); a launch also waits while its
context is frozen (R364). A grid arrival of the die that does not lead waits in the bridge's queues during a relock, and so does a ticket counter's
change, which both dies see before it has an effect (R174, R311). -/
def mayLand (s : State) (a : Access) : Bool :=
  a.isMarker &&
  (if a.isFence && a.acq then s.loadsDone a else s.orderOk a) &&
  (match a.kind with
   | .pass _ => (s.accs.all fun x => !(decide (x.id < a.id) && x.team == a.team && !x.isMarker)) && !((s.gridOf a.team).any s.bridgeStalled)
   | .arrive b => b.level != .grid || !((s.grid? b.owner).any fun g => s.bridgeStalled g && a.die != s.leaderDie g)
   | .launch _ => !s.enginesFrozen a.asid
   | _ => true)

/-- Does a thread in WAITC meet its thresholds (R178)? A threshold of 15 waits for nothing. -/
def under (n thr : Nat) : Bool := thr == 15 || decide (n ≤ thr)

/-- Wakes the WAITC sleepers whose counters have fallen; one that waited for `ld` to be 0 has covered the loads that have returned (R55). -/
def wakeCounters (s : State) : State :=
  s.teams.foldl (fun s t =>
    if t.res ≠ .resident then s
    else
      (t.threads.filterMap fun x => match x.run with
        | .asleep (.waitc ld st cp tl) => if under x.ld ld && under x.st st && under t.cp cp && under t.tl tl then some x.tid else none
        | _ => none).foldl (fun s tid => ((s.modThread t.id tid fun x =>
          match x.run with | .asleep (.waitc ld ..) => if ld = 0 then s.coverFlips x else x | _ => x).wake t.id tid [])) s) s

/-- What follows at once from a change in the memory system: markers land, counters wake their waiters, walks are asked for. -/
def settleFor : (fuel : Nat) → State → State
  | 0, s => s
  | fuel + 1, s =>
    match s.accs.find? fun a => s.mayLand a with
    | some a => settleFor fuel (s.land a)
    | none => s

def settle (s : State) : State := (settleFor (2 * s.accs.length + 1) s).wakeCounters.requestWalks

/-! ### Completing loads and atomics -/

/-- A load or atomic result in its registers (R156). -/
def loadWords (sx : Bool) (size : Nat) (bs : List Byte) : List Word :=
  if size ≤ 4 then [if sx then BitVec.ofInt 32 (sextNat (8 * size) (ofBytes bs)) else BitVec.ofNat 32 (ofBytes bs)]
  else (List.range (size / 4)).map fun i => BitVec.ofNat 32 (ofBytes ((bs.drop (4 * i)).take 4))

def regsOf (d : Reg) (ws : List Word) : List (Reg × Word) :=
  if d = 0xFF#8 then [] else (List.range ws.length).map fun i => (d + BitVec.ofNat 8 i, ws.getD i 0)

/-- Later releases of the thread also order the stores its acquire may have seen (R271), as do the engine operations that wait for it
(R272). -/
def extendAfter (s : State) (a : Access) : State :=
  let ps := s.pathOf a.core
  { s with
    accs := s.accs.map fun x => if a.id < x.id ∧ x.sameThread a ∧ x.rel then { x with after := x.after ++ ps } else x
    engs := s.engs.map fun e => if e.after.contains a.id then { e with after := e.after ++ ps } else e }

/-- Writes a pending destination of one thread: a register it lost goes nowhere (R177). A v register reads either value until a wait
covers the load, and one written meanwhile keeps either (R55); a fragment register stays undefined to every reader (R184). A k register
takes the loaded value, also where it was written meanwhile (DESIGN CHOICE, log entry 11). -/
def writePending (s : State) (team tid acc : Nat) (regs : List (Reg × Word)) : State :=
  match s.team? team, s.thread? team tid with
  | some t, some x =>
    let named (r : Reg) : Option PendDst := x.pend.find? fun p => p.acc == acc && p.code == r.toNat
    let mine := regs.filter fun (r, _) => (isK r || (named r).isSome) && holds (t.crewOf x) r
    let keep := mine.filter fun (r, _) => !((named r).any (·.written)) || s.freeBit 3 (256 * tid + r.toNat)
    let flips := (mine.filter fun (r, _) => isV r).map fun (r, v) => (⟨r.toNat, settledReg x r.toNat, v, (named r).any (·.written)⟩ : Flip)
    (s.writeRegs team tid false 0 keep).modThread team tid fun y =>
      { y with pend := y.pend.filter (fun p => p.acc != acc)
               flips := flips ++ y.flips.filter fun f => !(flips.any fun z => z.code == f.code)
               -- an old value that is transient still expires (R54)
               trans := y.trans ++ x.trans.filter fun p => (flips.any fun z => z.code == p.1) && !(y.trans.any fun q => q.1 == p.1) }
  | _, _ => s

/-- A result that was not known when its slots were made is now known: in the windows of these threads of a team (R64). -/
def fillSlots (s : State) (team acc : Nat) (mine : Nat → Bool) (ws : List Word) : State :=
  let f (tid : Nat) (w : WinSlot) : WinSlot :=
    if w.acc = some acc ∧ mine tid then { w with lo := ws.getD 0 0, hi := if w.wide then ws.getD 1 0 else 0, acc := none } else w
  let s : State := s.modTeam team fun t => { t with threads := t.threads.map fun x =>
    { x with window := x.window.map (f x.tid), shadows := x.shadows.map fun h => (h.1, { h.2 with slots := h.2.slots.map (f x.tid) }) } }
  { s with accs := s.accs.map fun a =>
      if a.team = team then
        { a with snapshot := a.snapshot.map (f a.tid), lanes := a.lanes.map fun l => { l with snapshot := l.snapshot.map (f l.tid) } }
      else a }

/-- The value returns: destination, counter, and the effects of an acquire (R56, R155). (DEDUCED, log entry 12) -/
def returnLoad (s : State) (a : Access) (bs : List Byte) : State :=
  let s : State :=
    match a.kind with
    | .fill =>
      -- lane j of the slot (Table 4.9)
      let base := ofBytes ((bs.drop 4).take 4)
      let lane (j : Nat) : Word :=
        match (bs.headD 0).toNat with
        | 0 => BitVec.ofNat 32 (ofBytes ((bs.drop (4 + 4 * j)).take 4))
        | 1 => BitVec.ofInt 32 (base + sextNat 8 (ofBytes ((bs.drop (8 + j)).take 1)))
        | 2 => BitVec.ofInt 32 (base + sextNat 16 (ofBytes ((bs.drop (8 + 2 * j)).take 2)))
        | _ => BitVec.ofNat 32 base
      a.lanes.foldl (fun s l =>
        ((s.writePending a.team l.tid a.id [(a.dst, lane l.lane)]).fillSlots a.team a.id (fun tid => tid == l.tid) [lane l.lane]).modThread a.team l.tid
          fun x => { x with ld := x.ld - 1 }) s
    | _ =>
      let sx := match a.kind with | .load sx => sx | _ => false
      let ws := loadWords sx a.size bs
      ((s.writePending a.team a.tid a.id (regsOf a.dst ws)).fillSlots a.team a.id (fun _ => true) ws).modThread a.team a.tid
        fun x => { x with ld := x.ld - 1 }
  let s : State := (s.dropAcc a.id).extendAfter a
  let s : State := if a.wideAcq then s.l1Drop a.core a.asid else s
  s.drawn

/-- The watch slot after an LD of scope cluster or wider or an ATOM (R164). -/
def setWatch (s : State) (a : Access) (pa : Nat) : State :=
  let l := pa / 128
  s.modThread a.team a.tid fun x =>
    if x.watchAcc ≤ a.id then { x with watch := some (l, (tabGet LineRec.none l s.lines).seq), watchAcc := a.id } else x

/-- A `.rem` acquire may be served once the write path of the unit's writer has drained to its release (R275). -/
def remoteReady (s : State) (a : Access) (pa : Nat) : Bool :=
  !((a.order == .acq || a.order == .ar) && (a.scope == .device || a.scope == .system) && a.hint == .l2) ||
    ((unitsOf pa a.size).all fun u => (tabGet [] u s.narrow).all fun i => !(s.accs.any fun x => x.id == i))

/-- What the home slice records of a thread's write: for a release at team scope the stores that it must be drained with, those that stand
in front of it in the core's write path among them (R275). A write whose own scope is device or system is not promoted. -/
def writerOf (s : State) (a : Access) : Writer :=
  let before := (s.accs.filter fun x => decide (x.id < a.id) && x.sameThread a && x.isStore).map (·.id)
  let ahead := (s.accs.filter fun x => x.core == a.core &&
    (match x.taken, a.taken with | some k, some l => decide (k.stamp < l.stamp) | some _, none => true | none, _ => false)).map (·.id)
  ⟨a.core, if a.relScope = some .team ∧ a.scope ≠ .device ∧ a.scope ≠ .system then
      some (((before ++ a.after ++ ahead).filter fun i => i != a.id && s.accs.any fun x => x.id == i).eraseDups)
    else none⟩

/-- Does a peer answer the access with a completer error (R339)? -/
def peerRefuses (s : State) (a : Access) (ps : List (Nat × Nat)) : Bool :=
  a.half.isNone && (match ps with | (pa, _) :: _ => s.peerError 33 pa a.id | [] => false)

/-- The late fault that an access has met where it is performed. -/
def failAcc (s : State) (id : Nat) (c : Byte) (cls : Nat) : State :=
  (s.modAcc id fun y => { y with bad := some c, badClass := cls }).drawn

/-- The requests of an access of host or peer memory to its link, once for the lanes of one instruction that share the sector (R253,
R261). -/
def request (s : State) (a : Access) (ps : List (Nat × Nat)) : State :=
  if !(ps.any fun p => s.remote p.1) || ((s.acc? a.id).map (·.asked)).getD false then s
  else
    let s : State := s.askPieces (if a.op?.isSome then .atomic else if a.isStore then .write else .read) ps
    { s with accs := s.accs.map fun x => if x.group = a.group ∧ sectorOf x.addr = sectorOf a.addr then { x with asked := true } else x }

/-- An atomic's new value (R159). -/
def atomNew (op : AtomOp) (w : Nat) (old v cmp : Nat) : Nat :=
  match op with
  | .add => (old + v) % 2 ^ w
  | .minU => min old v
  | .maxU => max old v
  | .minS => if sextNat w v < sextNat w old then v else old
  | .maxS => if sextNat w old < sextNat w v then v else old
  | .and => old &&& v
  | .or => old ||| v
  | .xor => old ^^^ v
  | .exch => v
  | .cas => if old = cmp then v else old
  | .fadd => (faddOf .rne (BitVec.ofNat 32 old) (BitVec.ofNat 32 v)).toNat

/-- An atomic or reduction performed at its home slice, bank or private line; the old bytes (R160). -/
def performAtom (s : State) (a : Access) (op : AtomOp) : State × List Byte :=
  match s.accPhys a with
  | some (.ok ps) =>
    let old := s.accBytes a ps
    let new := toBytes a.size (atomNew op (8 * a.size) (ofBytes old) (ofBytes a.data) (a.cmp.toNat % 2 ^ (8 * a.size)))
    match a.space with
    | .window w => (s.modTeam w fun t => t.scratchPut a.addr new, old)
    | .global =>
      let s' : State := (s.request a ps).pokePieces (some (s.writerOf a)) ps new
      let s' : State := s'.l1Evict a.core a.asid .program a.addr
      (match ps with | (pa, _) :: _ => (if a.isAtom then s'.setWatch a pa else s') | [] => s', old)
    | _ => (((s.request a ps).pokePieces (some (s.writerOf a)) ps new).l1Stores a.core a.asid (s.pieces a) new, old)
  | _ => (s, [])

/-- The lanes of one instruction that name the access's unit, by ascending lane (R161). -/
def mates (s : State) (a : Access) : List Access :=
  s.accs.filter fun x => x.group == a.group && x.parked.isNone && x.served.isNone && x.op? == a.op? && (x.id == a.id || (s.meets x a &&
    x.space == a.space))

/-- May all of them be performed: order, late checks, and nothing of their threads in front of them? -/
def matesReady (s : State) (ms : List Access) : Bool :=
  ms.all fun m => s.orderOk m && (s.failCause m).isNone &&
    s.accs.all fun x => ms.contains x || x.isMarker || x.served.isSome || !(s.meets x m && decide (x.id < m.id) && x.sameThread m)

/-- The bytes of a load have been found: served, or one unit of a b128 access, whose two units are read apart, `h` first (R267). -/
def serveWith (s : State) (a : Access) (h : Bool) (bs : List Byte) : State :=
  if a.size = 16 then
    match a.half with
    | none => s.modAcc a.id fun y => { y with half := some (h, (bs.drop (8 * b2n h)).take 8) }
    | some (h, one) => s.modAcc a.id fun y => { y with served := some (if h then bs.take 8 ++ one else one ++ bs.drop 8) }
  else s.modAcc a.id fun y => { y with served := some bs }

/-- The first unit of a b128 load has been read in an order that is unspecified. -/
def drawnFor (s : State) (a : Access) : State := if a.size = 16 && a.half.isNone then s.drawn else s

/-- The loads of one instruction that name an aligned 4-byte word of scratchpad with this one: the bank reads it once (R247). -/
def wordMates (s : State) (a : Access) : List Access :=
  s.accs.filter fun x => x.group == a.group && x.parked.isNone && x.served.isNone && x.isLoad && x.space == a.space &&
    (x.id == a.id || (decide (x.addr / 4 ≤ (a.addr + a.size - 1) / 4) && decide (a.addr / 4 ≤ (x.addr + x.size - 1) / 4)))

/-- A load that hits the L1: it needs no check (R152). A data error is met there; otherwise it is served, unless its line has just been
evicted. -/
def serveHit (s : State) (a : Access) (bs : List Byte) (bad : Bool) : State :=
  if !s.freeBit 4 0 then ((s.pieces a).foldl (fun s (va, _) => s.l1Evict a.core a.asid (s.l1Space a) va) s).drawn
  else if bad then s.failAcc a.id 0x09 4
  else if a.space = .spillSp ∧ 3 < (bs.headD 0).toNat then s.failAcc a.id 0x02 0
  else (s.serveWith a (s.freeBit 5 0) bs).drawn

/-- A load is served where it is performed. -/
def serveLoad (s : State) (a : Access) : State :=
  match s.accPhys a with
  | some (.ok ps) =>
    match a.space, ps with
    | .global, (pa, _) :: _ =>
      if !s.remoteReady a pa then s
      else if s.peerRefuses a ps then s.failAcc a.id 0x07 0
      else
        let s' : State := (s.request a ps).l1FillFor a ps
        let s' : State := if a.narrow || a.half.isSome then s' else s'.setWatch a pa
        (s'.serveWith a (s.freeBit 5 0) (s.accBytes a ps)).drawnFor a
    | .window _, _ =>
      let ms := s.wordMates a
      if ms.all fun m => s.ready m && (s.failCause m).isNone then
        (ms.foldl (fun s' m => s'.serveWith m (s.freeBit 5 0) (s.accBytes m [])) s).drawnFor a
      else s
    | _, _ => (((s.request a ps).l1FillFor a ps).serveWith a (s.freeBit 5 0) (s.accBytes a ps)).drawnFor a
  | _ => s

/-- An atomic is served together with its lane-mates on the unit. -/
def serveAtom (s : State) (a : Access) (op : AtomOp) : State :=
  let ms := s.mates a
  if !s.matesReady ms then s
  else
    match s.accPhys a with
    | some (.ok ps) =>
      if (match a.space, ps with | .global, (pa, _) :: _ => !s.remoteReady a pa | _, _ => false) then s
      else if s.peerRefuses a ps then s.failAcc a.id 0x07 0
      else
        ms.foldl (fun s m =>
          let (s', old) := s.performAtom m op
          s'.modAcc m.id fun y => { y with served := some old }) s
    | _ => s

/-- A load is served by the L1 if it finds its bytes there, and otherwise where it is performed. -/
def serve (s : State) (a : Access) : State :=
  match s.l1Hit a with
  | some (bs, bad) => if s.readyAtCore a then s.serveHit a bs bad else s
  | none =>
    if !s.ready a || (s.failCause a).isSome then s
    else match a.kind with | .atom op => s.serveAtom a op | _ => s.serveLoad a

/-- LOAD_RETURN: the access is served if it has not been, and returns (now, or at a later LOAD_RETURN). -/
def loadReturn (s : State) (id : Nat) : State :=
  match s.acc? id with
  | none => s
  | some a =>
    if !a.isLoad then s
    else
      match a.served with
      | some bs => if s.ready a then s.returnLoad a bs else s
      | none =>
        let s : State := s.serve a
        match (s.acc? id).bind (·.served) with
        | some bs => if s.freeBit 6 0 then s.returnLoad a bs else s.drawn
        | none => s

/-! ### Completing stores -/

/-- The bytes of a SPILL: format and payload (R70, R71); `old` is the slot. -/
def spillBytes (a : Access) (old : List Byte) : List Byte :=
  let val (j : Nat) : Word := ((a.lanes.find? fun l => l.lane == j).map (·.data)).getD 0
  let lanes := List.range 32
  if fullSpill a then
    let base := val 0
    let delta (j : Nat) : Int := (val j - base).toInt
    let head (f : Nat) : List Byte := toBytes 4 f ++ toBytes 4 base.toNat
    let bs : List Byte :=
      if lanes.all fun j => val j == base then head 3
      else if lanes.all fun j => decide (-128 ≤ delta j) && decide (delta j ≤ 127) then
        head 1 ++ (lanes.map fun j => BitVec.ofInt 8 (delta j))
      else if lanes.all fun j => decide (-32768 ≤ delta j) && decide (delta j ≤ 32767) then
        head 2 ++ (lanes.map fun j => toBytes 2 (BitVec.ofInt 16 (delta j)).toNat).flatten
      else toBytes 4 0 ++ (lanes.map fun j => toBytes 4 (val j).toNat).flatten
    bs ++ old.drop bs.length
  else
    let base := ofBytes ((old.drop 4).take 4)
    let was (j : Nat) : Word :=
      match (old.headD 0).toNat with
      | 0 => BitVec.ofNat 32 (ofBytes ((old.drop (4 + 4 * j)).take 4))
      | 1 => BitVec.ofInt 32 (base + sextNat 8 (ofBytes ((old.drop (8 + j)).take 1)))
      | 2 => BitVec.ofInt 32 (base + sextNat 16 (ofBytes ((old.drop (8 + 2 * j)).take 2)))
      | _ => BitVec.ofNat 32 base
    (if old.headD 0 = 0 then old.take 4 else toBytes 4 0) ++ (lanes.map fun j =>
      toBytes 4 (if a.lanes.any fun l => l.lane == j then val j else was j).toNat).flatten

/-- The words of a slot that the access writes: a partial SPILL of a slot in format 0 writes the present lanes' words only. -/
def spillWords (a : Access) (old new : List Byte) : List Nat :=
  if fullSpill a then List.range ((match (new.headD 0).toNat with | 0 => 132 | 1 => 40 | 2 => 72 | _ => 8) / 4)
  else if old.headD 0 = 0 then a.lanes.map fun l => l.lane + 1
  else List.range 33

/-- The `st` counters of the threads that issued it fall (R56, R165). -/
def stFalls (s : State) (a : Access) : State :=
  if a.lanes.isEmpty then s.modThread a.team a.tid fun x => { x with st := x.st - 1 }
  else a.lanes.foldl (fun s l => s.modThread a.team l.tid fun x => { x with st := x.st - 1 }) s

/-- Joins words that follow one another in memory, so that a unit written whole is written at once. -/
def mergeRuns : List (Nat × Nat × List Byte) → List (Nat × Nat × List Byte)
  | [] => []
  | (va, pa, bs) :: ws =>
    match mergeRuns ws with
    | (va', pa', bs') :: rs => if va' = va + bs.length ∧ pa' = pa + bs.length then (va, pa, bs ++ bs') :: rs else (va, pa, bs) :: (va', pa', bs') :: rs
    | [] => [(va, pa, bs)]

/-- A store is applied where it is performed, a b128 store one unit at a time (R267); one that its core's write path has taken has
fallen from its counter and has updated the L1 already. -/
def applyStore (s : State) (a : Access) (ps : List (Nat × Nat)) : State :=
  let done (s : State) : State := let s : State := s.dropAcc a.id; if a.taken.isSome then s else s.stFalls a
  let l1 (s : State) : State := if a.taken.isSome then s else s.l1Stores a.core a.asid (s.pieces a) a.data
  match a.space, ps with
  | .window w, _ =>
    if a.size = 16 then
      match a.half with
      | none =>
        let h := s.freeBit 5 0
        ((s.modTeam w fun t => t.scratchPut (a.addr + 8 * b2n h) ((a.data.drop (8 * b2n h)).take 8)).modAcc a.id
          fun y => { y with half := some (h, []) }).drawn
      | some (h, _) => done (s.modTeam w fun t => t.scratchPut (a.addr + 8 * b2n (!h)) ((a.data.drop (8 * b2n (!h))).take 8))
    else done (s.modTeam w fun t => t.scratchPut a.addr a.data)
  | .global, (pa, _) :: _ =>
    if a.size = 16 then
      match a.half with
      | none =>
        let h := s.freeBit 5 0
        (((s.request a ps).homeWrite (pa + 8 * b2n h) ((a.data.drop (8 * b2n h)).take 8) (some (s.writerOf a))).modAcc a.id
          fun y => { y with half := some (h, []) }).drawn
      | some (h, _) =>
        done (l1 (s.homeWrite (pa + 8 * b2n (!h)) ((a.data.drop (8 * b2n (!h))).take 8) (some (s.writerOf a))))
    else done (l1 ((s.request a ps).homeWrite pa a.data (some (s.writerOf a))))
  | .spillSp, _ =>
    let old := s.readPieces ps
    let new := spillBytes a old
    let who := s.writerOf a
    let va (i : Nat) : Nat := a.addr + 4 * i
    let ws := (spillWords a old new).filterMap fun i => (ps[i]?).map fun p => (va i, p.1, (new.drop (4 * i)).take 4)
    done ((mergeRuns ws).foldl (fun s (va, pa, bs) => (s.homeWrite pa bs (some who)).l1Store a.core a.asid va bs) (s.request a ps))
  | _, _ => done (l1 ((s.request a ps).pokePieces (some (s.writerOf a)) ps a.data))

/-- Does the core's ordered write path take the store (Table 13.4): one of private or spill memory, or a global one of scope crew or team
whose line lies in HBM? -/
def entersPath (s : State) (a : Access) (ps : List (Nat × Nat)) : Bool :=
  match a.space with
  | .global => a.narrow && (match ps with | (pa, _) :: _ => !s.remote pa | [] => false)
  | .priv | .spillSp => true
  | _ => false

/-- The core's write path takes a store: its counter falls and an L1 copy is updated. -/
def takeStore (s : State) (a : Access) (ps : List (Nat × Nat)) : State :=
  let s' : State := (s.modAcc a.id fun y => { y with taken := some ⟨s.draws, ps⟩ }).stFalls a
  if a.kind = .store then s'.l1Stores a.core a.asid (s.pieces a) a.data else s'

/-- Where a store that may be applied now writes. -/
def homeStretches (s : State) (a : Access) : Option (List (Nat × Nat)) :=
  match a.taken with
  | some k => some k.ps
  | none =>
    if (s.failCause a).isSome then none
    else match s.accPhys a with | some (.ok ps) => if s.entersPath a ps then none else some ps | _ => none

/-- STORE_ACCEPT: a store that the core's write path takes falls from its counter there and is applied at home later; every other store
and reduction is accepted where it is performed (Table 13.4). (DEDUCED, log entry 25) -/
def storeAccept (s : State) (id : Nat) : State :=
  match s.acc? id with
  | none => s
  | some a =>
    if !a.isStore then s
    else
      match a.kind with
      | .red op =>
        match s.accPhys a with
        | some (.ok ps) =>
          if !s.ready a || !s.matesReady (s.mates a) then s
          else if s.peerRefuses a ps then s.failAcc id 0x07 0
          else (s.mates a).foldl (fun s m => (((s.performAtom m op).1).dropAcc m.id).stFalls m) s
        | _ => s
      | _ =>
        match s.homeStretches a with
        | some ps =>
          if !s.ready a then s else if s.peerRefuses a ps then s.failAcc id 0x07 0 else s.applyStore a ps
        | none =>
          match s.accPhys a with
          | some (.ok ps) => if s.readyAtCore a && (s.failCause a).isNone then s.takeStore a ps else s
          | _ => s

/-! ### Late faults (R152, R328) -/

/-- Threads that an access charges. -/
def charged (a : Access) : List Nat := if a.lanes.isEmpty then [a.tid] else a.lanes.map (·.tid)

/-- The window of a late fault's frame: the slots up to the access's own instruction, as the thread had them when it issued; its own slot
holds no value (R64). -/
def lateWindow (a : Access) (x : Thread) : List WinSlot :=
  let own : WinSlot := ⟨a.idx, 0, 0, a.slotDst, true, a.slotDst != 0xFF#8 && a.size == 8, false, none⟩
  own :: (match a.lanes.find? fun l => l.tid == x.tid with | some l => l.snapshot | none => a.snapshot)

/-- The frame of a late fault, unless the thread has exited or its frame is live. (DEDUCED, log entry 23) -/
def lateFrame (s : State) (a : Access) (c : Byte) (parked : Bool) (tid : Nat) : State :=
  match s.team? a.team with
  | none => s
  | some t =>
    let s : State := s.drainPrivate t tid
    match s.thread? a.team tid with
    | none => s
    | some x =>
      if x.run = .exited then s
      else
        match s.frameLive t x with
        | none => s
        | some true => s.askPriv t tid (x.sfault.toNat + 10) 1
        | some false =>
          let s : State := s.askPriv t tid (x.sfault.toNat + 10) 1
          let f : FaultInfo := ⟨c, a.named, true, a.sizeCode, true, if c = 0x09 then (match a.space with | .window _ => 2 | _ => a.badClass) else 0, some a.code⟩
          match s.writeFrame t x (s.frameBytes x a.clause a.idx x.preds t.rgen (lateWindow a x) f false parked) with
          | .ok s' => s'
          | .error _ => s

/-- A late fault as a wave origin (R361), which ends a step of one of its threads (R371). -/
def lateOrigin (s : State) (a : Access) (t : Team) (c : Byte) : State :=
  let stepped := (charged a).any fun tid => s.inStep t.id tid
  let s : State := s.endStep (fun w => w.team == t.id && (charged a).any fun tid => w.tids.contains tid) c
  s.reach ⟨t.asid, a.clause, 16 + a.id, ⟨some t.core, t.die, some a.tid, c, (charged a).length, ((t.thread? a.tid).map (·.crew)).getD 0, t.slot, stepped⟩, s.now⟩

/-- A late fault in its fatal-mode outcome: the access is not performed, its counter falls, a load's destination is undefined;
then the halt wave or termination. -/
def lateFatal (s : State) (a : Access) (c : Byte) : State :=
  match s.team? a.team with
  | none => s
  | some t =>
    let s : State := s.dropAcc a.id
    let s : State :=
      if a.isStore then s.stFalls a
      else
        (charged a).foldl (fun s tid =>
          (s.writePending a.team tid a.id ((sizedCodes (if a.size = 8 then .b64 else if a.size = 16 then .b128 else .b32) a.dst).map
            fun r => (r, s.freeVal 7 (256 * tid + r.toNat)))).modThread a.team tid fun x => { x with ld := x.ld - 1 }) s
    let s : State := s.drawn
    if s.attached t.asid then s.lateOrigin a t c else s.terminateContext t.asid

/-- The outcome of a late fault, once its entry is written: the frames, and the access parks or takes its fatal-mode outcome (R152, R328). -/
def lateOutcome (s : State) (id : Nat) (c : Byte) (token : Nat) : State :=
  match s.acc? id with
  | none => s
  | some a =>
    match s.team? a.team with
    | none => s
    | some t =>
      let s : State := (charged a).foldl (fun s tid => s.lateFrame a c (token != 0) tid) s
      if token = 0 then s.lateFatal a c
      else
        let s : State := s.modAcc id fun y => { y with parked := some token, bad := some c }
        if (charged a).any fun tid => s.inStep t.id tid then s.lateOrigin a t c else s

/-- LATE_FAULT. (DEDUCED, log entry 62) -/
def lateFault (s : State) (id : Nat) : State :=
  match s.acc? id with
  | none => s
  | some a =>
    match s.failCause a, s.team? a.team with
    | some c, some t =>
      -- a failed translation is known before the access may be performed; a data error is found when the data is read
      let known := a.parked.isNone && (s.l1Hit a).isNone && (match s.accPhys a with | some (.error _) => true | _ => s.ready a)
      if !known || s.faultWaits (fun w => match w with | .late i _ _ => i == id | _ => false) then s
      else
        let (token, s) := s.parkToken a.asid c
        let lane := ((t.thread? a.tid).map (·.lane)).getD 0
        let crew := ((t.thread? a.tid).map (·.crew)).getD 0
        let cls := match s.accPhys a with | some (.ok ps) => (if c = 0x09 then (ps.map fun p => s.errorClass p.1 p.2).foldl max 0 else 0) | _ => a.badClass
        let s : State := s.modAcc id fun y => { y with bad := some c, badClass := cls }
        let (s, ok) := s.record t.die
          (fbEntry a.named a.asid c 0 (token != 0) (some a.code) t.core t.slot crew lane t.queue token) (.late id c token)
        if ok then s.lateOutcome id c token else s
    | _, _ => s

/-! ### Page walks (R326) -/

/-- TRANSLATION_WALK on a die: one of the walks that have a walker completes and fills the die's unit; every access of its 2 MiB region is
answered, as is every other agent that waits for it. -/
def translationWalk (s : State) (die : Nat) : State :=
  let ws := (s.walks.filter fun w => w.die == die).take 512
  match ws[s.choice ws.length]? with
  | none => s
  | some w =>
    let s : State := { s with walks := s.walks.filter (fun x => x != w), walked := if w.agent then s.walked ++ [w] else s.walked }.drawn
    let s : State := (s.askWalk w.asid w.addr).fillTlb die w.asid w.addr
    s.accs.foldl (fun s a =>
      if a.die ≠ die ∨ a.asid ≠ w.asid ∨ a.isMarker ∨ (s.l1Hit a).isSome ∨ (s.accPhys a).isSome then s
      else
        (s.pieces a).foldl (fun s (va, _) =>
          let va := va % 2 ^ 57
          if va / 2 ^ 21 ≠ w.addr / 2 ^ 21 ∨ (s.tlbFind die w.asid va).isSome then s
          else
            match s.walk die w.asid va with
            | .ok e => if permitted e a.use a.via then s.fillTlb die w.asid va else s.modAcc a.id fun y => { y with bad := some 0x07 }
            | .error c => s.modAcc a.id fun y => { y with bad := some c, badClass := if c = 0x09 then s.virtErrorClass die w.asid va 8 else 0 }) s) s

/-! ### Issuing an access -/

/-- Puts an access into the memory system: a release by its own order, or by a release fence its thread has executed (R270). -/
def pushAcc (s : State) (a : Access) : State :=
  let rel := a.releaseOf ((s.thread? a.team a.tid).bind (·.fenceRel))
  { s with
    accs := s.accs ++ [{ a with id := s.nextAcc, relAt := rel, after := if rel.isSome then s.pathOf a.core else [] }]
    nextAcc := s.nextAcc + 1 }

/-- The widest acquire fence that stands unguarded behind the instruction in its clause: a read in front of it is an acquire (R270). One
in a later clause orders the reads that are then still pending (DEDUCED, log entry 86). -/
def fenceAhead (sl : IssueSlot) : Option Scope :=
  ((sl.words.take (hdrN sl.hdr)).drop (sl.idx + 1)).foldl (fun m w =>
    match decodeWord w with
    | .ok (.fence g o sc) => if (o == .acq || o == .ar) && g.p == 7#3 && !g.neg then Access.widest m (some sc) else m
    | _ => m) none

/-- An acquire fence makes the thread's pending reads acquires (R270). -/
def fenceReads (s : State) (team tid : Nat) (sc : Scope) : State :=
  { s with accs := s.accs.map fun a =>
      if a.ofThread team tid && a.isLoad then { a with fenceAcq := Access.widest a.fenceAcq (some sc) } else a }

/-- An access of one thread of the group. -/
def mkAcc (s : State) (sl : IssueSlot) (t : Team) (x : Thread) (kind : AccKind) (space : Space) (addr named : Nat) (m : Size)
    (scope : Scope) (order : Order) (hint : Hint) : Access where
  id := 0
  kind := kind
  space := space
  addr := addr
  named := named
  size := m.bytes
  sizeCode := match m with | .b8 => 0 | .b16 => 1 | .b32 => 2 | .b64 => 3 | .b128 => 4
  scope := scope
  order := order
  relAt := none
  fenceAcq := fenceAhead sl
  hint := hint
  core := t.core
  team := t.id
  asid := t.asid
  tid := x.tid
  data := []
  cmp := 0
  dst := 0xFF#8
  slotDst := 0xFF#8
  lanes := []
  group := s.nextAcc
  clause := sl.clause
  idx := sl.idx
  snapshot := x.window
  bad := none
  badClass := 0
  parked := none
  after := []
  half := none
  served := none
  taken := none
  asked := false

end State

end Sys2Proof.Machine
end

