-- ==== Sys2Proof/Machine/MemInstr.lean ====
section
/-! DEFINITION. Memory instructions: opcodes 0x40 to 0x4C (R150 to R165), and the steps of the memory system. -/

namespace Sys2Proof.Machine

/-! ### Addresses (R151) -/

/-- A 64-bit address from a pair. -/
def globalAddr (x : Thread) (c : Crew) (base : Reg) (off : BitVec 11) (m : Size) : Nat :=
  (readPair x c base + off.signExtend 64 * BitVec.ofNat 64 m.bytes).toNat
/-- A 32-bit address from a register. -/
def localAddr (x : Thread) (c : Crew) (base : Reg) (off : BitVec 11) (m : Size) : Nat :=
  (readReg x c base + off.signExtend 32 * BitVec.ofNat 32 m.bytes).toNat

/-- The share a window address names, and the offset in it (R246): none outside the cluster's rectangle or a released share. -/
def State.windowTarget (s : State) (t : Team) (a : Nat) : Option (Team × Nat) :=
  match s.cluster? t.cluster with
  | none => none
  | some c =>
    let dx := sextNat 3 (bits 21 19 a)
    let dy := sextNat 3 (bits 24 22 a)
    let x : Int := (t.core % 32 : Nat) + dx
    let y : Int := (t.core / 32 % 32 : Nat) + dy
    if a / 2 ^ 25 ≠ 0 ∨ x < (c.x : Int) ∨ (c.x + c.w : Int) ≤ x ∨ y < (c.y : Int) ∨ (c.y + c.h : Int) ≤ y then none
    else
      let core := c.die * 1024 + y.toNat * 32 + x.toNat
      (s.teams.find? fun u => u.cluster == t.cluster && u.core == core && u.res == .resident).map fun u => (u, a % 2 ^ 19)

/-- Where an LDS, STS or ATOMS acts (Table 8.2): the space, the address there, or the fault. -/
def State.localSpace (s : State) (t : Team) (x : Thread) (scope : Scope) (a : Nat) (m : Size) : Except Byte (Space × Nat) :=
  if scope = .crew then
    if s.privSize t < a + m.bytes then .error 0x13 else .ok (.priv, privVirt t x.tid a)
  else
    match s.windowTarget t a with
    | none => .error 0x08
    | some (u, o) => if u.scratchBytes < o + m.bytes then .error 0x08 else .ok (.window u.id, o)

/-- The lane of each crew whose value a k register takes (R51). -/
def kWriter (ls : List Thread) (x : Thread) : Bool :=
  match lowestLane (ls.filter fun y => y.crew == x.crew) with
  | some y => y.tid == x.tid
  | none => false

/-- The destination of one lane's access. -/
def laneDst (ls : List Thread) (x : Thread) (d : Reg) : Reg := if isK d && !kWriter ls x then 0xFF#8 else d

namespace State

/-- The bytes of a store's data register, pair or quad. -/
def dataBytes (x : Thread) (c : Crew) (r : Reg) (m : Size) : List Byte :=
  match m with
  | .b64 => toBytes 8 (readPair x c r).toNat
  | .b128 => if r = 0xFF#8 then toBytes 16 0
             else toBytes 16 (((List.range 4).map fun i => (readReg x c (r + BitVec.ofNat 8 i)).toNat * 2 ^ (32 * i)).foldl (· + ·) 0)
  | m => toBytes m.bytes (readReg x c r).toNat

/-- A thread's access issues: it is queued, its counter rises, its destination is pending (R55, R56). A k register of its destination is
not remembered as pending: it takes the loaded value at the return (DESIGN CHOICE, notes/assumptions/11.md). -/
def issueLoad (s : State) (a : Access) (grp : Nat) (codes : List Reg) : State :=
  let id := s.nextAcc
  (s.pushAcc { a with group := grp }).modThread a.team a.tid fun x =>
    { x with
      ld := x.ld + 1
      winSeen := x.winSeen || (match a.space with | .window _ => true | _ => false)
      pend := x.pend ++ (codes.filter isV).map fun r => ⟨r.toNat, id, false⟩ }
def issueStore (s : State) (a : Access) (grp : Nat) : State :=
  (s.pushAcc { a with group := grp }).modThread a.team a.tid fun x => { x with st := x.st + 1 }

def sizeCodeOf (m : Size) : Nat := match m with | .b8 => 0 | .b16 => 1 | .b32 => 2 | .b64 => 3 | .b128 => 4

/-- Steps 2 and 3 of R152 on a global address, then `k`. -/
def checkGlobal (s : State) (sl : IssueSlot) (x : Thread) (a : Nat) (m : Size) (access : Nat) (k : State) : State :=
  if a % m.bytes ≠ 0 then s.deliver sl.team x.tid sl.clause sl.idx (accessFault 0x12 a (sizeCodeOf m) access)
  else if !canonical a then s.deliver sl.team x.tid sl.clause sl.idx (accessFault 0x06 a (sizeCodeOf m) access)
  else k

/-- Steps 2 and 3 of R152 on a private or window address, then `k`. -/
def checkLocal (s : State) (sl : IssueSlot) (t : Team) (x : Thread) (scope : Scope) (a : Nat) (m : Size) (access : Nat)
    (k : Space → Nat → State) : State :=
  if a % m.bytes ≠ 0 then s.deliver sl.team x.tid sl.clause sl.idx (accessFault 0x12 a (sizeCodeOf m) access)
  else
    match s.localSpace t x scope a m with
    | .error c => s.deliver sl.team x.tid sl.clause sl.idx (accessFault c a (sizeCodeOf m) access)
    | .ok (sp, addr) => k sp addr

/-- Does an atomic form trap at the team's level (Table 8.4)? -/
def atomTraps (s : State) (t : Team) (op : AtomOp) (scope : Scope) (returns : Bool) : Bool :=
  decide (1 ≤ s.detLevel t) &&
    (op == .fadd || (decide (scope ≠ .crew ∧ scope ≠ .team) && (op == .cas || op == .exch || returns)))

/-- A bring-in of the line that holds a global address (R158); one whose translation is missing asks for the walk, and brings in nothing.
(DEDUCED, log entry 31) -/
def prefetch (s : State) (t : Team) (a : Nat) (hint : Hint) : State :=
  if !s.freeBit 2 0 then s.drawn
  else if canonical a && (s.tlbFind t.die t.asid a).isNone then
    (if s.walks.any (walkIn t.die t.asid a) then s else { s with walks := s.walks ++ [⟨t.die, t.asid, a % 2 ^ 57, false⟩] }).drawn
  else
    match s.translate t.die t.asid a .read .program with
    | .ok pa =>
      if hint = .l2 then s.drawn
      else ((List.range 4).foldl (fun s i => s.l1Fill t.core t.asid .program (a / 128 * 128 + 32 * i) (pa / 128 * 128 + 32 * i) (hint == .strm)) s).drawn
    | .error _ => s.drawn

/-- May a thread sleep on a line: its core has an entry, or the slice's table has room (R262)? -/
def watchRoom (s : State) (line core : Nat) : Bool :=
  s.watch.any (fun w => w.line == line && w.core == core && !w.fired) ||
    decide (((s.watch.filter fun w => !w.fired && s.sliceOf w.line == s.sliceOf line)).length < Config.watchEntries)

def addSleeper (s : State) (line core team tid : Nat) : State :=
  if s.watch.any fun w => w.line == line && w.core == core && !w.fired then
    { s with watch := s.watch.map fun w =>
        if w.line = line ∧ w.core = core ∧ !w.fired then { w with sleepers := w.sleepers ++ [(team, tid)] } else w }
  else { s with watch := s.watch ++ [⟨line, core, [(team, tid)], false⟩] }

/-- MWAIT of one thread (R164): sleep, or end at once. A thread whose job a halt wave has frozen meanwhile does not sleep: it stands at MWAIT,
which it executes again after the resume (R364). -/
def mwaitThread (s : State) (sl : IssueSlot) (t : Team) (x : Thread) (a : Nat) : State :=
  match x.watch with
  | none => s
  | some (line, seq) =>
    match s.translate t.die t.asid a .read .program with
    | .error _ => s
    | .ok pa =>
      let s : State := s.cacheWalks t.die t.asid .read .program [a]
      if s.frozen t.asid then
        (s.modThread sl.team x.tid fun x => { x with clause := sl.clause, idx := sl.idx, stamp := none }).leaveGroup sl.team x.tid
      else if pa / 128 ≠ line ∨ (tabGet LineRec.none line s.lines).seq ≠ seq ∨ !s.watchRoom line t.core then s
      else (s.addSleeper line t.core t.id x.tid).sleep sl x.tid (.monitor line)

/-- Wakes the sleepers of the entries that a write or an invalidation has fired, and frees the entries (R262). -/
def mwaitWake (s : State) (line : Nat) : State :=
  let ws := s.watch.filter fun w => w.line == line && w.fired
  let s : State := { s with watch := s.watch.filter fun w => !(w.line == line && w.fired) }
  (ws.map (·.sleepers)).flatten.foldl (fun s (tm, tid) =>
    match s.thread? tm tid with
    | some x => if x.run = .asleep (.monitor line) then s.wake tm tid [] else s
    | none => s) s

/-- SPILL or FILL of the group (R165): one access per crew at the address of its lowest active lane. -/
def spillOp (s : State) (g : Guard) (hint : Hint) (off : BitVec 11) (r base : Reg) (isSpill : Bool) : State :=
  s.withLanes g [r, base] fun s sl t ls =>
    let crews := (ls.map (·.crew)).eraseDups
    let grp := s.nextAcc
    crews.foldl (fun s cr =>
      let mine := ls.filter fun x => x.crew == cr
      match lowestLane mine with
      | none => s
      | some lead =>
        let a := localAddr lead (t.crewOf lead) base off .b32
        let bad : Option Byte := if a % 4 ≠ 0 then some 0x12 else if s.spillSize t < a + 132 then some 0x13 else none
        match bad with
        | some c => mine.foldl (fun s x => s.deliver sl.team x.tid sl.clause sl.idx (accessFault c a 2 (b2n isSpill))) s
        | none =>
          let lanes := mine.map fun x => (⟨x.tid, x.lane, readReg x (t.crewOf x) r, x.window⟩ : SpillLane)
          let dst : Reg := if isSpill then 0xFF#8 else r
          let acc := { mkAcc s sl t lead (if isSpill then .spill else .fill) .spillSp (t.spillBase + cr * s.spillSize t + a) a .b32
            .crew .rlx hint with lanes := lanes, group := grp, dst := dst, slotDst := dst }
          let id := s.nextAcc
          mine.foldl (fun s x => s.modThread sl.team x.tid fun x =>
            if isSpill then { x with st := x.st + 1 }
            else { x with ld := x.ld + 1, pend := x.pend ++ [⟨r.toNat, id, false⟩] }) (s.pushAcc acc)) s

end State

/-! ### Meanings -/

/-- LD (R156): loads from global memory. -/
def execLd (g : Guard) (sx : Bool) (m : MemF) (r base : Reg) (s : State) : Result :=
  .next (s.withLanes g (sizedCodes m.size r ++ pairCodes base) fun s sl t ls =>
    (ls.foldl (fun s' x =>
      let a := globalAddr x (t.crewOf x) base m.off m.size
      let d := laneDst ls x r
      s'.checkGlobal sl x a m.size 0
        (s'.issueLoad { s'.mkAcc sl t x (.load sx) .global a a m.size m.scope m.order m.hint with dst := d, slotDst := r } s.nextAcc (sizedCodes m.size d))) s).settle)

/-- ST (R156): stores to global memory; the data is read at issue (R153). -/
def execSt (g : Guard) (m : MemF) (r base : Reg) (s : State) : Result :=
  .next (s.withLanes g (sizedCodes m.size r ++ pairCodes base) fun s sl t ls =>
    (ls.foldl (fun s' x =>
      let a := globalAddr x (t.crewOf x) base m.off m.size
      s'.checkGlobal sl x a m.size 1
        (s'.issueStore { s'.mkAcc sl t x .store .global a a m.size m.scope m.order m.hint with
          data := State.dataBytes x (t.crewOf x) r m.size } s.nextAcc)) s).settle)

/-- LDS: private space at scope crew, the scratchpad window at a wider scope. -/
def execLds (g : Guard) (sx : Bool) (m : MemF) (r base : Reg) (s : State) : Result :=
  .next (s.withLanes g (sizedCodes m.size r ++ [base]) fun s sl t ls =>
    (ls.foldl (fun s' x =>
      let a := localAddr x (t.crewOf x) base m.off m.size
      let d := laneDst ls x r
      s'.checkLocal sl t x m.scope a m.size 0 fun sp addr =>
        s'.issueLoad { s'.mkAcc sl t x (.load sx) sp addr a m.size m.scope m.order m.hint with dst := d, slotDst := r } s.nextAcc (sizedCodes m.size d)) s).settle)

def execSts (g : Guard) (m : MemF) (r base : Reg) (s : State) : Result :=
  .next (s.withLanes g (sizedCodes m.size r ++ [base]) fun s sl t ls =>
    (ls.foldl (fun s' x =>
      let a := localAddr x (t.crewOf x) base m.off m.size
      s'.checkLocal sl t x m.scope a m.size 1 fun sp addr =>
        s'.issueStore { s'.mkAcc sl t x .store sp addr a m.size m.scope m.order m.hint with
          data := State.dataBytes x (t.crewOf x) r m.size } s.nextAcc) s).settle)

/-- LDP (R157): reads the dispatcher's copy of the parameter area. -/
def execLdp (g : Guard) (size : Size) (off : BitVec 11) (r base : Reg) (s : State) : Result :=
  .next (s.withLanes g (sizedCodes size r ++ [base]) fun s sl t ls =>
    (ls.foldl (fun s' x =>
      let a := localAddr x (t.crewOf x) base off size
      let d := laneDst ls x r
      let psize := ((s'.grid? t.grid).map fun gr => gr.launch.paramSize).getD 0
      if a % size.bytes ≠ 0 then s'.deliver sl.team x.tid sl.clause sl.idx (accessFault 0x12 a (State.sizeCodeOf size) 0)
      else if psize < a + size.bytes then s'.deliver sl.team x.tid sl.clause sl.idx (accessFault 0x07 a (State.sizeCodeOf size) 0)
      else s'.issueLoad { s'.mkAcc sl t x (.load false) .param a a size .crew .rlx .normal with dst := d, slotDst := r } s.nextAcc (sizedCodes size d)) s).settle)

/-- PREF (R158): a hint; it never faults past step 1 of R152. -/
def execPref (g : Guard) (hint : Hint) (off : BitVec 11) (base : Reg) (s : State) : Result :=
  .next (s.withLanes g (pairCodes base) fun s _ t ls =>
    ls.foldl (fun s x => s.prefetch t (globalAddr x (t.crewOf x) base off .b8) hint) s)

/-- ATOM (R159 to R162): d is read at issue as the compare value. The determinism fault 0x0A comes before the alignment and bounds faults of
the same access, here and in ATOMS, RED and REDS (DESIGN CHOICE, log entry 19). -/
def execAtom (g : Guard) (op : AtomOp) (m : MemF) (d r base : Reg) (s : State) : Result :=
  .next (s.withLanes g (sizedCodes m.size d ++ sizedCodes m.size r ++ pairCodes base) fun s sl t ls =>
    (ls.foldl (fun s' x =>
      let a := globalAddr x (t.crewOf x) base m.off m.size
      let dst := laneDst ls x d
      if s'.atomTraps t op m.scope (d != 0xFF#8) then s'.deliver sl.team x.tid sl.clause sl.idx (plainFault 0x0A)
      else s'.checkGlobal sl x a m.size 2
        (s'.issueLoad { s'.mkAcc sl t x (.atom op) .global a a m.size m.scope m.order m.hint with
          dst := dst, slotDst := d, data := State.dataBytes x (t.crewOf x) r m.size,
          cmp := BitVec.ofNat 64 (ofBytes (State.dataBytes x (t.crewOf x) d m.size)) } s.nextAcc (sizedCodes m.size dst))) s).settle)

def execAtoms (g : Guard) (op : AtomOp) (m : MemF) (d r base : Reg) (s : State) : Result :=
  .next (s.withLanes g (sizedCodes m.size d ++ sizedCodes m.size r ++ [base]) fun s sl t ls =>
    (ls.foldl (fun s' x =>
      let a := localAddr x (t.crewOf x) base m.off m.size
      let dst := laneDst ls x d
      if s'.atomTraps t op m.scope (d != 0xFF#8) then s'.deliver sl.team x.tid sl.clause sl.idx (plainFault 0x0A)
      else s'.checkLocal sl t x m.scope a m.size 2 fun sp addr =>
        s'.issueLoad { s'.mkAcc sl t x (.atom op) sp addr a m.size m.scope m.order m.hint with
          dst := dst, slotDst := d, data := State.dataBytes x (t.crewOf x) r m.size,
          cmp := BitVec.ofNat 64 (ofBytes (State.dataBytes x (t.crewOf x) d m.size)) } s.nextAcc (sizedCodes m.size dst)) s).settle)

/-- RED: an atomic that returns nothing and counts in `st`. -/
def execRed (g : Guard) (op : AtomOp) (m : MemF) (r base : Reg) (s : State) : Result :=
  .next (s.withLanes g (sizedCodes m.size r ++ pairCodes base) fun s sl t ls =>
    (ls.foldl (fun s' x =>
      let a := globalAddr x (t.crewOf x) base m.off m.size
      if s'.atomTraps t op m.scope false then s'.deliver sl.team x.tid sl.clause sl.idx (plainFault 0x0A)
      else s'.checkGlobal sl x a m.size 2
        (s'.issueStore { s'.mkAcc sl t x (.red op) .global a a m.size m.scope m.order m.hint with
          data := State.dataBytes x (t.crewOf x) r m.size } s.nextAcc)) s).settle)

/-- FENCE (R163): the holding happens in the thread's memory queue, not at issue; after a release fence the thread's later writes are
releases at its scope, and the reads that an acquire fence finds pending are acquires at it (R270). After a load from a window a fence of
scope team reaches the cluster (R266). -/
def execFence (g : Guard) (order : Order) (scope : Scope) (s : State) : Result :=
  .next (s.withLanes g [] fun s sl t ls =>
    (ls.foldl (fun s x =>
      let s : State := if order = .acq ∨ order = .ar then s.fenceReads t.id x.tid scope else s
      (s.pushAcc (s.mkAcc sl t x .fence (if x.winSeen then .window t.id else .global) 0 0 .b8 scope order .normal)).modThread sl.team x.tid fun x =>
        if order = .rel ∨ order = .ar then { x with fenceRel := some ((x.fenceRel.map (widerScope scope)).getD scope) } else x) s).settle)

/-- MWAIT (R164). -/
def execMwait (g : Guard) (size : Size) (off : BitVec 11) (base : Reg) (s : State) : Result :=
  .next (s.withLanes g (pairCodes base) fun s sl t ls =>
    ls.foldl (fun s x =>
      let a := globalAddr x (t.crewOf x) base off size
      if a % size.bytes ≠ 0 then s.deliver sl.team x.tid sl.clause sl.idx (accessFault 0x12 a (State.sizeCodeOf size) 0)
      else s.mwaitThread sl t x a) s)

def execSpill (g : Guard) (hint : Hint) (off : BitVec 11) (r base : Reg) (s : State) : Result :=
  .next ((s.spillOp g hint off r base true).settle)

def execFill (g : Guard) (hint : Hint) (off : BitVec 11) (r base : Reg) (s : State) : Result :=
  .next ((s.spillOp g hint off r base false).settle)

/-- A load, fill or returning atomic writes its destination and `ld` falls (R56). -/
def execLoadReturn (acc : Nat) (s : State) : Result := .next (s.loadReturn acc).settle

/-- A store, spill or reduction is accepted and `st` falls (R56). -/
def execStoreAccept (acc : Nat) (s : State) : Result := .next (s.storeAccept acc).settle

/-- An access's late check fails (R152). -/
def execLateFault (acc : Nat) (s : State) : Result := .next (s.lateFault acc).settle

/-- A queued page-table walk completes (R326). -/
def execTranslationWalk (die : Nat) (s : State) : Result := .next (s.translationWalk die).settle

/-- Sleepers on a line wake (R262). -/
def execMwaitWake (line : Nat) (s : State) : Result := .next (s.mwaitWake line)

end Sys2Proof.Machine
end

