-- ==== Sys2Proof/Machine/Control.lean ====
section
/-! DEFINITION. Control flow: opcodes 0xA0 to 0xA7 (R114 to R125). -/

namespace Sys2Proof.Machine

namespace State

/-- A transfer of one thread from index `idx` of its clause to an aligned target (R75, R77): a target that fails the check is charged to it,
otherwise `link` (T, the link register and its value) is written, the call depth moves, and the thread stands at the target. -/
def jump (s : State) (team tid clause idx target : Nat) (link : Option (Bool × Reg × Word)) (depth : BitVec 16) : State :=
  match s.team? team with
  | none => s
  | some t =>
    match s.landing t.core t.asid target with
    | .error c => (s.fetched t.core t.asid target 1).deliver team tid clause idx (s.codeFault t.die t.asid c target)
    | .ok hdr =>
      let s : State := s.modThread team tid fun x =>
        let x := { x with callDepth := x.callDepth + depth }
        match link with
        | some (tb, d, v) => if isV d then writeV tb idx x d v else x
        | none => x
      s.enterClause team tid target 0 hdr

/-- A transfer of a thread of the group in the issue slot; an ICSYNC in hand holds it in front of the target (R223). -/
def transfer (s : State) (sl : IssueSlot) (tid target : Nat) (link : Option (Bool × Reg × Word)) (depth : BitVec 16) : State :=
  if target % 16 ≠ 0 then s.deliver sl.team tid sl.clause sl.idx (targetFault 0x03 target)
  else if s.holdsEntry sl.team tid then s.holdArrival sl.team tid sl.clause sl.idx (.jump target link depth)
  else s.jump sl.team tid sl.clause sl.idx target link depth

/-- H + 16 × sext(imm32) of R114. -/
def branchTarget (clause : Nat) (imm : Word) : Nat := (BitVec.ofNat 64 clause + imm.signExtend 64 * 16#64).toNat

/-- Address of a code index in a context's window (R61). -/
def codeAddress (s : State) (asid : Nat) (x : Word) : Nat := (s.window asid + 16 * x.toNat) % 2 ^ 64

/-- The return index of a clause (R115). -/
def returnIndex (s : State) (asid clause : Nat) (hdr : DWord) : Word :=
  BitVec.ofNat 32 ((clause + footprint (hdrN hdr) - s.window asid) / 16)

/-- The end of a thread (R123): it leaves its clause and never issues again; a live frame means it ended by fault (R241). -/
def exitThread (s : State) (team tid : Nat) : State :=
  match s.team? team with
  | none => s
  | some t =>
    let s : State := s.drainPrivate t tid
    let look := (s.thread? team tid).bind fun x => (s.frameLive t x).map fun live => (x.sfault.toNat + 10, live)
    let live := match look with | some (_, live) => live | none => false
    let s : State := match look with | some (a, _) => s.askPriv t tid a 1 | none => s
    (s.modThread team tid fun x =>
      { x with run := .exited, stamp := none, hold := none, watch := none, yielded := false, arrive := none, endedByFault := x.endedByFault || live }).leaveGroup team tid

/-- CALLX of one thread (R120): the entry read, an 8-byte load with acquire order at device scope, then the target. The frame of a fault
of the read gives it as that load: access size 3, access read (DEDUCED, log entry 18). A step issues CALLX only once that load may be performed
(`stalled`). -/
def callxThread (s : State) (sl : IssueSlot) (t : Team) (tid : Nat) (tb : Bool) (d : Reg) (link a : Word) (entry : Nat) : State :=
  let e := s.window t.asid + 16 * (a.toNat + entry)
  let bad (c : Byte) : State := s.deliver sl.team tid sl.clause sl.idx
    { accessFault c e 3 0 with detail := if c = 0x09 then s.virtErrorClass t.die t.asid e 8 else 0 }
  if 2 ^ 32 ≤ a.toNat + entry then bad 0x07
  else
    match s.readVirt t.die t.asid e 8 .entry .program with
    | .error c => bad c
    | .ok bs =>
      (((s.askVirt t.die t.asid e 8 .entry .program).l1Drop t.core t.asid).cacheWalks t.die t.asid .entry .program [e]).transfer sl tid (ofBytes bs)
        (some (tb, d, link)) 1#16

end State

def execBra (g : Guard) (imm : Word) (s : State) : Result :=
  .next (s.withLanes g [] fun s sl _ ls => ls.foldl (fun s x => s.transfer sl x.tid (State.branchTarget sl.clause imm) none 0#16) s)

def execBrx (g : Guard) (a : Reg) (s : State) : Result :=
  .next (s.withLanes g [a] fun s sl t ls =>
    ls.foldl (fun s x => s.transfer sl x.tid (s.codeAddress t.asid (readReg x (t.crewOf x) a)) none 0#16) s)

def execCall (g : Guard) (d : Reg) (imm : Word) (s : State) : Result :=
  .next (s.withLanes g [d] fun s sl t ls =>
    ls.foldl (fun s x => s.transfer sl x.tid (State.branchTarget sl.clause imm) (some (false, d, s.returnIndex t.asid sl.clause sl.hdr)) 1#16) s)

def execCallx (g : Guard) (d : LinkReg) (a : Reg) (entry : BitVec 11) (s : State) : Result :=
  .next (s.withLanes g [d.reg, a] fun s sl t ls =>
    ls.foldl (fun s x =>
      s.callxThread sl t x.tid d.t d.reg (s.returnIndex t.asid sl.clause sl.hdr) (readReg x (t.crewOf x) a) entry.toNat) s)

def execRet (g : Guard) (a : Reg) (s : State) : Result :=
  .next (s.withLanes g [a] fun s sl t ls =>
    ls.foldl (fun s x =>
      let v := readReg x (t.crewOf x) a
      if v = 0xFFFFFFFF#32 then s.exitThread sl.team x.tid
      else s.transfer sl x.tid (s.codeAddress t.asid v) none 0xFFFF#16) s)

def execExit (g : Guard) (s : State) : Result :=
  .next (s.withLanes g [] fun s sl _ ls => ls.foldl (fun s x => s.exitThread sl.team x.tid) s)

/-- NOP only advances the thread (R124). -/
def execNop (g : Guard) (s : State) : Result :=
  .next (s.withLanes g [] fun s _ _ _ => s)

/-- YIELD (R124): the yield of R231 at the end of the current clause. -/
def execYield (g : Guard) (s : State) : Result :=
  .next (s.withLanes g [] fun s sl _ ls => ls.foldl (fun s x => s.modThread sl.team x.tid fun x => { x with yielded := true }) s)

/-- The yield hold of R231 is lifted once its time has come. -/
def execYieldHoldExpiry (team tid : Nat) (s : State) : Result :=
  .next (match s.team? team with
    | none => s
    | some t => s.modThread team tid fun x =>
        match x.hold with
        | some h => if t.res = .resident ∧ h ≤ s.cycles t.core then { x with hold := none } else x
        | none => x)

end Sys2Proof.Machine
end

