-- ==== Sys2Proof/Machine/Crew.lean ====
section
/-! DEFINITION. Cross-lane, barrier, ticket, granule, wait and regroup instructions: opcodes 0x60 to 0x6B (R166 to R182), and the
steps BARRIER_PHASE_COMPLETE, REGROUP_STEP and GRANULE_GRANT. -/

namespace Sys2Proof.Machine

/-! ### What the crew operations compute (R167 to R171) -/

/-- Source lane of SHFL (R168). -/
def shflSource (m : ShflMode) (w j x : Nat) : Nat :=
  let g := j - j % w
  let o := j % w
  match m with
  | .from => g + x % w
  | .rot => g + (o + x) % w
  | .rev => g + (w - 1 - o)
  | .swap => g + (o ^^^ (x % w))

/-- The word of a vote: bit j set when lane j's participant has a true source. -/
def voteMask (ps : List Thread) (src : PSrc) : Nat :=
  (ps.filter fun x => srcOf x.preds src).foldl (fun m x => m ||| 2 ^ x.lane) 0

def voteTest (c : VoteCond) (n p : Nat) : Bool :=
  match c with
  | .none => n == 0
  | .some => decide (1 ≤ n)
  | .every => n == p
  | .mixed => decide (0 < n) && decide (n < p)

/-- CREDUX (R171): integer operations fold; fadd rounds the exact sum once; fmin and fmax fold by R132. -/
def creduxOf (op : CredOp) (vs : List Word) : Word :=
  match vs with
  | [] => 0
  | v :: rest =>
    match op with
    | .add => rest.foldl (· + ·) v
    | .minU => rest.foldl (minOf false) v
    | .minS => rest.foldl (minOf true) v
    | .maxU => rest.foldl (maxOf false) v
    | .maxS => rest.foldl (maxOf true) v
    | .and => rest.foldl (· &&& ·) v
    | .or => rest.foldl (· ||| ·) v
    | .xor => rest.foldl (· ^^^ ·) v
    | .fadd => to32 .rne (rest.foldl (fun a b => FVal.add false a (dec32 b)) (dec32 v))
    | .fmin => rest.foldl fminOf (fminOf v v)
    | .fmax => rest.foldl fmaxOf (fmaxOf v v)

namespace State

/-- A lane-wise instruction whose result also depends on the participants: the able lanes of the group and their team. -/
def crewOp (s : State) (g : Guard) (tb : Bool) (codes : List Reg) (f : List Thread → Team → Thread → Crew → LaneOut) : State :=
  match s.issue with
  | none => s
  | some sl =>
    match s.team? sl.team with
    | none => s
    | some t => s.laneOp g tb codes (f (t.able sl g codes) t)

/-! ### Barriers (R173, R174, R239) -/

/-- The barrier of a level and index as one thread names it. -/
def barOf (t : Team) (x : Thread) (level : BarLevel) (index : Nat) : BarRef :=
  ⟨level, match level with | .crew | .team => t.id | .cluster => t.cluster | .grid => t.grid, if level = .crew then x.crew else 0, index⟩

def barScope : BarLevel → Scope
  | .crew => .crew | .team => .team | .cluster => .cluster | .grid => .device

def cohort (s : State) (t : Team) : Bool := ((s.grid? t.grid).map fun g => g.launch.cohort).getD false

def recOf (x : Thread) (b : BarRef) : Option Nat :=
  (x.bars.find? fun r => r.level == b.level && r.index == b.index).map (·.phase)

/-- The end of a wait: the record becomes idle, and at cluster and grid level the core's L1 lines of the context go (R174). -/
def endWait (s : State) (t : Team) (tid : Nat) (b : BarRef) : State :=
  let s : State := s.modThread t.id tid fun x => { x with bars := x.bars.filter fun r => !(r.level == b.level && r.index == b.index) }
  match b.level with | .cluster | .grid => s.l1Drop t.core t.asid | _ => s

/-- BAR of one thread. -/
def barThread (s : State) (sl : IssueSlot) (t : Team) (x : Thread) (op : BarOp) (level : BarLevel) (index : Nat) : State :=
  let b := barOf t x level index
  let fault : State := s.deliver sl.team x.tid sl.clause sl.idx (plainFault 0x14)
  if level = .grid ∧ !s.cohort t then fault
  else
    match op, recOf x b with
    | .wait, none => fault
    | .wait, some p => if p < (s.bar b).phase then s.endWait t x.tid b else s.sleep sl x.tid (.bar b p)
    | _, some _ => fault
    | op, none =>
      let p := (s.bar b).phase
      let s : State := s.modThread sl.team x.tid fun x => { x with bars := x.bars ++ [⟨level, index, p⟩] }
      let s : State := s.pushAcc (s.mkAcc sl t x (.arrive b) .global 0 0 .b8 (barScope level) .rel .normal)
      if op = .sync then s.sleep sl x.tid (.bar b p) else s

/-- Member threads of a barrier that have not exited (Table 12.4). -/
def members (s : State) (b : BarRef) : List Thread :=
  ((s.teams.filter fun t => t.res != .retired &&
      (match b.level with | .crew | .team => t.id == b.owner | .cluster => t.cluster == b.owner | .grid => t.grid == b.owner)).map
    fun t => t.threads.filter fun x => x.run != .exited && (b.level != .crew || x.crew == b.crew)).flatten

/-- Is the phase complete: every non-exited member has arrived and every expected signal has landed, and at least one arrival or
signal has landed (R173); of a grid phase the clusters still to be placed hold members too (R239), and a launch on both dies completes none while the bridge stands in a relock
(R174, R311). -/
def phaseDone (s : State) (b : BarRef) : Bool :=
  let x := s.bar b
  (decide (0 < x.arrivals) || decide (0 < x.signals)) && x.signals == x.expected &&
  ((s.members b).all fun y => recOf y b == some x.phase) &&
  !(s.accs.any fun a => a.kind == .arrive b) &&
  (b.level != .grid || (match s.grid? b.owner with | some g => decide (g.launch.clusters ≤ g.placed) && !s.bridgeStalled g | none => true))

/-- Wakes the threads of a team whose wait at a barrier is over: at one barrier, or at any. -/
def wakeBars (s : State) (t : Team) (at_ : Option BarRef) : State :=
  (t.threads.filterMap fun x => match x.run with | .asleep (.bar b p) => if (at_ = none ∨ at_ = some b) ∧ p < (s.bar b).phase then some (x.tid, b) else none | _ => none).foldl
    (fun s (tid, b) => (s.endWait t tid b).wake t.id tid []) s

/-- The completion of a cluster barrier phase covers the gang parts whose signal it took (R203), and in the same way the tile of a MISSUE with
signal, where R43 has the TWAIT that covers it (DESIGN CHOICE, log entry 98). -/
def coverParts (s : State) (b : BarRef) : State :=
  if b.level ≠ .cluster then s
  else
    { s with teams := s.teams.map fun t =>
        if t.cluster = b.owner then
          { t with tiles := t.tiles.map fun k => { k with opens := k.opens.filter fun o =>
              !(o.bar == some b.index) || (s.engs.any fun e => e.id == o.op) } }
        else t }

/-- Does the completion of a phase reach a core in this step (R240)? That of a crew or team barrier does; when that of a cluster or grid barrier
does is unspecified, and one of a grid on both dies waits while the bridge stands in a relock. -/
def reaches (s : State) (b : BarRef) (core : Nat) : Bool :=
  match b.level with
  | .crew | .team => true
  | .cluster => s.freeBit 41 core
  | .grid => !((s.grid? b.owner).any s.bridgeStalled) && s.freeBit 41 core

/-- A phase that is done completes, and the members of each core that a completion reaches are woken. -/
def phaseComplete (s : State) (b : BarRef) : State :=
  let b := if b.level = .crew then b else { b with crew := 0 }
  let s : State := if s.phaseDone b then (s.modBar b fun x => ⟨x.phase + 1, 0, 0, 0⟩).coverParts b else s
  (s.teams.filter fun t => t.res == .resident && s.reaches b t.core).foldl (fun s t => s.wakeBars t (some b)) s

/-! ### Granules (R50, R177, R243) -/

/-- Granules of a core that no resident crew holds. -/
def freeGranules (s : State) (core : Nat) : Nat :=
  Config.coreGranules -
    ((s.teams.filter fun t => t.core == core && t.res == .resident).map fun t => (t.crews.map fun c => 1 + c.granules).foldl (· + ·) 0).foldl (· + ·) 0

/-- The crews of a core that wait in REGGROW `.blk`: rank (age, lane, crew, team slot), team, crew, total wanted. -/
def growWaiters (s : State) (core : Nat) : List (Nat × Nat × Nat × Nat) :=
  ((s.teams.filter fun t => t.core == core && t.res == .resident).map fun t =>
    t.crews.filterMap fun c =>
      match lowestLane (t.threads.filter fun x => x.crew == c.slot && (match x.run with | .asleep (.grow ..) => true | _ => false)) with
      | some x => match x.run with
        | .asleep (.grow n age) => some (((age * 64 + x.lane) * 64 + c.slot) * 16 + t.slot, t.id, c.slot, n)
        | _ => none
      | none => none).flatten

/-- The entry of lowest rank. -/
def firstRank : List (Nat × Nat × Nat × Nat) → Option (Nat × Nat × Nat × Nat)
  | [] => none
  | w :: ws => match firstRank ws with
    | some v => if v.1 < w.1 then some v else some w
    | none => some w

def granulesOf (s : State) (team crew : Nat) : Nat := (((s.team? team).bind fun t => t.crew? crew).map (·.granules)).getD 0

/-- Gives a crew its granules up to n; the new ones hold undefined values (R50). -/
def growCrew (s : State) (team crew n : Nat) : State :=
  let (fill, s) := s.fresh
  let old := s.granulesOf team crew
  s.modTeam team fun t =>
    let t := t.modCrew crew fun c => { c with granules := n, fills := c.fills ++ [(old, fill)] }
    { t with threads := t.threads.map fun x =>
        if x.crew = crew then
          { x with regs := (List.range (32 * (n - old))).foldl (fun r i =>
              tabPut 0#32 (32 * (1 + old) + i) (Config.undefWord fill (x.tid * 256 + 32 * (1 + old) + i)) r) x.regs }
        else x }

/-- Takes a crew's granules above n back; their values are lost (R177). -/
def shrinkCrew (s : State) (team crew n : Nat) : State :=
  s.modTeam team fun t =>
    let t := t.modCrew crew fun c => { c with granules := n, fills := c.fills.filter fun f => decide (f.1 < n) }
    { t with threads := t.threads.map fun x =>
        if x.crew = crew then
          { x with
            regs := x.regs.filter fun r => decide (r.1 < 32 * (1 + n))
            trans := x.trans.filter fun r => decide (r.1 < 32 * (1 + n))
            pend := x.pend.filter fun p => decide (p.code < 32 * (1 + n))
            flips := x.flips.filter fun f => decide (f.code < 32 * (1 + n)) }
        else x }

/-- Grants the oldest waiting crew of a core if its need is free (R243). -/
def granuleGrant (s : State) (core : Nat) : State :=
  match firstRank (s.growWaiters core) with
  | none => s
  | some (_, team, crew, n) =>
    if n - s.granulesOf team crew ≤ s.freeGranules core then
      let s : State := s.growCrew team crew n
      match s.team? team with
      | some t => (t.threads.filter fun x => x.crew == crew && (match x.run with | .asleep (.grow ..) => true | _ => false)).foldl
          (fun s x => s.wake team x.tid []) s
      | none => s
    else s

/-- REGGROW of one crew of the group, whose guard-true threads are `ls` (R177). -/
def growOp (s : State) (sl : IssueSlot) (t : Team) (ls : List Thread) (m : GrowMode) (n : Nat) (d : Reg) : State :=
  match ls with
  | [] => s
  | x :: _ =>
    let cur := s.granulesOf t.id x.crew
    let setP (s : State) (v : Bool) : State :=
      ls.foldl (fun s y => s.modThread t.id y.tid fun y => { y with preds := setPred y.preds d.toNat v }) s
    let charge (c : Byte) : State := ls.foldl (fun s y => s.deliver sl.team y.tid sl.clause sl.idx (plainFault c)) s
    if n ≤ cur then (if m = .try then setP s true else s)
    else if m ≠ .blk ∧ 1 ≤ s.detLevel t then charge 0x0A
    else
      let waiters := s.growWaiters t.core
      let wanted := (waiters.map fun (_, tm, c, k) => k - s.granulesOf tm c).foldl (· + ·) 0
      let fits := decide (n - cur + wanted ≤ s.freeGranules t.core)
      match m with
      | .blk =>
        if waiters.isEmpty && fits then s.growCrew t.id x.crew n
        else
          -- the whole crew waits at its clause (R177)
          (t.threads.filter fun y => sl.group.contains y.tid).foldl (fun s y => s.sleep sl y.tid (.grow n sl.stamp)) s
      | .try => if fits then setP (s.growCrew t.id x.crew n) true else setP s false
      | .trap => if fits then s.growCrew t.id x.crew n else charge 0x0C

/-! ### REGROUP (R179 to R182) -/

/-- What a thread asleep in REGROUP asks: pack, key, predicate. -/
def regroupArgs (x : Thread) : Option (Bool × Word × Reg) :=
  match x.run with | .asleep (.regroup p k d) => some (p, k, d) | _ => none

/-- Participants: every non-exited thread. -/
def participants (t : Team) : List Thread := t.threads.filter fun x => x.run != .exited

/-- Inserts by (key, `s.tid`). -/
def insertKey (x : Thread) (k : Word) : List (Thread × Word) → List (Thread × Word)
  | [] => [(x, k)]
  | (y, l) :: ys => if k.toNat < l.toNat ∨ (k = l ∧ x.tid < y.tid) then (x, k) :: (y, l) :: ys else (y, l) :: insertKey x k ys

/-- The placement of R180: threads in sorted order with their new crew slot and lane. -/
def placeSorted (strict : Bool) : (slot lane : Nat) → Option Word → List (Thread × Word) → List (Nat × Nat × Nat × Word)
  | _, _, _, [] => []
  | slot, lane, prev, (x, k) :: rest =>
    let next := decide (lane = 32) || (strict && (match prev with | some p => p != k | none => false))
    let slot' := if next then slot + 1 else slot
    let lane' := if next then 0 else lane
    (x.tid, slot', lane', k) :: placeSorted strict slot' (lane' + 1) (some k) rest

/-- Tile operations of the team with a register-sourced fragment hold REGROUP off (R210). -/
def fragmentPending (s : State) (team : Nat) : Bool :=
  s.engs.any fun e => e.team == team && (match e.kind with
    | .mma x => bit 30 ((x.block.headD 0).toNat) || bit 31 ((x.block.headD 0).toNat)
    | _ => false)

/-- May the step run: all have arrived and their counters are zero (R179)? -/
def regroupReady (s : State) (t : Team) : Bool :=
  let ps := participants t
  !ps.isEmpty && (ps.all fun x => (regroupArgs x).isSome && x.ld == 0 && x.st == 0) && !s.fragmentPending t.id

/-- REGROUP_STEP of a team (R180, R181). One that moves nothing, refused or faulted, leaves the watch slots as they are: R164 clears them at
a REGROUP, and R180 says that nothing moves (DESIGN CHOICE, log entry 72). -/
def regroupStep (s : State) (team : Nat) : State :=
  match s.team? team with
  | none => s
  | some t =>
    if t.res ≠ .resident ∨ !s.regroupReady t then s
    else
      let ps := participants t
      let args := ps.filterMap fun x => (regroupArgs x).map fun a => (x, a)
      let strict := match args with | (_, (p, _, _)) :: _ => !p | [] => false
      let modes := args.any fun (_, (p, _, _)) => p == strict
      let grans := t.crews.any fun c => c.granules != ((t.crews.head?.map (·.granules)).getD 0)
      let arrived := ps.any fun x => x.bars.any fun r => r.level == .crew
      -- a register file error met in the move charges the threads it affects (R182)
      let hit (x : Thread) : List Nat := (t.regErrs.filter fun n => n / 256 == x.tid).map fun n => n % 256
      let finish (s : State) (move v : Bool) : State := args.foldl (fun s (x, (_, _, d)) =>
        let s : State := s.modThread team x.tid fun x => { x with preds := setPred x.preds d.toNat v }
        if !move || (hit x).isEmpty then s.wake team x.tid []
        else
          (s.modThread team x.tid fun x =>
            { x with regs := (hit x).foldl (fun r n => tabPut 0#32 n (s.freeVal 25 (256 * x.tid + n)) r) x.regs }).deliver team x.tid x.clause
            (hdrN x.hdr - 1) { plainFault 0x09 with resumeAfter := true, detail := 3 }) (if move then (s.modTeam team fun t => { t with regErrs := [] }).drawn else s)
      if modes || grans || arrived then
        ps.foldl (fun s x => s.deliver team x.tid x.clause (hdrN x.hdr - 1) (plainFault 0x0D)) s
      else
        let sorted := args.foldl (fun l (x, (_, k, _)) => insertKey x k l) []
        let placed := placeSorted strict 0 0 none sorted
        if strict && placed.any fun (_, c, _, _) => decide (t.crews.length ≤ c) then finish s false false
        else
          let new (x : Thread) : Nat × Nat := match placed.find? fun p => p.1 == x.tid with | some (_, c, l, _) => (c, l) | none => (x.crew, x.lane)
          let moved := ps.any fun x => new x != (x.crew, x.lane)
          let uniform := placed.all fun (_, c, _, k) => placed.all fun (_, c', _, k') => c != c' || k == k'
          let s : State := s.modTeam team fun t =>
            { t with
              threads := t.threads.map fun x =>
                if x.run = .exited then x
                else { x with crew := (new x).1, lane := (new x).2, watch := none, bars := x.bars.filter fun r => r.level != .crew }
              crews := t.crews.map fun c => { c with bars := [] }
              rgen := if moved then t.rgen + 1 else t.rgen }
          finish s true (strict || uniform)

end State

/-! ### Meanings -/

def execShfl (g : Guard) (t : Bool) (m : ShflMode) (w : BitVec 3) (d a b c' : Reg) (s : State) : Result :=
  .next (s.crewOp g t ([d, a, c'] ++ if m = .rev then [] else [b]) fun ps tm x c =>
    let src := shflSource m (2 ^ w.toNat) x.lane (readReg x c b).toNat
    ⟨[(d, match ps.find? fun y => y.lane == src with
          | some y => readReg y (tm.crewOf y) a
          | none => readReg x c c')], x.preds⟩)

def execVote (g : Guard) (t : Bool) (m : VoteMode) (src : PSrc) (d : Reg) (s : State) : Result :=
  .next (s.crewOp g t (match m with | .test _ => [] | _ => [d]) fun ps _ x _ =>
    let mask := voteMask ps src
    match m with
    | .mask => ⟨[(d, BitVec.ofNat 32 mask)], x.preds⟩
    | .count => ⟨[(d, BitVec.ofNat 32 (popFrom mask 32))], x.preds⟩
    | .test c => ⟨[], setPred x.preds d.toNat (voteTest c (popFrom mask 32) ps.length)⟩)

def execMatchLanes (g : Guard) (t b64 : Bool) (m : MatchMode) (d a : Reg) (s : State) : Result :=
  .next (s.crewOp g t (d :: if b64 then pairCodes a else [a]) fun ps tm x c =>
    let key (y : Thread) (c : Crew) : DWord := if b64 then readPair y c a else (readReg y c a).setWidth 64
    let mates := ps.filter fun y => key y (tm.crewOf y) == key x c
    ⟨[(d, BitVec.ofNat 32 (match m with
        | .first => ((lowestLane mates).map (·.lane)).getD x.lane
        | .rank => (mates.filter fun y => decide (y.lane < x.lane)).length
        | .kinds => (ps.map fun y => key y (tm.crewOf y)).eraseDups.length))], x.preds⟩)

def execCredux (g : Guard) (t : Bool) (op : CredOp) (d a : Reg) (s : State) : Result :=
  .next (s.crewOp g t [d, a] fun ps tm x _ => ⟨[(d, creduxOf op (ps.map fun y => readReg y (tm.crewOf y) a))], x.preds⟩)

/-- ELECT (R172): the guard-true thread of lowest `s.tid`. -/
def execElect (g : Guard) (d : Reg) (s : State) : Result :=
  .next (s.crewOp g false [] fun ps _ x _ => ⟨[], setPred x.preds d.toNat (ps.all fun y => decide (x.tid ≤ y.tid))⟩)

def execBar (g : Guard) (op : BarOp) (level : BarLevel) (index : BitVec 4) (s : State) : Result :=
  .next (s.withLanes g [] fun s sl t ls => (ls.foldl (fun s x => s.barThread sl t x op level index.toNat) s).settle)

/-- The phase counter rises and waiters wake (R173). -/
def execBarrierPhaseComplete (b : BarRef) (s : State) : Result := .next (s.phaseComplete b)

/-- TKWAIT (R175). -/
def execTkwait (g : Guard) (n : BitVec 2) (d : Reg) (s : State) : Result :=
  .next (s.withLanes g [d] fun s sl t ls =>
    let c := s.ticket t.grid n.toNat
    if ls.isEmpty then s
    else if c.value = s.ticketNo t then
      ls.foldl (fun s x => s.writeRegs sl.team x.tid false sl.idx [(laneDst ls x d, if c.abandoned then 1 else 0)]) (s.l1Drop t.core t.asid)
    else ls.foldl (fun s x => s.sleep sl x.tid (.ticket n.toNat (laneDst ls x d))) s)

/-- TKPASS (R176): group-singular, a device-scope release. -/
def execTkpass (g : Guard) (n : BitVec 2) (s : State) : Result :=
  .next (s.withLanes g [] fun s sl t ls =>
    match ls with
    | [] => s
    | x :: _ =>
      if t.passed.any fun p => p.n == n.toNat then s
      else if (s.ticket t.grid n.toNat).value ≠ s.ticketNo t then s.deliver sl.team x.tid sl.clause sl.idx (plainFault 0x14)
      else
        ((s.modTeam t.id fun t => { t with passed := t.passed ++ [⟨n.toNat, true⟩] }).pushAcc
          (s.mkAcc sl t x (.pass n.toNat) .global 0 0 .b8 .device .rel .normal)).settle)

/-- REGROUP (R179): a guard-true thread arrives and sleeps. -/
def execRegroup (g : Guard) (pack : Bool) (key d : Reg) (s : State) : Result :=
  .next (s.withLanes g [key] fun s sl t ls =>
    ls.foldl (fun s x => s.sleep sl x.tid (.regroup pack (readReg x (t.crewOf x) key) d)) s)

/-- The rendezvous of REGROUP (R180). -/
def execRegroupStep (team : Nat) (s : State) : Result := .next (s.regroupStep team)

def execReggrow (g : Guard) (m : GrowMode) (n : BitVec 3) (d : Reg) (s : State) : Result :=
  .next (s.withLanes g [] fun s sl t ls => s.growOp sl t ls m n.toNat d)

/-- The oldest waiting crew of a core is granted (R243). -/
def execGranuleGrant (core : Nat) (s : State) : Result := .next (s.granuleGrant core)

/-- REGSHRINK (R177). -/
def execRegshrink (g : Guard) (n : BitVec 3) (s : State) : Result :=
  .next (s.withLanes g [] fun s _ t ls =>
    match ls with
    | [] => s
    | x :: _ => if n.toNat < s.granulesOf t.id x.crew then s.shrinkCrew t.id x.crew n.toNat else s)

/-- WAITC (R178): one that lets `ld` stand at 0 only covers the loads that have returned (R55). -/
def execWaitc (g : Guard) (ld st cp tl : BitVec 4) (s : State) : Result :=
  .next (s.withLanes g [] fun s sl t ls => ls.foldl (fun s x =>
    if State.under x.ld ld.toNat && State.under x.st st.toNat && State.under t.cp cp.toNat && State.under t.tl tl.toNat then
      (if ld = 0 then s.modThread sl.team x.tid s.coverFlips else s)
    else s.sleep sl x.tid (.waitc ld.toNat st.toNat cp.toNat tl.toNat)) s)

end Sys2Proof.Machine
end

