-- ==== Sys2Proof/Machine/System.lean ====
section
/-! DEFINITION. System instructions: opcodes 0xB0 to 0xB7 (R212 to R224), and INVALIDATION_COMPLETE. -/

namespace Sys2Proof.Machine

namespace State

/-- Value of a special register (Table 4.4); a timer is read at issue, `s.ncyc` as its integer part (R213). -/
def sregValue (s : State) (t : Team) (x : Thread) (r : SReg) : DWord :=
  let g := s.grid? t.grid
  let ofN (n : Nat) : DWord := BitVec.ofNat 64 n
  match r with
  | .tid => ofN x.tid
  | .lane => ofN (x.lane % 32)
  | .crew => ofN (x.crew % 32)
  | .teamX => ofN t.x
  | .teamY => ofN t.y
  | .teamZ => ofN t.z
  | .nteams => ofN ((g.map fun g => g.launch.teams).getD 0)
  | .crank => ofN (t.rank % 8)
  | .cshape => ofN ((g.map fun g => g.launch.w + 16 * g.launch.h).getD 0)
  | .core => ofN (t.core % 32 + 256 * (t.core / 32 % 32))
  | .die => ofN (t.core / 1024 % 2 + 256 * (g.map fun g => g.dies.length).getD 0)
  | .depth => ofN ((g.map fun g => g.launch.depth).getD 0)
  | .rgen => t.rgen.setWidth 64
  | .cyc => ofN (s.cycles t.core)
  | .ncyc => ofN ((s.die t.die).ncyc / 2 ^ 16)
  | .ref => ofN s.refTime
  | .tagmap => ofN ((List.range t.tags.length).foldl (fun m i => match t.tags[i]? with | some g => if g.done then m + 2 ^ i else m | none => m) 0)
  | .tlstat => ofN (t.tl % 64 + 256 * (t.cp % 64) + 65536 * (t.tstat.last % 4))
  | .detlvl => ofN (s.detLevel t)
  | .trapvec => x.trapvec.setWidth 64
  | .fault => x.sfault.setWidth 64

/-- The lowest determinism level at which SREAD of the register traps (Table 4.4); 4 for none. -/
def trapLevel : SReg → Nat
  | .core | .die => 2
  | .cyc | .ncyc | .ref => 1
  | _ => 4

/-- CLAUNCH of the issuing thread (R220): the record is read and checked; an accepted launch is a device-scope release, and a refused one has its
completion word written (DEDUCED, log entry 22) by the front end that walks the queue of its team (DESIGN CHOICE, the same log entry). Where
several checks of R220's table fail, the order is depth, fields, children, level (DESIGN CHOICE, the same log entry). -/
def claunchThread (s : State) (sl : IssueSlot) (t : Team) (x : Thread) (a : Nat) : State :=
  let fault (s : State) (f : FaultInfo) : State := s.deliver sl.team x.tid sl.clause sl.idx f
  let mem (c : Byte) : State := fault s { targetFault c a with
    access := some 0, detail := if c = 0x09 then s.virtErrorClass t.die t.asid a 64 else 0 }
  if a % 64 ≠ 0 then mem 0x12
  else
    match s.readVirt t.die t.asid a 64 .read .program with
    | .error c => mem c
    | .ok bs =>
      let s : State := s.agentRead t.die t.asid a 64 .read .program
      let at_ (o n : Nat) : Nat := ofBytes ((bs.drop o).take n)
      match s.grid? t.grid with
      | none => s
      | some g =>
        let depth := g.launch.depth
        let l := recordLaunch bs (depth + 1) 1 g.launch.maxDies g.launch.hint
        if depth = 9 then fault s (plainFault 0x0B)
        else if !l.inRange || bits 31 29 (at_ 24 4) != 0 || decide (2 ^ 10 ≤ at_ 28 4) || at_ 60 4 != 0 then fault s (plainFault 0x0E)
        else if s.detLevel t = 0 ∧ 64 ≤ (s.childrenOf t.id).length then fault s (plainFault 0x0E)
        else if s.detLevel t < l.detmin then fault s (plainFault 0x0A)
        else if s.refused l t.asid (s.detLevel t) g.dies (some t.id) then
          if l.completion = 0 then s else s.reportWrite (s.medlar t.queue) t.asid l.completion 3 t.queue (toBytes 8 2)
        else
          let (id, s) := s.fresh
          let child := s.newGrid id t.queue t.asid l (some t.id) g.packet g.startCount g.dies
          let s : State := { s with grids := s.grids ++ [{ child with qrpAtStart := g.qrpAtStart, killed := g.killed }] }
          (s.pushAcc (s.mkAcc sl t x (.launch id) .global 0 0 .b8 .device .rel .normal)).settle

/-- Is core c in the scope of an ICSYNC of a team (R223)? -/
def inScope (s : State) (t : Team) (sc : Scope) (c : Nat) : Bool :=
  match sc with
  | .crew | .team => c == t.core
  | .cluster => s.teams.any fun u => u.cluster == t.cluster && u.core == c
  | _ => true

/-- ICSYNC of one thread: what the invalidation waits for. -/
def icsyncThread (s : State) (t : Team) (tid : Nat) (sc : Scope) : State :=
  let stores := (s.accs.filter fun a => a.ofThread t.id tid && a.isStore).map (·.id)
  let copies := (s.engs.filter fun e => e.team == t.id && (match e.kind with | .copy .. => true | _ => false)).map (·.id)
  s.modThread t.id tid fun x => { x with icsync := x.icsync ++ [⟨s.nextAcc, sc, stores, copies⟩] }

/-- A thread whose clause entry an ICSYNC has held goes on, now that none holds it (R223): the target is fetched, with the checks of R73, R75 or
R76, and its failures are charged as the way there leaves them. -/
def arriveNow (s : State) (team tid : Nat) : State :=
  match s.thread? team tid with
  | none => s
  | some x =>
    if x.run ≠ .active ∨ !x.icsync.isEmpty then s
    else
      let s : State := s.modThread team tid fun x => { x with arrive := none }
      match x.arrive with
      | none => s
      | some (.jump target link depth) => s.jump team tid x.clause x.idx target link depth
      | some .fall => s.fallThrough team tid
      | some (.handler target f) => s.enterHandler team tid x.clause x.idx target f
      | some .rett => s.rettThread team tid x.clause x.idx
      | some .reenter =>
        match s.team? team with
        | none => s
        | some t =>
          match s.landing t.core t.asid x.clause with
          | .error c => (s.fetched t.core t.asid x.clause 1).deliver team tid x.clause 0 (s.codeFault t.die t.asid c x.clause)
          | .ok hdr => s.enterClause team tid x.clause x.idx hdr

/-- A thread that runs again where R65 or a breakpoint stopped it, or after a restore, enters what it had not entered: a clause whose entry was
held or had failed is fetched again, and none of its instructions executes before its checks pass; a failure of R75's checks there, which
names no instruction that transfers, is charged to index 0 of that clause (DESIGN CHOICE, log entry 99). One that stopped behind its last
instruction falls through (R76). -/
def reenter (s : State) (team tid : Nat) : State :=
  match s.thread? team tid with
  | none => s
  | some x =>
    if x.run ≠ .active then s
    else if x.arrive.isSome then s.arriveNow team tid
    else if hdrN x.hdr ≤ x.idx then s.fallThrough team tid
    else if x.words.isEmpty then (s.holdArrival team tid x.clause x.idx .reenter).arriveNow team tid
    else s

/-- INVALIDATION_COMPLETE of a thread's earliest ICSYNC, once the writes it waits for are accepted. After the last one the clause that it has
held is entered. -/
def invalidationComplete (s : State) (team tid : Nat) : State :=
  match s.team? team, s.thread? team tid with
  | some t, some x =>
    match x.icsync with
    | [] => s
    | w :: ws =>
      if w.stores.any (fun i => s.accs.any fun a => a.id == i) || w.copies.any (fun i => s.engs.any fun e => e.id == i) then s
      else
        ({ s with icache := s.icache.filter fun x => !s.inScope t w.scope x.core }.modThread team tid fun x => { x with icsync := ws }).arriveNow team tid
  | _, _ => s

end State

/-! ### Meanings -/

/-- SREAD (R213). A lane that lacks a granule of d takes 0x0E, at a level where the register traps too (DESIGN CHOICE, log entry 97). -/
def execSread (g : Guard) (t : Bool) (sel : SReg) (d : Reg) (s : State) : Result :=
  .next (match s.issue.bind fun sl => s.team? sl.team with
    | none => s
    | some tm =>
      if State.trapLevel sel ≤ s.detLevel tm then
        s.withLanes g (if sel.wide then pairCodes d else [d]) fun s sl _ ls =>
          ls.foldl (fun s x => s.deliver sl.team x.tid sl.clause sl.idx (plainFault 0x0A)) s
      else if sel.wide then s.aluOp64 g t d [] fun x _ => s.sregValue tm x sel
      else s.aluOp g t d [] fun x _ => loWord (s.sregValue tm x sel))

/-- SWRITE (R214, R60). A value that is misaligned and too high takes 0x12 (DESIGN CHOICE, log entry 17), and the frame holds it (DEDUCED, the same
log entry). -/
def execSwrite (g : Guard) (sel : SReg) (a : Reg) (s : State) : Result :=
  .next (s.withLanes g [a] fun s sl t ls => ls.foldl (fun s x =>
    let v := readReg x (t.crewOf x) a
    let refuse (c : Byte) : State := s.deliver sl.team x.tid sl.clause sl.idx { targetFault c v.toNat with access := none }
    match sel with
    | .trapvec => s.modThread sl.team x.tid fun x => { x with trapvec := v }
    | _ =>
      if v.toNat % 64 ≠ 0 then refuse 0x12
      else if s.privSize t < v.toNat + 192 then refuse 0x13
      else s.modThread sl.team x.tid fun x => { x with sfault := v }) s)

/-- CLAUNCH (R220): group-singular. -/
def execClaunch (g : Guard) (a : Reg) (s : State) : Result :=
  .next (s.single g (pairCodes a) fun s sl t x c => s.claunchThread sl t x (readPair x c a).toNat)

/-- CJOIN (R222). -/
def execCjoin (g : Guard) (s : State) : Result :=
  .next (s.withLanes g [] fun s sl t ls =>
    if ls.isEmpty then s
    else if (s.childrenOf t.id).isEmpty then s.l1Drop t.core t.asid else ls.foldl (fun s x => s.sleep sl x.tid .cjoin) s)

/-- TRAP (R216): cause 0x11 with resume-after; the software code stays in the word. -/
def execTrap (g : Guard) (_code : BitVec 11) (s : State) : Result :=
  .next (s.withLanes g [] fun s sl _ ls => ls.foldl (fun s x =>
    (s.note sl.team x.tid sl.idx none true).deliver sl.team x.tid sl.clause sl.idx { plainFault 0x11 with resumeAfter := true }) s)

/-- BPT (R217). -/
def execBpt (g : Guard) (s : State) : Result :=
  .next (s.withLanes g [] fun s sl _ ls => ls.foldl (fun s x =>
    (s.note sl.team x.tid sl.idx none true).breakStop sl.team x.tid sl.clause sl.idx true) s)

/-- ICSYNC (R223). -/
def execIcsync (g : Guard) (scope : Scope) (s : State) : Result :=
  .next (s.withLanes g [] fun s _ t ls => ls.foldl (fun s x => s.icsyncThread t x.tid scope) s)

/-- RETT (R218). -/
def execRett (g : Guard) (s : State) : Result :=
  .next (s.withLanes g [] fun s sl _ ls => ls.foldl (fun s x => s.rettThread sl.team x.tid sl.clause sl.idx) s)

/-- The invalidation of an ICSYNC finishes everywhere in its scope (R223). -/
def execInvalidationComplete (team tid : Nat) (s : State) : Result := .next (s.invalidationComplete team tid).settle

end Sys2Proof.Machine
end

