-- ==== Sys2Proof/Machine/Tree.lean ====
section
/-! DEFINITION. The chunk summation contract (R35 to R47): exact products, the three fixed-point levels, level 3, the swamping record,
and the parameter block (Tables 3.3 and 9.8). -/

namespace Sys2Proof.Machine

/-! ### Chunk fields (R46, R47) -/

structure Chunk where
  k0 : Nat
  k1 : Nat
  k2 : Nat
  w0 : Nat
  w1 : Nat
  w2 : Nat
  m0 : Bool
  m1 : Bool
  m2 : Bool
  rnd3 : Nat
deriving DecidableEq, Repr

/-- dword1[31:0]; zero is this part's default of Table 3.4. -/
def chunkWord (d : Nat) : Nat := if d = 0 then 0x028830D5 else d

def chunkOf (d : Nat) : Chunk :=
  let d := chunkWord d
  ⟨2 ^ bits 2 0 d, 2 ^ bits 5 3 d, 2 ^ bits 8 6 d, bits 13 9 d, bits 19 14 d, bits 25 20 d, bit 26 d, bit 27 d, bit 28 d, bits 30 29 d⟩

/-- R46's conditions. -/
def chunkOk (d : Nat) : Bool :=
  let d := chunkWord d
  decide (bits 2 0 d ≤ 5) && decide (bits 5 3 d ≤ 6) && decide (bits 8 6 d ≤ 6) && decide (8 ≤ bits 13 9 d) &&
  decide (bits 13 9 d ≤ bits 19 14 d) && decide (bits 19 14 d ≤ 40) && decide (bits 19 14 d ≤ bits 25 20 d) &&
  decide (bits 25 20 d ≤ 48) && bits 30 29 d != 3 && !bit 31 d

/-! ### Levels 0 to 2 (R37 to R39) -/

/-- Consecutive groups of n; the last holds the remainder. -/
def groupsOf {α : Type} : (fuel n : Nat) → List α → List (List α)
  | 0, _, _ => []
  | fuel + 1, n, l => if l.isEmpty then [] else l.take n :: groupsOf fuel n (l.drop n)

/-- What one level adds to the record: lost bits and swamped addends. -/
structure Lost where
  lost : Nat
  swamped : Nat
deriving DecidableEq, Repr

/-- Number of 1 bits of a number below 2^n. -/
def onesBelow : Nat → Nat → Nat
  | 0, _ => 0
  | n + 1, x => x % 2 + onesBelow n (x / 2)
def popNat (x : Nat) : Nat := onesBelow (x.log2 + 1) x

/-- One addend in units of 2^q: its signed magnitude, and the bits it loses. -/
def cutOne (q : Int) (half : Bool) (v : FVal) : Int × Lost :=
  match v with
  | .fin neg num den =>
    if num = 0 then (0, ⟨0, 0⟩)
    else
      let (a, b) := inUnits num den q
      let n := a / b
      let r := a % b
      let n := if half && (decide (b < 2 * r) || (2 * r == b && n % 2 == 1)) then n + 1 else n
      (if neg then -(n : Int) else n, ⟨popNat r, if n = 0 then 1 else 0⟩)
  | _ => (0, ⟨0, 0⟩)

/-- floor_log2 of the largest magnitude of a group, none when every addend is zero. -/
def topBit (g : List FVal) : Option Int :=
  g.foldl (fun m v =>
    match v with
    | .fin _ n d => if n = 0 then m else
        (match m with | some l => some (max l (floorLog2 n d)) | none => some (floorLog2 n d))
    | _ => m) none

/-- cut_sum of R38: the exact sum of the cut addends, with what the level counts. -/
def cutSum (w : Nat) (half : Bool) (g : List FVal) : FVal × Lost :=
  match topBit g with
  | none => (.fin false 0 1, ⟨0, 0⟩)
  | some l =>
    let q : Int := l - w + 1
    let parts := g.map (cutOne q half)
    let s : Int := parts.foldl (fun s p => s + p.1) 0
    (if s = 0 then .fin false 0 1 else scaled (decide (s < 0)) s.natAbs q,
     parts.foldl (fun (c : Lost) p => ⟨c.lost + p.2.lost, c.swamped + p.2.swamped⟩) ⟨0, 0⟩)

/-- One level over all its groups: the results, and the level's counts. -/
def levelSum (k w : Nat) (half : Bool) (xs : List FVal) : List FVal × Lost :=
  let rs := (groupsOf xs.length k xs).map (cutSum w half)
  (rs.map (·.1), rs.foldl (fun (c : Lost) p => ⟨c.lost + p.2.lost, c.swamped + p.2.swamped⟩) ⟨0, 0⟩)

/-! ### Level 3 and the special path (R36, R40) -/

def isZero : FVal → Bool | .fin _ n _ => n == 0 | _ => false

/-- exact_product of R36: `ta` and `tb` are the scales of an MXFP4 operation. -/
def exactProduct (scales : Option (Nat × Nat)) (a b : FVal) : FVal :=
  match scales with
  | none => FVal.mul a b
  | some (ta, tb) =>
    if ta = 0xFF ∨ tb = 0xFF then .nan else FVal.mul (FVal.mul a b) (scaled false 1 ((ta : Int) + tb - 254))

/-- Special products leave the sum (R40). -/
def finiteOf (v : FVal) : FVal := match v with | .fin .. => v | _ => .fin false 0 1

def rnd3 (n : Nat) : Rnd := match n with | 0 => .rne | 1 => .rtz | _ => .sr

/-- Level 3: the nonzero level-2 results are added in ascending K. -/
def levelThree (r : Rnd) (ka kb : Word) (i j : Nat) : (g : Nat) → Word → List FVal → Word
  | _, c, [] => c
  | g, c, v :: vs =>
    let c' := if isZero v then c
      else BitVec.ofNat 32 (convert fp32 r false (srgen ka kb (BitVec.ofNat 32 i) (BitVec.ofNat 32 (j + 64 * g))).toNat
        (FVal.add false (dec32 c) v))
    levelThree r ka kb i j (g + 1) c' vs

/-- The final step of R40. -/
def specialStep (p : List FVal) (c : Word) : Word :=
  let nan := p.any FVal.isNan
  let pinf := p.any fun v => v == .inf false
  let ninf := p.any fun v => v == .inf true
  if nan || (dec32 c).isNan || (pinf && ninf) || (pinf && c == 0xFF800000#32) || (ninf && c == 0x7F800000#32) then 0x7FC00000
  else if pinf then 0x7F800000 else if ninf then 0xFF800000 else c

/-- What an operation adds to the swamping record (Table 3.2). -/
structure RecAdd where
  l0 : Nat
  l1 : Nat
  l2 : Nat
  sw : Nat
deriving DecidableEq, Repr

/-- element_op of R40 on the starting value c and the products in K order. -/
def elementOp (x : Chunk) (ka kb : Word) (i j : Nat) (c : Word) (p : List FVal) : Word × RecAdd :=
  let (s0, r0) := levelSum x.k0 x.w0 x.m0 (p.map finiteOf)
  let (s1, r1) := levelSum x.k1 x.w1 x.m1 s0
  let (s2, r2) := levelSum x.k2 x.w2 x.m2 s1
  (specialStep p (levelThree (rnd3 x.rnd3) ka kb i j 0 c s2), ⟨r0.lost, r1.lost, r2.lost, r0.swamped + r1.swamped + r2.swamped⟩)

/-- An integer element (R41). -/
def elementInt (c : Word) (p : List Int) : Word := BitVec.ofInt 32 (c.toInt + p.foldl (· + ·) 0)

/-- sat_add32 on the words of a record. -/
def recordAdd (r : List Word) (a : RecAdd) : List Word :=
  let add (i x : Nat) : Word := BitVec.ofNat 32 (min ((r.getD i 0).toNat + x) (2 ^ 32 - 1))
  [add 0 a.l0, add 1 a.l1, add 2 a.l2, add 3 a.sw]

/-! ### The parameter block (Table 9.8) -/

structure Block where
  op : Nat
  fa : Nat
  fb : Nat
  tile : Nat
  aReg : Bool
  bReg : Bool
  m : Nat
  n : Nat
  k : Nat
  zskip : Bool
  gang : Nat
  chunk : Nat
  ka : Word
  kb : Word
  sa : Nat
  sb : Nat
  mask : Nat
  bar : Nat
  bIssuer : Bool
  signal : Bool
  spare : Bool
deriving DecidableEq, Repr

def blockOf (d : List DWord) : Block :=
  let w (i : Nat) : Nat := (d.getD i 0).toNat
  { op := bits 7 0 (w 0), fa := bits 15 8 (w 0), fb := bits 23 16 (w 0), tile := bits 29 24 (w 0), aReg := bit 30 (w 0),
    bReg := bit 31 (w 0), m := 8 * (bits 34 32 (w 0) + 1), n := 8 * (bits 37 35 (w 0) + 1), k := bits 50 38 (w 0),
    zskip := bit 51 (w 0), gang := bits 54 52 (w 0) + 1, chunk := bits 31 0 (w 1), ka := BitVec.ofNat 32 (bits 63 32 (w 1)),
    kb := BitVec.ofNat 32 (bits 31 0 (w 2)), sa := bits 31 0 (w 3), sb := bits 63 32 (w 3), mask := bits 7 0 (w 4),
    bar := bits 10 8 (w 4), bIssuer := bit 11 (w 4), signal := bit 12 (w 4),
    spare := bits 63 55 (w 0) != 0 || bits 63 32 (w 2) != 0 || bits 63 13 (w 4) != 0 || w 5 != 0 || w 6 != 0 || w 7 != 0 }

def isIntCode (c : Nat) : Bool := c == 4 || c == 5
/-- Table 3.1. -/
def pairOk (fa fb : Nat) : Bool :=
  (isFp8 fa && isFp8 fb) || (fa == fb && (fa == 0x0A || fa == 0x0B || fa == 1 || fa == 2)) || (isIntCode fa && isIntCode fb)
/-- Bits and descriptor element size of an operand format (R187). -/
def operandBits (c : Nat) : Nat := if c = 0x0A ∨ c = 0x0B then 4 else if c = 1 ∨ c = 2 then 16 else 8
def operandSize (c : Nat) : Nat := if c = 1 ∨ c = 2 then 2 else 1

/-- The Accepted column of Table 9.8, R35, R41 and R46; `tiles`, `cores` and `own` are the team's tile count, the cluster's size and the
issuer's rank. -/
def blockOk (b : Block) (gang : Bool) (tiles cores own : Nat) : Bool :=
  !b.spare && (b.op == 1 || b.op == 2) && pairOk b.fa b.fb && decide (b.tile < tiles) && decide (1 ≤ b.k ∧ b.k ≤ 4096) &&
  (if isIntCode b.fa then !bit 31 b.chunk else chunkOk b.chunk) &&
  (b.fa == 0x0A || (b.sa == 0 && b.sb == 0)) &&
  (if gang then popNat b.mask == b.gang && decide (b.mask < 2 ^ cores) && !((b.aReg || b.bReg) && decide (1 < b.gang))
   else b.gang == 1 && !b.bIssuer && (b.mask == 0 || b.mask == 2 ^ own))

/-- Default chunking of a floating operation (R47). -/
def defaultChunk (b : Block) : Bool := b.chunk == 0 && !isIntCode b.fa

/-- The value of an operand element from its code (R17 to R23); R36 takes the scale of an MXFP4 block apart. -/
def operandVal (c raw : Nat) : FVal :=
  match c with
  | 4 => ofInteger (sextNat 8 raw)
  | 5 => ofInteger raw
  | 0x0A => decodeF e2m1 raw
  | _ => match fmtOf c with | some f => decodeF f raw | none => .nan
def operandInt (c raw : Nat) : Int := if c = 4 then sextNat 8 raw else raw

end Sys2Proof.Machine
end

