-- ==== Sys2Proof/Machine/Copy.lean ====
section
/-! DEFINITION. The copy engine and the tags: opcodes 0x70 to 0x77 (R183 to R194) and COPY_COMPLETE. A copy performs its unit
events at any moments up to its completion (notes/assumptions/21.md). -/

namespace Sys2Proof.Machine

namespace State

/-! ### Descriptors in a cluster (R188) -/

/-- Is a descriptor well-formed for rows × cols elements of e bytes, seen from a team? A byte whose offset passes 2^19 before desc_addr cuts it
lies above every share: R188 does not say which of the two offsets it means (DESIGN CHOICE, log entry 91). -/
def descOk (s : State) (t : Team) (w0 w1 rows cols e : Nat) : Bool :=
  w1 / 2 ^ 27 == 0 && descRow w1 != 0 && decide (min cols 64 * e ≤ descRow w1) &&
  (decide (cols ≤ 64) || decide (rows * descRow w1 ≤ descTile w1)) &&
  (match s.windowTarget t w0 with
   | none => false
   | some (u, _) => (boxElems rows cols).all fun (r, c) => decide (descOffset w0 w1 r c e (e - 1) < u.scratchBytes) &&
       (List.range e).all fun j => decide (descOffset w0 w1 r c e j < u.scratchBytes))

/-- The share that a descriptor names. -/
def descShare (s : State) (t : Team) (w0 : Nat) : Option Nat := (s.windowTarget t w0).map fun p => p.1.id

/-- Offsets in the share of the bytes of an element. -/
def elemOffsets (w0 w1 e r c : Nat) : List Nat := (List.range e).map fun j => descOffset w0 w1 r c e j % 2 ^ 19

/-! ### What an engine operation waits for -/

/-- Has the pre-emption of the team begun, so that its operations complete whatever freezes (R244, R365)? -/
def saving (s : State) (team : Nat) : Bool :=
  match s.team? team with
  | some t => t.stopping && !((s.grid? t.grid).map (·.killed)).getD false
  | none => false

/-- Does a step that has left the issue slot wait for the operation, which no drain holds back now (R208, R370)? -/
def stepped (s : State) (e : EngOp) : Bool := s.dbg.steps.any fun w => w.left && w.ops.contains e.id && !s.heldBack e

/-- Does a freeze hold the operation (R208, R364)? -/
def engFrozen (s : State) (e : EngOp) : Bool := s.enginesFrozen e.asid && !e.inHand && !s.saving e.team && !s.inTurn e && !s.stepped e

/-- Is an operation held: by a park, by a fault entry that waits, by its ticket, by a freeze, or by the accesses it waits for? -/
def engHeld (s : State) (e : EngOp) : Bool :=
  e.parked.isSome || e.queued || s.engFrozen e || (e.after.any fun i => s.accs.any fun a => a.id == i) ||
    s.faultWaits fun w => match w with | .eng i _ _ => i == e.id | _ => false

/-- A command's index within its launch and engine (Table 21.9). -/
def takeCmd (s : State) (grid engine : Nat) : Nat × State :=
  let n := ((s.grid? grid).map fun g => tabGet 0 engine g.cmds).getD 0
  (n, s.modGrid grid fun g => { g with cmds := tabSet engine (n + 1) g.cmds })

/-- What the source reads of a copy or drain wait for at its issue: the thread's stores and atomics, private ones aside, and its acquires
(R192, R272). -/
def ownBefore (s : State) (team tid : Nat) : List Nat :=
  (s.accs.filter fun a => a.ofThread team tid && (a.acq ||
    ((a.isStore || a.isAtom) && (match a.space with | .priv | .spillSp => false | _ => true)))).map (·.id)

/-- An operation of a thread, with nothing filled in. -/
def mkEng (t : Team) (x : Thread) (kind : EngKind) : EngOp where
  id := 0
  kind := kind
  core := t.core
  team := t.id
  asid := t.asid
  cluster := t.cluster
  tid := x.tid
  crew := x.crew
  lane := x.lane
  tile := 0
  tag := 0
  parts := []
  signal := none
  after := []
  queued := false
  inHand := false
  parked := none
  cmdIndex := 0
  seen := []
  moved := []
  kept := []

/-- Gives an operation to its engine. -/
def pushEng (s : State) (e : EngOp) : State :=
  let (id, s) := s.fresh
  let (n, s) := s.takeCmd (((s.team? e.team).map (·.grid)).getD 0) (engKind e * 2048 + e.core)
  { s with engs := s.engs ++ [{ e with id := id, cmdIndex := n }] }

/-- A record of an operation's end (R374). -/
def endRecord (s : State) (e : EngOp) (status : Nat) : State :=
  let g := (s.team? e.team).bind fun t => s.grid? t.grid
  s.trace e.asid (4 + 2 * engKind e) ((g.map (·.queue)).getD 0) (engKind e * 2048 + e.core)
    (((g.map (·.qrpAtStart)).getD 0) * 2 ^ 32 + e.cmdIndex) status 0

/-- An operation parks on a fault; one of a step ends the step (R371). -/
def parkEng (s : State) (id : Nat) (c : Byte) (token : Nat) : State :=
  match s.eng? id with
  | none => s
  | some e =>
    let s : State := (s.beginOp id).modEng id fun e => { e with parked := some token }
    let mine (w : StepWait) : Bool := w.team == e.team && (w.ops.contains id || decide (w.first ≤ id))
    if s.dbg.steps.any mine then
      (s.endStep mine c).startWave e.asid ⟨some e.core, e.core / 1024, some e.tid, c, 1, e.crew, ((s.team? e.team).map (·.slot)).getD 0, true⟩ s.now
    else s

/-- A fault of an operation's global access (Table 19.6a): the operation is in hand, and once the entry is written it parks in replayable mode,
and ends by `k` otherwise. (DEDUCED, log entry 33) -/
def engFault (s : State) (e : EngOp) (c : Byte) (addr access : Nat) (k : State → State) : State :=
  let s : State := s.beginOp e.id
  let (token, s) := s.parkToken e.asid c
  let t := s.team? e.team
  let q := ((t.bind fun t => s.grid? t.grid).map (·.queue)).getD 0
  let (s, ok) := s.record (e.core / 1024) (fbEntry addr e.asid c (1 + engKind e) (token != 0) (some access) e.core ((t.map (·.slot)).getD 0)
    e.crew (if engKind e = 0 then e.tag else e.tile) q token) (.eng e.id c token)
  if !ok then s else if token ≠ 0 then s.parkEng e.id c token else k s

/-! ### Tags (R189, R193, R194) -/

/-- The done bits as one number. -/
def doneMask (t : Team) : Nat := (List.range t.tags.length).foldl (fun m i => match t.tags[i]? with | some g => if g.done then m + 2 ^ i else m | none => m) 0

/-- Is a tag wait over? -/
def tagWaitOver (t : Team) (all : Bool) (mask : DWord) : Bool :=
  let d := doneMask t &&& mask.toNat
  if all then d == mask.toNat else d != 0

/-- Wakes the tag waiters of a team. -/
def wakeTags (s : State) (team : Nat) : State :=
  match s.team? team with
  | none => s
  | some t =>
    (t.threads.filterMap fun x => match x.run with
      | .asleep (.tagAny m) => if tagWaitOver t false m then some x.tid else none
      | .asleep (.tagAll m) => if tagWaitOver t true m then some x.tid else none
      | _ => none).foldl (fun s tid => s.wake team tid []) s

/-- TGWANY and TGWALL of one thread. -/
def tagWait (s : State) (sl : IssueSlot) (t : Team) (x : Thread) (all : Bool) (m : DWord) : State :=
  if t.tags.length < 64 ∧ 2 ^ t.tags.length ≤ m.toNat then s.deliver sl.team x.tid sl.clause sl.idx (plainFault 0x0E)
  else if !all ∧ m = 0 then s.deliver sl.team x.tid sl.clause sl.idx (plainFault 0x14)
  else if tagWaitOver t all m then s
  else s.sleep sl x.tid (if all then .tagAll m else .tagAny m)

/-- Lowest set bit below n. -/
def lowestBit (m : Nat) : (n : Nat) → Option Nat
  | 0 => none
  | n + 1 => match lowestBit m n with | some i => some i | none => if bit n m then some n else none

/-- Table 9.7 for a mask: the word, and the tag found. -/
def tgffWord (t : Team) (m : DWord) : Word × Option Nat :=
  match lowestBit (doneMask t &&& m.toNat) 64 with
  | some i => (BitVec.ofNat 32 (i + 256 * ((t.tags[i]?).map (·.status)).getD 0), some i)
  | none => (0x400, none)

/-! ### Performing a copy (R190 to R192) -/

/-- The teams whose shares a copy writes: the descriptor's target, or each member that the rank mask names. -/
def copyTargets (s : State) (t : Team) (k : CopyKind) (dst0 mask : Word) : List Team :=
  match k with
  | .cpym => s.teams.filter fun u => u.cluster == t.cluster && u.res == .resident && bit u.rank mask.toNat
  | .cpyo => []
  | _ => match s.windowTarget t dst0.toNat with | some (u, _) => [u] | none => []

/-- R191: may the copy start? -/
def copyOk (s : State) (t : Team) (k : CopyKind) (e : Nat) (src0 src1 dst0 dst1 box0 box1 mask : Word) : Bool :=
  let rows := boxRows box0
  let cols := boxCols box0
  let n := ((s.grid? t.grid).map fun g => g.launch.w * g.launch.h).getD 1
  decide (1 ≤ rows ∧ rows ≤ 4096) && decide (1 ≤ cols ∧ cols ≤ 4096) && bits 31 29 box0.toNat == 0 && bits 15 13 box0.toNat == 0 &&
  (match k with
   | .cpy | .cpym => (pairOf src0 src1).toNat % e == 0 && box1.toNat % e == 0
   | .cpyo => (pairOf dst0 dst1).toNat % e == 0 && box1.toNat % e == 0
   | .cpyx => box1 == 0) &&
  (match k with | .cpyo | .cpyx => s.descOk t src0.toNat src1.toNat rows cols e | _ => true) &&
  (match k with
   | .cpyo => true
   | .cpym =>
     mask.toNat / 256 == 0 && mask != 0 && decide (mask.toNat < 2 ^ n) && bits 24 19 dst0.toNat == 0 &&
     (s.copyTargets t k dst0 mask).length == popNat mask.toNat &&
     (s.copyTargets t k dst0 mask).all fun u => s.descOk u dst0.toNat dst1.toNat rows cols e
   | _ => s.descOk t dst0.toNat dst1.toNat rows cols e)

/-- The outcome of reading or translating: the value, or the cause, address and access kind. -/
abbrev Got (α : Type) := Except (Byte × Nat × Nat) α

/-- A unit event of a copy: element (r, c), from its byte j on, and the number of the event (R267). -/
structure CopyUnit where
  num : Nat
  r : Nat
  c : Nat
  j : Nat
deriving DecidableEq, Repr

/-- Bytes of one event. -/
def unitBytes (e : Nat) : Nat := min e 8

/-- The unit events of a box: one for each element of up to 8 bytes, two for one of 16. -/
def copyUnits (box0 : Word) (e : Nat) : List CopyUnit :=
  let halves := (e + 7) / 8
  let cells := boxElems (boxRows box0) (boxCols box0)
  (((List.range cells.length).zip cells).map fun (i, (r, c)) => (List.range halves).map fun h => ⟨halves * i + h, r, c, 8 * h⟩).flatten

/-- Offsets in the share of the bytes of an event. -/
def unitOffsets (w0 w1 e : Nat) (u : CopyUnit) : List Nat := ((elemOffsets w0 w1 e u.r u.c).drop u.j).take (unitBytes e)

/-- Global address of an event (Table 9.5). -/
def unitGlobal (base : DWord) (box1 : Word) (e : Nat) (u : CopyUnit) : Nat := (copyGlobal base.toNat box1.toNat e u.r u.c + u.j) % 2 ^ 64

/-- The bytes of one source event; `kept` are source bytes that the copy itself has written over, which carry the error of their unit. -/
def copySource (s : State) (t : Team) (k : CopyKind) (e : Nat) (kept : Tab (Byte × Bool)) (src0 src1 box1 : Word) (u : CopyUnit) : Got (List Byte) :=
  match k with
  | .cpy | .cpym =>
    let va := unitGlobal (pairOf src0 src1) box1 e u
    match s.readVirt t.die t.asid va (unitBytes e) .read .program with
    | .ok bs => .ok bs
    | .error c => .error (c, va, 0)
  | _ =>
    match s.windowTarget t src0.toNat with
    | none => .error (0x08, 0, 0)
    | some (v, _) =>
      let os := unitOffsets src0.toNat src1.toNat e u
      let bad (o : Nat) : Bool := match tabFind o kept with | some (_, b) => b | none => v.scratchPoison.contains (o / 8)
      if os.any bad then .error (0x09, src0.toNat, 0) else .ok (os.map fun o => ((tabFind o kept).map (·.1)).getD (v.scratchByte o))

/-- Physical address of one global destination event. -/
def copyDest (s : State) (t : Team) (e : Nat) (dst0 dst1 box1 : Word) (u : CopyUnit) : Got Nat :=
  let va := unitGlobal (pairOf dst0 dst1) box1 e u
  match s.writable t.die t.asid va .program with
  | .ok pa => .ok pa
  | .error c => .error (c, va, 1)

/-- An unspecified order of a list: each entry goes to a place that nothing fixes (R190). -/
def shuffle {α : Type} (key : Nat) : List α → List α
  | [] => []
  | x :: xs =>
    let ys := shuffle (key + 1) xs
    let n := Config.pick key xs.length % (ys.length + 1)
    ys.take n ++ x :: ys.drop n

/-- Writes of events at offsets of a share; a unit all of whose eight bytes one event writes gets fresh check bits (R263). -/
def putElems (u : Team) (es : List (List Nat × List Byte)) : Team :=
  es.foldl (fun u (os, bs) =>
    let u := (os.zip bs).foldl (fun u (o, b) => u.scratchPut o [b]) u
    { u with scratchPoison := u.scratchPoison.filter fun n => !((List.range 8).all fun j => os.contains (8 * n + j)) }) u

/-- Ends a copy (R189): tag, counter, trace, waiters. -/
def endCopy (s : State) (e : EngOp) (tag status : Nat) : State :=
  let s : State := (s.beginOp e.id).endRecord e status
  let s : State := { s with engs := s.engs.filter fun x => x.id != e.id }
  let s : State := s.modTeam e.team fun t =>
    { t with
      cp := t.cp - 1
      tags := listSet tag (match t.tags[tag]? with
        | some g => ⟨g.count - 1, g.done || g.count == 1, max g.status status⟩
        | none => ⟨0, true, 0⟩) t.tags }
  (s.wakeTags e.team).settle

/-- The destination of a copy that ended with status 1 or 3 is undefined within the box. -/
def spoilCopy (s : State) (e : EngOp) (t : Team) (k : CopyKind) (sz : Nat) (dst0 dst1 box0 mask : Word) : State :=
  match k with
  | .cpyo => (s.spoilGlobal e.core e.asid (globalDest e))
  | _ =>
    let es := (boxElems (boxRows box0) (boxCols box0)).map fun (r, c) => elemOffsets dst0.toNat dst1.toNat sz r c
    (s.copyTargets t k dst0 mask).foldl (fun s u =>
      (s.modTeam u.id fun u => es.flatten.foldl (fun u o => u.scratchPut o [(s.freeVal 15 o).setWidth 8]) u).drawn) s

/-- Virtual addresses of the global side of some events. -/
def copyVirt (k : CopyKind) (e : Nat) (src0 src1 dst0 dst1 box1 : Word) (us : List CopyUnit) : List Nat :=
  match k with
  | .cpy | .cpym => us.map fun u => unitGlobal (pairOf src0 src1) box1 e u
  | .cpyo => us.map fun u => unitGlobal (pairOf dst0 dst1) box1 e u
  | .cpyx => []

/-- Is this event the one that sends its element's request to a link: an element of 16 bytes, of two events, lies in one sector (R253)? -/
def asksLink (op : EngOp) (e : Nat) (us : List CopyUnit) (u : CopyUnit) : Bool :=
  let mate := if u.num % 2 = 0 then u.num + 1 else u.num - 1
  decide (e ≤ 8) || !(op.moved.contains mate || (u.num % 2 == 1 && us.any fun v => v.num == mate))

/-- Performs some unit events of a copy: their reads, then their writes. A destination byte that overlaps the source is undefined, and the
other destination bytes take the source as it was (R190). The events leave their translations in the die's unit (R325), and go to the link in host or peer memory (R253). -/
def moveUnits (s : State) (op : EngOp) (t : Team) (k : CopyKind) (e : Nat) (src0 src1 dst0 dst1 box0 box1 mask : Word) (us : List CopyUnit) :
    Got State :=
  match us.mapM fun u => s.copySource t k e op.kept src0 src1 box1 u with
  | .error f => .error f
  | .ok data =>
    let seen (s : State) : State :=
      (s.cacheWalks t.die t.asid (if k = .cpyo then .write else .read) .program (copyVirt k e src0 src1 dst0 dst1 box1 us)).modEng op.id
        fun o => { o with moved := o.moved ++ us.map (·.num) }
    match k with
    | .cpyo =>
      match us.mapM fun u => s.copyDest t e dst0 dst1 box1 u with
      | .error f => .error f
      | .ok pas =>
        .ok (seen ((us.zip (pas.zip data)).foldl (fun s (u, pa, bs) =>
          ((if asksLink op e us u then s.askLink pa (unitBytes e) .write else s).homeWrite pa bs none).l1DropPhys op.core pa (unitBytes e)) s))
    | _ =>
      let srcs : List Nat := match k with
        | .cpyx => ((copyUnits box0 e).map fun u => unitOffsets src0.toNat src1.toNat e u).flatten
        | _ => []
      let srcTeam := if k = .cpyx then s.descShare t src0.toNat else none
      let offs := us.map fun u => unitOffsets dst0.toNat dst1.toNat e u
      -- source bytes that these events write over, for the events that have still to read them
      let lost : Tab (Byte × Bool) := match srcTeam.bind s.team? with
        | some v => if (s.copyTargets t k dst0 mask).any (fun u => u.id == v.id) then (offs.flatten.filter srcs.contains).map fun o => (o, v.scratchByte o, v.scratchPoison.contains (o / 8)) else []
        | none => []
      let keep (s : State) : State := s.modEng op.id fun o =>
        { o with kept := lost.foldl (fun t p => if (tabFind p.1 t).isSome then t else tabSet p.1 p.2 t) o.kept }
      let asked : State := (copyVirt k e src0 src1 dst0 dst1 box1 (us.filter (asksLink op e us))).foldl (fun s va =>
        match s.translate t.die t.asid va .read .program with
        | .ok pa => s.askLink pa (unitBytes e) .read
        | .error _ => s) s
      .ok (keep (seen ((s.copyTargets t k dst0 mask).foldl (fun s' u =>
        let es := (offs.zip data).map fun (os, bs) =>
          (os, (os.zip bs).map fun (o, b) => if srcTeam = some u.id ∧ srcs.contains o then (s.freeVal 16 o).setWidth 8 else b)
        s'.modTeam u.id fun u => putElems u es) asked)))

/-- Events of a copy that it has not performed. -/
def unitsLeft (op : EngOp) (box0 : Word) (e : Nat) : List CopyUnit := (copyUnits box0 e).filter fun u => !op.moved.contains u.num

/-- Some of the events of a pending copy are performed ahead of its completion; which ones is unspecified (R184, R190). (DEDUCED, log entry 21) -/
def copyProgress (s : State) (op : EngOp) : State :=
  match op.kind, s.team? op.team with
  | .copy k e _ src0 src1 dst0 dst1 box0 box1 mask, some t =>
    if s.engHeld op || !s.copyOk t k e src0 src1 dst0 dst1 box0 box1 mask then s
    else ((unitsLeft op box0 e).filter fun u => s.freeBit 35 u.num).foldl (fun s u =>
      let vas := copyVirt k e src0 src1 dst0 dst1 box1 [u]
      if !(vas.all (s.canWalk t.die t.asid)) then s.joinWalks t.die t.asid vas
      else if vas.any (s.rowBusy t.die t.asid) then s
      else
        match s.moveUnits ((s.eng? op.id).getD op) t k e src0 src1 dst0 dst1 box0 box1 mask [u] with
        | .ok s => (s.beginOp op.id).useWalks t.die t.asid vas
        | .error _ => s) s
  | _, _ => s

/-- The end of a copy that met a fault on a global access: status 1, its destination undefined. -/
def copyFails (s : State) (id status : Nat) : State :=
  match s.eng? id with
  | none => s
  | some op =>
    match op.kind, s.team? op.team with
    | .copy k e tag _ _ dst0 dst1 box0 _ mask, some t => (s.spoilCopy op t k e dst0 dst1 box0 mask).endCopy op tag status
    | _, _ => s

/-- COPY_COMPLETE: the events that are left are performed, and the tag takes the status. (DEDUCED, log entry 21) -/
def copyComplete (s : State) (id : Nat) : State :=
  match s.eng? id with
  | none => s
  | some op =>
    match op.kind, s.team? op.team with
    | .copy k e tag src0 src1 dst0 dst1 box0 box1 mask, some t =>
      let us := unitsLeft op box0 e
      if s.engHeld op then s
      else if !s.copyOk t k e src0 src1 dst0 dst1 box0 box1 mask then s.endCopy op tag 2
      else s.withWalks t.die t.asid (copyVirt k e src0 src1 dst0 dst1 box1 us) fun s =>
        -- rows that overlap in memory are written in no stated order
        let us := if k ≠ .cpyo ∨ boxRows box0 = 1 ∨ boxCols box0 * e ≤ box1.toNat then us else shuffle s.draws us
        match s.moveUnits op t k e src0 src1 dst0 dst1 box0 box1 mask us with
        | .error f =>
          if f.1 = 0x09 then (s.markFailed op.asid).copyFails id 3
          else s.engFault op f.1 f.2.1 f.2.2 fun s => s.copyFails id 1
        | .ok s => s.drawn.endCopy op tag 0
    | _, _ => s

/-! ### Issue -/

/-- Issue of a copy (R183, R189): a tag at or above the team's count faults. -/
def issueCopy (s : State) (sl : IssueSlot) (t : Team) (x : Thread) (k : CopyKind) (e : Nat) (tag : Nat) (src dst box : DWord)
    (mask : Word) : State :=
  if t.tags.length ≤ tag then s.deliver sl.team x.tid sl.clause sl.idx (plainFault 0x0E)
  else
    let op := { mkEng t x (.copy k e tag (loWord src) (hiWord src) (loWord dst) (hiWord dst) (loWord box) (hiWord box) mask) with
      tag := tag, after := s.ownBefore t.id x.tid ++ s.pathOf t.core }
    (s.modTeam t.id fun t =>
      { t with
        cp := t.cp + 1
        tags := listSet tag (match t.tags[tag]? with
          | some g => ⟨g.count + 1, false, if g.count = 0 then 0 else g.status⟩
          | none => ⟨1, false, 0⟩) t.tags }).pushEng op

/-- A copy of the issuing thread: three pairs, and a rank mask for CPYM. -/
def copyOp (s : State) (g : Guard) (k : CopyKind) (e : Size) (tag : BitVec 6) (d : Option Reg) (a b c' : Reg) : State :=
  s.single g (d.toList ++ pairCodes a ++ pairCodes b ++ pairCodes c') fun s sl t x c =>
    s.issueCopy sl t x k e.bytes tag.toNat (readPair x c a) (readPair x c b) (readPair x c c')
      (match d with | some r => readReg x c r | none => 0)

end State

/-! ### Meanings -/

/-- CPY: global to a share. -/
def execCpy (g : Guard) (e : Size) (tag : BitVec 6) (a b c : Reg) (s : State) : Result := .next (s.copyOp g .cpy e tag none a b c)
/-- CPYM: global to the share of each masked rank. -/
def execCpym (g : Guard) (e : Size) (tag : BitVec 6) (d a b c : Reg) (s : State) : Result := .next (s.copyOp g .cpym e tag (some d) a b c)
/-- CPYO: a share to global. -/
def execCpyo (g : Guard) (e : Size) (tag : BitVec 6) (a b c : Reg) (s : State) : Result := .next (s.copyOp g .cpyo e tag none a b c)
/-- CPYX: share to share. -/
def execCpyx (g : Guard) (e : Size) (tag : BitVec 6) (a b c : Reg) (s : State) : Result := .next (s.copyOp g .cpyx e tag none a b c)

/-- A copy ends (R189 to R192). -/
def execCopyComplete (op : Nat) (s : State) : Result := .next (s.copyComplete op)

def execTgwany (g : Guard) (a : Reg) (s : State) : Result :=
  .next (s.withLanes g (pairCodes a) fun s sl t ls => ls.foldl (fun s x => s.tagWait sl t x false (readPair x (t.crewOf x) a)) s)
def execTgwall (g : Guard) (a : Reg) (s : State) : Result :=
  .next (s.withLanes g (pairCodes a) fun s sl t ls => ls.foldl (fun s x => s.tagWait sl t x true (readPair x (t.crewOf x) a)) s)

/-- Does a mask name a tag that the team lacks (Table 9.1)? -/
def maskTooHigh (t : Team) (m : DWord) : Bool := decide (t.tags.length < 64 ∧ 2 ^ t.tags.length ≤ m.toNat)

/-- Clears the done bit and status of the tags that `p` selects. -/
def clearTags (t : Team) (p : Nat → Tag → Bool) : Team :=
  { t with tags := (List.range t.tags.length).filterMap fun i => (t.tags[i]?).map fun g => if p i g then { g with done := false, status := 0 } else g }

/-- TGFF (R194). -/
def execTgff (g : Guard) (tb clr : Bool) (d a : Reg) (s : State) : Result :=
  .next (s.withLanes g (d :: pairCodes a) fun s sl t ls =>
    let bad (x : Thread) : Bool := maskTooHigh t (readPair x (t.crewOf x) a)
    let good := ls.filter fun x => !bad x
    let word (x : Thread) : Word × Option Nat := State.tgffWord t (readPair x (t.crewOf x) a)
    let s : State := good.foldl (fun s x => s.writeRegs sl.team x.tid tb sl.idx [(laneDst good x d, (word x).1)]) s
    let s : State := if clr then s.modTeam t.id fun t => clearTags t fun i _ => good.any fun x => (word x).2 == some i else s
    (ls.filter bad).foldl (fun s x => s.deliver sl.team x.tid sl.clause sl.idx (plainFault 0x0E)) s)

/-- TGCLR (R194). -/
def execTgclr (g : Guard) (a : Reg) (s : State) : Result :=
  .next (s.withLanes g (pairCodes a) fun s sl t ls => ls.foldl (fun s x =>
    let m := readPair x (t.crewOf x) a
    if maskTooHigh t m then s.deliver sl.team x.tid sl.clause sl.idx (plainFault 0x0E)
    else s.modTeam t.id fun t => clearTags t fun i g => bit i m.toNat && g.count == 0) s)

end Sys2Proof.Machine
end

