-- ==== Sys2Proof/Machine/Matrix.lean ====
section
/-! DEFINITION. The matrix engine: opcodes 0x80 to 0x89 (R195 to R211), TILE_OP_COMPLETE, GANG_PART_END and TK_DRAIN_START. A tile
operation, or a gang part, takes effect at its completion, with operand elements that it may have read before (notes/assumptions/21.md). -/

namespace Sys2Proof.Machine

/-! ### Tiles -/

namespace Tile

/-- Element (i, k); one that nothing has written since the fill is undefined (R66). -/
def get (x : Tile) (i k : Nat) : Word :=
  (tabFind (64 * i + k) x.elems).getD (match x.fill with | none => 0 | some f => Config.undefWord f (64 * i + k))
def put (x : Tile) (i k : Nat) (v : Word) : Tile := { x with elems := tabSet (64 * i + k) v x.elems }
/-- Is some operation on it not yet covered (R43)? -/
def isOpen (x : Tile) : Bool := !x.opens.isEmpty
/-- Word `i` of a tile that is complete and not covered: one fixed pattern, elements first, the record from 4096 on (R3). -/
def shown (x : Tile) (i : Nat) (real : Word) : Word := if x.isOpen then Config.undefWord x.hidden i else real

end Tile

/-- A tile whose elements are all zero, with a clear record. -/
def Tile.zero (x : Tile) : Tile := { x with fill := none, elems := [], record := [0, 0, 0, 0] }

namespace State

def tile? (s : State) (team n : Nat) : Option Tile := (s.team? team).bind fun t => t.tiles[n]?
def modTile (s : State) (team n : Nat) (f : Tile → Tile) : State :=
  s.modTeam team fun t => { t with tiles := (List.range t.tiles.length).filterMap fun i => (t.tiles[i]?).map fun x => if i = n then f x else x }

/-- Leaves M × N elements of a tile and, if asked, its record undefined (R43, R203). -/
def spoilTile (s : State) (team n m k : Nat) (rec_ : Bool) : State :=
  let (fill, s) := s.fresh
  s.modTile team n fun x =>
    let x := (boxElems m k).foldl (fun (x : Tile) (i, j) => x.put i j (Config.undefWord fill (64 * i + j))) x
    if rec_ then { x with record := (List.range 4).map fun i => Config.undefWord fill (4096 + i) } else x

/-- Is a tile operation on the tile pending (R205)? -/
def tilePending (s : State) (z : Tile) : Bool := z.opens.any fun o => s.engs.any fun e => e.id == o.op

/-- At an operation's end the elements that MWRITE wrote while it was pending become undefined (R205), and until it is covered the tile
shows one fixed pattern (R3). -/
def settleTile (s : State) (team n op : Nat) : State :=
  let (fill, s) := s.fresh
  s.modTile team n fun x =>
    { (x.spoiled.filter fun p => p.op == op).foldl (fun (x : Tile) p => { x with elems := tabSet p.elem (Config.undefWord fill p.elem) x.elems }) x with
      spoiled := x.spoiled.filter fun p => p.op != op
      hidden := fill }

/-! ### Issue of a tile operation -/

/-- An operation on a tile becomes one that its readers must wait for. -/
def openTile (s : State) (team n : Nat) (o : OpenOp) : State := s.modTile team n fun x => { x with opens := x.opens ++ [o] }

/-- Queues a tile operation: `tl` rises, and the first issue after a returned TWAIT clears the sticky status of all but what has failed since
(R201, R203; DEDUCED, log entry 35). -/
def issueTileOp (s : State) (e : EngOp) : State :=
  let id := s.nextId
  let s : State := s.pushEng e
  let s : State := s.modTeam e.team fun t =>
    { t with tl := t.tl + 1, tstat := if t.tstat.returned then ⟨t.tstat.fresh.status, t.tstat.fresh.tile, t.tstat.fresh.failed, false, t.tstat.fresh, t.tstat.last⟩ else t.tstat }
  let s : State := if e.parts.isEmpty then s.openTile e.team e.tile ⟨id, e.team, e.signal⟩ else s
  e.parts.foldl (fun s p => s.openTile p.team e.tile ⟨id, e.team, e.signal⟩) s

/-- A tile field at or above the team's count faults (Table 9.1). -/
def badTile (s : State) (sl : IssueSlot) (tid : Nat) : State := s.deliver sl.team tid sl.clause sl.idx (plainFault 0x0E)

/-! ### Fragments (R197) -/

/-- The operand codes of a fragment, none when a condition of R197 on the pair fails. -/
def fragCodes (c : Crew) (w0 w1 : Word) (rows k bitsPer : Nat) : Option (List Nat) :=
  let first := w0.toNat % 256
  let n := ceilDiv (k * bitsPer) 32
  if w0.toNat / 256 = 0 ∧ w1 = 0 ∧ rows ≤ 32 ∧ n ≤ 64 ∧ first + n ≤ 192 ∧ first + n ≤ 32 * (1 + c.granules)
  then some ((List.range n).map fun i => first + i) else none

/-- The thread that a lane of a crew holds; an exited one only where no other has been moved there. -/
def laneHolder (t : Team) (crew lane : Nat) : Option Thread :=
  let here (x : Thread) : Bool := x.crew == crew && x.lane == lane
  (t.threads.find? fun x => here x && x.run != .exited).orElse fun _ => t.threads.find? here

/-- The value of a fragment register of a lane: what the covering TWAIT will leave in it. A lane that no thread holds reads an
undefined word. -/
def fragWord (s : State) (t : Team) (crew lane code : Nat) : Word :=
  match laneHolder t crew lane with
  | some x =>
    match x.frags.find? fun f => f.code == code with
    | some f => f.val
    | none => tabGet 0#32 code x.regs
  | none => s.freeVal 11 (256 * lane + code)

/-- From the issue of an operation, its fragment registers are undefined to their readers. -/
def takeFrag (s : State) (team crew rows : Nat) (codes : List Nat) : State :=
  (s.modTeam team fun t =>
    { t with threads := t.threads.map fun x =>
        if x.crew = crew ∧ x.lane < rows ∧ (laneHolder t crew x.lane).map (·.tid) = some x.tid then
          { x with
            frags := (x.frags.map fun f => if codes.contains f.code then { f with settled := false } else f) ++
              ((codes.filter fun c => !(x.frags.any fun f => f.code == c)).map fun c => ⟨c, tabGet 0#32 c x.regs, false⟩)
            flips := x.flips.filter fun f => !codes.contains f.code
            regs := codes.foldl (fun r c => tabPut 0#32 c (s.freeVal 17 (256 * x.tid + c)) r) x.regs }
        else x }).drawn

/-- The fragment registers that an operation reads, in its crew. -/
def engFrags (s : State) (e : EngOp) : List Nat :=
  match e.kind, (s.team? e.team).bind fun t => t.crew? e.crew with
  | .mma x, some c =>
    let b := blockOf x.block
    let of (reg : Bool) (w0 w1 : Word) (code rows : Nat) : List Nat := if reg then (fragCodes c w0 w1 rows b.k (operandBits code)).getD [] else []
    of b.aReg x.a0 x.a1 b.fa b.m ++ of b.bReg x.b0 x.b1 b.fb b.n
  | _, _ => []

/-- At an operation's end its fragment registers show one fixed pattern, those aside that a pending operation also reads (R3, R184). -/
def settleFrags (s : State) (e : EngOp) : State :=
  let codes := (s.engFrags e).filter fun c => !(s.engs.any fun y => y.id != e.id && y.team == e.team && y.crew == e.crew && (s.engFrags y).contains c)
  s.modTeam e.team fun t =>
    { t with threads := t.threads.map fun x =>
        if x.crew = e.crew then { x with frags := x.frags.map fun f => if codes.contains f.code then { f with settled := true } else f } else x }

/-- The covering TWAIT gives the fragment registers of the team their values. -/
def returnFrags (s : State) (team : Nat) : State :=
  s.modTeam team fun t =>
    { t with threads := t.threads.map fun x =>
        { x with regs := x.frags.foldl (fun r f => tabPut 0#32 f.code f.val r) x.regs, frags := [] } }

/-! ### Operands -/

/-- Bytes of a descriptor operand: rows × ceil(K · bits / 8) of one team's view. -/
def operandCols (code k : Nat) : Nat := ceilDiv (k * operandBits code) 8 / operandSize code

/-- A scratchpad operand as one part reads it: the share and the code of element (row, k). -/
def scratchRaw (u : Team) (w0 w1 code row k : Nat) : Nat :=
  match operandBits code with
  | 4 => (u.scratchByte (descOffset w0 w1 row (k / 2) 1 0 % 2 ^ 19)).toNat / 16 ^ (k % 2) % 16
  | 16 => ofBytes ((elemOffsets w0 w1 2 row k).map u.scratchByte)
  | _ => (u.scratchByte (descOffset w0 w1 row k 1 0 % 2 ^ 19)).toNat

/-- A register operand: element k of a lane's packed row. -/
def fragRaw (s : State) (t : Team) (crew first code row k : Nat) : Nat :=
  let b := operandBits code
  (s.fragWord t crew row (first + k * b / 32)).toNat / 2 ^ (k * b % 32) % 2 ^ b

/-- The elements of an operand that the operation has read already, by the part's rank and the operand's place: A 0, B 1, their scales 2
and 3 (R184). -/
abbrev Seen := Nat → Nat → Option Nat
def seenKey (rank place row k : Nat) : Nat := ((rank * 4 + place) * 2 ^ 12 + row) * 2 ^ 12 + k
def seenOf (e : EngOp) (rank place : Nat) : Seen := fun row k => tabFind (seenKey rank place row k) e.seen

/-- One operand of a part: well-formed (R188, R197), what it has left to read free of errors, and its elements. -/
structure Operand where
  ok : Bool
  poisoned : Bool
  rows : Nat
  cols : Nat
  raw : Nat → Nat → Nat

def Operand.bad : Operand := ⟨false, false, 0, 0, fun _ _ => 0⟩

/-- A scratchpad or register operand. An element that the operation has not read yet reads as it stands: without an MFENCE too a write that has
been performed or accepted is read as new, where R199 leaves old or new open (DESIGN CHOICE, log entry 89). -/
def operandOf (s : State) (issuer view : Team) (crew : Nat) (seen : Seen) (reg : Bool) (w0 w1 : Word) (code rows k : Nat) : Operand :=
  let out (f : Nat → Nat → Nat) : Nat → Nat → Nat := fun i j => (seen i j).getD (f i j)
  if reg then
    match fragCodes ((issuer.crew? crew).getD (emptyCrew crew)) w0 w1 rows k (operandBits code) with
    | some _ => ⟨true, false, rows, k, out (s.fragRaw issuer crew (w0.toNat % 256) code)⟩
    | none => Operand.bad
  else
    let cols := operandCols code k
    let e := operandSize code
    if !s.descOk view w0.toNat w1.toNat rows cols e then Operand.bad
    else
      match s.windowTarget view w0.toNat with
      | none => Operand.bad
      | some (u, _) =>
        let per := ceilDiv k (max cols 1)
        ⟨true, (boxElems rows cols).any fun (r, c) => (seen r (c * per)).isNone &&
            (elemOffsets w0.toNat w1.toNat e r c).any fun o => u.scratchPoison.contains (o / 8),
         rows, k, out (scratchRaw u w0.toNat w1.toNat code)⟩

/-- A scale array (R198): in reach, free of errors, and its bytes. -/
def scaleOf (s : State) (view : Team) (seen : Seen) (code addr rows k : Nat) : Operand :=
  if code ≠ 0x0A then ⟨true, false, 0, 0, fun _ _ => 0⟩
  else
    let n := ceilDiv k 32
    match s.windowTarget view addr with
    | none => Operand.bad
    | some (u, o) =>
      if u.scratchBytes < o + rows * n then Operand.bad
      else ⟨true, (List.range (rows * n)).any fun i => (seen (i / n) (i % n)).isNone && u.scratchPoison.contains ((o + i) / 8), rows, n,
            fun row b => (seen row b).getD (u.scratchByte (o + row * n + b)).toNat⟩

/-- The four operands of a part, in the order of their places. -/
def partOperands (s : State) (issuer member : Team) (e : EngOp) (x : MmaArgs) : List Operand :=
  let b := blockOf x.block
  let bView := if b.bIssuer then issuer else member
  let seen (i : Nat) : Seen := seenOf e member.rank i
  [s.operandOf issuer member e.crew (seen 0) b.aReg x.a0 x.a1 b.fa b.m b.k, s.operandOf issuer bView e.crew (seen 1) b.bReg x.b0 x.b1 b.fb b.n b.k,
   s.scaleOf member (seen 2) b.fa b.sa b.m b.k, s.scaleOf bView (seen 3) b.fb b.sb b.n b.k]

/-- A gang whose B the issuer resolves is checked for it once, before any part starts (R287): its block is refused if that fails (R196). -/
def gangRefused (s : State) (issuer : Team) (e : EngOp) (x : MmaArgs) : Bool :=
  let b := blockOf x.block
  x.gang && b.bIssuer && (e.parts.all fun p => p.status.isNone) &&
  (match s.partOperands issuer issuer e x with
   | [_, ob, _, tb] => !(ob.ok && tb.ok)
   | _ => false)

/-! ### One part of a product (R40, R41) -/

/-- A part on a member team's tile: its status, and the state after it. With status 3 an integer operation too leaves the record undefined, as
R43 says of every operation, against R41 and R45, by which it leaves the record (DESIGN CHOICE, log entry 73). -/
def mmaPart (s : State) (issuer member : Team) (e : EngOp) (x : MmaArgs) : Nat × State :=
  let b := blockOf x.block
  let os := s.partOperands issuer member e x
  let raw (n i j : Nat) : Nat := (os.getD n Operand.bad).raw i j
  if !(os.all (·.ok)) then (2, s)
  else if os.any (·.poisoned) then (3, s.spoilTile member.id b.tile b.m b.n true)
  else
    match s.tile? member.id b.tile with
    | none => (2, s)
    | some t0 =>
      let start (i j : Nat) : Word := if b.op = 2 then 0 else t0.get i j
      let ks := List.range b.k
      let cells := boxElems b.m b.n
      if isIntCode b.fa then
        (0, s.modTile member.id b.tile fun t => cells.foldl (fun (t : Tile) (i, j) =>
          t.put i j (elementInt (start i j) (ks.map fun k => operandInt b.fa (raw 0 i k) * operandInt b.fb (raw 1 j k)))) t)
      else
        let prod (i j k : Nat) : FVal :=
          exactProduct (if b.fa = 0x0A then some (raw 2 i (k / 32), raw 3 j (k / 32)) else none)
            (operandVal b.fa (raw 0 i k)) (operandVal b.fb (raw 1 j k))
        let ch := chunkOf b.chunk
        (0, s.modTile member.id b.tile fun t => cells.foldl (fun (t : Tile) (i, j) =>
          let r := elementOp ch b.ka b.kb i j (start i j) (ks.map (prod i j))
          { t.put i j r.1 with record := recordAdd t.record r.2 }) t)

/-! ### Drains (R206 to R209) -/

/-- A destination element's value, read for `.add`. -/
def drainOld (code : Nat) (bs : List Byte) : FVal :=
  match code with
  | 4 | 5 => operandVal code (ofBytes bs)
  | _ => match fmtOf code with | some f => decodeF f (ofBytes bs) | none => .nan

/-- The bytes a drain writes for an element. -/
def drainBytes (x : DrainArgs) (t : Word) (old : List Byte) (r c : Nat) : List Byte :=
  let n := codeBytes x.code
  if x.code = 3 then toBytes 4 (if x.form.add then BitVec.ofNat 32 (ofBytes old) + t else t).toNat
  else
    let v := if x.form.add then FVal.add false (drainOld x.code old) (dec32 t) else dec32 t
    let out := srgen x.ka x.kb (BitVec.ofNat 32 (64 * bits 25 20 x.vpitch.toNat + r)) (BitVec.ofNat 32 (64 * bits 31 26 x.vpitch.toNat + c))
    toBytes n (quantise x.code (if x.form.sr then .sr else .rne) x.form.sat out.toNat v)

/-- R207: may the drain start? The share of a window destination. -/
def drainOk (s : State) (t : Team) (x : DrainArgs) : Bool :=
  let n := codeBytes x.code
  drainPitch x.vpitch != 0 && x.dest % n == 0 &&
  (x.form.amax.isNone || (x.amaxAddr % 4 == 0 && x.code != 3)) &&
  (x.form.glob ||
    (match s.windowTarget t x.dest with
     | none => false
     | some (u, o) => (boxElems (drainM x.vpitch) (drainN x.vpitch)).all fun (r, c) => decide (o + (drainAddr x r c - x.dest) + n ≤ u.scratchBytes)))

/-- Where element (r, c) of a global drain lies; under `.add` each is an atomic update, which its page must support (R160, R278, R392). -/
def drainPhys (s : State) (t : Team) (x : DrainArgs) (r c : Nat) : Got Nat :=
  let va := drainAddr x r c % 2 ^ 64
  match s.writable (t.core / 1024) t.asid va .program with
  | .ok pa =>
    if (x.form.add && !atomSupported s.link.atomicReq (s.region pa) (if x.code = 3 then .add else .fadd)) then
      .error (0x07, va, if x.form.add then 2 else 1)
    else if x.form.add && (s.poisoned pa (codeBytes x.code)).isSome then .error (0x09, va, 2)
    else .ok pa
  | .error c => .error (c, va, if x.form.add then 2 else 1)

/-- The atomic maximum at the amax pair (R206): max of the drained patterns with their signs cleared. -/
def amaxUpdate (s : State) (e : EngOp) (t : Team) (x : DrainArgs) (mx : Nat) : Got State :=
  if x.form.amax.isNone then .ok s
  else
    match s.writable (t.core / 1024) t.asid x.amaxAddr .program with
    | .error c => .error (c, x.amaxAddr, 2)
    | .ok pa =>
      if !atomSupported s.link.atomicReq (s.region pa) .maxU then .error (0x07, x.amaxAddr, 2)
      else if (s.poisoned pa 4).isSome then .error (0x09, x.amaxAddr, 2)
      else .ok ((((s.askLink pa 4 .atomic).homeWrite pa (toBytes 4 (max (s.natAt pa 4) mx)) none).l1DropPhys e.core pa 4).cacheWalks t.die t.asid
        .write .program [x.amaxAddr])

/-- The value that a drain takes from element (r, c) of its tile: undefined while an operation is not covered that stood before it, or that
another team has issued there since, a gang's part (R43). -/
def drainVal (x : DrainArgs) (team : Nat) (tl : Tile) (r c : Nat) : Word :=
  if x.opened || tl.opens.any (fun o => o.team != team) then Config.undefWord tl.hidden (64 * r + c) else tl.get r c

/-- The elements of a drain, by number. -/
def drainCells (x : DrainArgs) : List (Nat × Nat × Nat) :=
  let cs := boxElems (drainM x.vpitch) (drainN x.vpitch)
  (List.range cs.length).zip cs

/-- Element writes of a global or window drain, one unit event each (R267, R278). (DEDUCED, log entry 63) -/
def drainRun (s : State) (e : EngOp) (t : Team) (x : DrainArgs) (tl : Tile) (cells : List (Nat × Nat × Nat)) : Got State :=
  let n := codeBytes x.code
  let mark (s : State) : State := s.modEng e.id fun o => { o with moved := o.moved ++ cells.map (·.1) }
  if x.form.glob then
    match cells.mapM fun (_, r, c) => s.drainPhys t x r c with
    | .error f => .error f
    | .ok pas =>
      .ok (mark ((pas.zip cells).foldl (fun s (pa, (_, r, c)) =>
        ((s.askLink pa n (if x.form.add then .atomic else .write)).homeWrite pa (drainBytes x (drainVal x e.team tl r c) (s.bytesAt pa n) r c) none).l1DropPhys e.core pa n)
          (s.cacheWalks t.die t.asid .write .program (cells.map fun (_, r, c) => drainAddr x r c % 2 ^ 64))))
  else
    match s.windowTarget t x.dest with
    | none => .error (0x08, x.dest, 1)
    | some (u, o) =>
      let at_ (r c : Nat) : Nat := o + (drainAddr x r c - x.dest)
      if x.form.add && cells.any fun (_, r, c) => (unitsOf (at_ r c) n).any fun i => u.scratchPoison.contains i then .error (0x09, x.dest, 2)
      else
        .ok (mark (s.modTeam u.id fun u => cells.foldl (fun u (_, r, c) =>
          u.scratchPut (at_ r c) (drainBytes x (drainVal x e.team tl r c) (u.scratchBytes? (at_ r c) n) r c)) u))

/-- Elements of a drain not yet written. -/
def drainLeft (e : EngOp) (x : DrainArgs) : List (Nat × Nat × Nat) := (drainCells x).filter fun p => !e.moved.contains p.1

/-- Where the bytes of a drain lie: physical addresses, or share and offset. -/
def drainPlace (s : State) (e : EngOp) : List (Nat × Nat) :=
  match e.kind, s.team? e.team with
  | .drain x, some t =>
    let n := codeBytes x.code
    let bytes (a : Nat) : List (Nat × Nat) := (List.range n).map fun j =>
      if x.form.glob then
        match s.translate t.die t.asid ((a + j) % 2 ^ 64) .write .program with | .ok pa => (0, pa) | .error _ => (1, 0)
      else match s.windowTarget t x.dest with | some (u, o) => (u.id + 2, o + (a - x.dest) + j) | none => (1, 0)
    ((drainCells x).map fun (_, r, c) => bytes (drainAddr x r c)).flatten.filter fun p => p.1 != 1
  | _, _ => []

/-- An `.add` drain is one indivisible update to the other `.add` drains whose destinations overlap it (R208, R278): it waits while one of
them is under way. -/
def drainTurn (s : State) (e : EngOp) (x : DrainArgs) : Bool :=
  !x.form.add || !(s.engs.any fun y => y.id != e.id && (match y.kind with | .drain z => z.form.add && !z.written | _ => false) && !y.moved.isEmpty &&
    (s.drainPlace y).any fun p => (s.drainPlace e).contains p)

/-! ### Ends (R201, R203) -/

/-- S, its tile and F after one more operation or part. -/
def stickyAdd (z : Sticky) (status tile failed : Nat) : Sticky where
  status := max z.status status
  tile := if status = 0 ∨ status < z.status then z.tile else if z.status < status then tile else min z.tile tile
  failed := z.failed ||| BitVec.ofNat 8 failed

/-- A team's sticky status meets a completed operation or a failed part: the status that TWAIT returns, and what the next issue leaves of it
(R201, R203). -/
def stick (t : Team) (status tile failed : Nat) (last : Bool) : Team :=
  let z := t.tstat
  let y := stickyAdd ⟨z.status, z.tile, z.failed⟩ status tile failed
  { t with tstat := ⟨y.status, y.tile, y.failed, z.returned, stickyAdd z.fresh status tile failed, if last then status else z.last⟩ }

/-- The word that TWAIT writes (Table 9.9). -/
def twaitWord (t : Team) : Word :=
  BitVec.ofNat 32 (t.tstat.status + 256 * (if t.tstat.status = 0 then 0 else t.tstat.tile) + 65536 * t.tstat.failed.toNat)

/-- What the end of a TWAIT does for a team (R201): a device-scope acquire, its operations are covered, fragments return. A member's tile of a
gang with signal is covered by the phase (R203), of one without by the issuer's TWAIT (DEDUCED, log entry 35). -/
def coverTeam (s : State) (t : Team) : State :=
  let s : State := (s.l1Drop t.core t.asid).returnFrags t.id
  let s : State := { s with teams := s.teams.map fun u =>
    { u with tiles := u.tiles.map fun k => { k with opens := k.opens.filter fun o => o.team != t.id || (u.id != t.id && o.bar.isSome) } } }
  s.modTeam t.id fun t => { t with tstat := { t.tstat with returned := true, fresh := ⟨0, 0, 0⟩ } }

/-- Wakes the TWAIT sleepers of a team whose `tl` is zero. -/
def wakeTwait (s : State) (team : Nat) : State :=
  match s.team? team with
  | none => s
  | some t =>
    let ws := t.threads.filterMap fun x => match x.run with | .asleep (.twait d) => some (x.tid, d) | _ => none
    if t.tl ≠ 0 ∨ ws.isEmpty then s
    else ws.foldl (fun s (tid, d) => s.wake team tid [(d, twaitWord t)]) (s.coverTeam t)

/-- Ends a tile operation with its status and failed ranks: counters, sticky status, the engine signal, trace, waiters. -/
def endTileOp (s : State) (e : EngOp) (status failed : Nat) : State :=
  let s : State := ((s.beginOp e.id).endRecord e status).settleFrags e
  let s : State := { s with engs := s.engs.filter fun x => x.id != e.id }
  let s : State := s.modTeam e.team fun t => { stick t status e.tile failed true with tl := t.tl - 1 }
  let s : State := ((e.team :: e.parts.map (·.team)).eraseDups).foldl (fun s u => s.settleTile u e.tile e.id) s
  let s : State := match e.signal with
    | some i => s.modBar ⟨.cluster, e.cluster, 0, i⟩ fun b => { b with signals := b.signals + 1 }
    | none => s
  (s.wakeTwait e.team).settle

/-- Does an earlier tile operation of the team on the same tile stand in front (R43)? -/
def tileBlocked (s : State) (e : EngOp) : Bool :=
  s.engs.any fun x => x.team == e.team && x.tile == e.tile && engKind x == 1 && decide (x.id < e.id)

/-- GANG_PART_END: the part on one rank ends. (DEDUCED, log entry 35) -/
def gangPartEnd (s : State) (id rank : Nat) : State :=
  match s.eng? id with
  | none => s
  | some e =>
    match e.kind, e.parts.find? fun p => p.rank == rank, s.team? e.team with
    | .mma x, some p, some t =>
      match s.team? p.team with
      | none => s
      | some u =>
        if s.engHeld e || s.tileBlocked e || p.status.isSome || s.gangRefused t e x then s
        else
          let (st, s) := (s.beginOp id).mmaPart t u e x
          let s : State := if st = 2 then s.spoilTile u.id e.tile (blockOf x.block).m (blockOf x.block).n false else s
          let s : State := if st = 3 then s.markFailed e.asid else s
          let s : State := if st ≠ 0 ∧ u.id ≠ e.team then s.modTeam u.id fun u => stick u st e.tile 0 false else s
          s.modEng id fun e => { e with parts := e.parts.map fun p => if p.rank = rank then { p with status := some st } else p }
    | _, _, _ => s

/-- The end of a drain that met a fault: status 2, or 3 for a data error; its destination is undefined unless only the amax update was left
(R207). With status 3 the elements that it drained and the record are undefined too, as R43 says of every operation (DESIGN CHOICE, log
entry 73). -/
def drainFails (s : State) (id status : Nat) : State :=
  match s.eng? id with
  | none => s
  | some e =>
    match e.kind with
    | .drain x =>
      let s : State := if x.written then s else s.spoilGlobal e.core e.asid (globalDest e)
      (if status = 3 then s.spoilTile e.team e.tile (drainM x.vpitch) (drainN x.vpitch) true else s).endTileOp e status 0
    | _ => s

/-- The outcome of a fault of an engine operation, once its entry is written. -/
def engOutcome (s : State) (id : Nat) (c : Byte) (token : Nat) : State :=
  match s.eng? id with
  | none => s
  | some e =>
    if token ≠ 0 then s.parkEng id c token
    else match e.kind with | .copy .. => s.copyFails id 1 | _ => s.drainFails id 2

/-- The global addresses that a drain has still to reach. -/
def drainVirt (e : EngOp) (x : DrainArgs) : List Nat :=
  (if x.form.glob && !x.written then (drainLeft e x).map fun (_, r, c) => drainAddr x r c % 2 ^ 64 else []) ++
    if x.form.amax.isSome then [x.amaxAddr] else []

/-- A drain takes effect: the elements that are left, then the amax update. -/
def drainComplete (s : State) (e : EngOp) (t : Team) (x : DrainArgs) : State :=
  if !s.drainOk t x then s.endTileOp e 2 0
  else
    match s.tile? e.team e.tile with
    | none => s.endTileOp e 2 0
    | some tl =>
      if !s.drainTurn e x then s
      else s.withWalks t.die t.asid (drainVirt e x) fun s =>
        let fail (s : State) (f : Byte × Nat × Nat) : State :=
          if f.1 = 0x09 then (s.markFailed e.asid).drainFails e.id 3 else s.engFault e f.1 f.2.1 f.2.2 fun s => s.drainFails e.id 2
        -- rows that overlap are written in no stated order (R206)
        let cells := drainLeft e x
        let cells := if drainN x.vpitch * codeBytes x.code ≤ drainPitch x.vpitch then cells else shuffle s.draws cells
        match if x.written then .ok s else s.drainRun e t x tl cells with
        | .error f => fail s f
        | .ok s' =>
          let s' : State := (s'.modEng e.id fun o => { o with kind := .drain { x with written := true } }).drawn
          let mx := (drainCells x).foldl (fun m (_, r, c) => max m ((drainVal x e.team tl r c).toNat % 2 ^ 31)) 0
          -- the elements keep what was written; a parked update is retried alone
          match s'.amaxUpdate e t x mx with
          | .ok s'' => s''.endTileOp e 0 0
          | .error f => fail s' f

/-- The element that an MLOAD reads for (i, k): read before (R184), or now. -/
def mloadWord (e : EngOp) (u : Team) (w0 w1 : Word) (i k : Nat) : Word :=
  match tabFind (seenKey 0 0 i k) e.seen with
  | some n => BitVec.ofNat 32 n
  | none => BitVec.ofNat 32 (ofBytes ((elemOffsets w0.toNat w1.toNat 4 i k).map u.scratchByte))

/-- TILE_OP_COMPLETE. (DEDUCED, log entry 21.) With status 3 an MLOAD leaves its 64 × 64 elements and the record undefined, as R43 says of
every operation, against R45 and R204, by which it leaves the record (DESIGN CHOICE, log entry 73). -/
def tileOpComplete (s : State) (id : Nat) : State :=
  match s.eng? id with
  | none => s
  | some e =>
    match s.team? e.team with
    | none => s
    | some t =>
      if s.engHeld e || s.tileBlocked e then s
      else
        match e.kind with
        | .copy .. => s
        | .mzero => (s.modTile e.team e.tile Tile.zero).endTileOp e 0 0
        | .mload w0 w1 =>
          if !s.descOk t w0.toNat w1.toNat 64 64 4 then s.endTileOp e 2 0
          else
            match s.windowTarget t w0.toNat with
            | none => s.endTileOp e 2 0
            | some (u, _) =>
              if (boxElems 64 64).any fun (i, k) => (tabFind (seenKey 0 0 i k) e.seen).isNone &&
                  (elemOffsets w0.toNat w1.toNat 4 i k).any fun o => u.scratchPoison.contains (o / 8) then
                ((s.spoilTile e.team e.tile 64 64 true).markFailed e.asid).endTileOp e 3 0
              else
                (s.modTile e.team e.tile fun x => (boxElems 64 64).foldl (fun (x : Tile) (i, k) => x.put i k (mloadWord e u w0 w1 i k)) x).endTileOp e 0 0
        | .mma x =>
          let n := ((s.grid? t.grid).map fun g => g.launch.w * g.launch.h).getD 1
          if !blockOk (blockOf x.block) x.gang t.tiles.length n t.rank || s.gangRefused t e x then s.endTileOp e 2 0
          else if x.gang then
            if e.parts.any fun p => p.status.isNone then s
            else
              let failed := (e.parts.filter fun p => p.status != some 0).foldl (fun m p => m + 2 ^ p.rank) 0
              let own := ((e.parts.find? fun p => p.team == e.team).bind (·.status)).getD 0
              s.endTileOp e (if own ≠ 0 then own else if failed ≠ 0 then 1 else 0) failed
          else
            let (st, s) := s.mmaPart t t e x
            (if st = 3 then s.markFailed e.asid else s).endTileOp e st 0
        | .drain x => s.drainComplete e t x

/-- The teams whose shares an operation names (R230). -/
def opShares (s : State) (e : EngOp) : List Nat :=
  match s.team? e.team with
  | none => []
  | some t =>
    let share (v : Team) (w0 : Nat) : List Nat := (s.descShare v w0).toList
    match e.kind with
    | .copy k _ _ src0 _ dst0 _ _ _ mask =>
      (s.copyTargets t k dst0 mask).map (·.id) ++ (match k with | .cpyo | .cpyx => share t src0.toNat | _ => [])
    | .mload w0 _ => share t w0.toNat
    | .drain x => if x.form.glob then [] else share t x.dest
    | .mma x =>
      let b := blockOf x.block
      let views := if x.gang then e.parts.filterMap fun p => if p.status.isNone then s.team? p.team else none else [t]
      (views.map fun v =>
        (if b.aReg then [] else share v x.a0.toNat) ++ (if b.bReg then [] else share (if b.bIssuer then t else v) x.b0.toNat) ++
        (if b.fa = 0x0A then share v b.sa else []) ++ if b.fb = 0x0A then share (if b.bIssuer then t else v) b.sb else []).flatten
    | .mzero => []

/-! ### Progress of pending operations (R184, R267) -/

/-- Operand elements that a pending tile operation reads ahead of its completion; which ones is unspecified (R184). -/
def readAhead (s : State) (id rank place : Nat) (o : Operand) : State :=
  if !o.ok || o.poisoned then s
  else
    let keys := (boxElems o.rows o.cols).filter fun (i, k) => s.freeBit 36 (seenKey rank place i k)
    s.modEng id fun e => { e with seen := keys.foldl (fun t (i, k) => tabSet (seenKey rank place i k) (o.raw i k) t) e.seen }

/-- The part of a team on one member reads ahead. -/
def partAhead (s : State) (issuer member : Team) (e : EngOp) (x : MmaArgs) : State :=
  ((List.range 4).zip (s.partOperands issuer member e x)).foldl (fun s (i, o) => s.readAhead e.id member.rank i o) s

/-- A pending tile operation makes progress: it reads operand elements, or a drain writes some of its own. (DEDUCED, log entry 21.) One behind an
earlier operation on its tile reads none until that has ended (DESIGN CHOICE, log entry 90). -/
def tileProgress (s : State) (e : EngOp) : State :=
  match s.team? e.team with
  | none => s
  | some t =>
    if s.engHeld e || s.tileBlocked e then s
    else
      match e.kind with
      | .mma x =>
        let n := ((s.grid? t.grid).map fun g => g.launch.w * g.launch.h).getD 1
        if !blockOk (blockOf x.block) x.gang t.tiles.length n t.rank || s.gangRefused t e x then s
        else if x.gang then
          (e.parts.filter fun p => p.status.isNone).foldl (fun s p =>
            match s.team? p.team with | some u => s.partAhead t u e x | none => s) (s.beginOp e.id)
        else (s.beginOp e.id).partAhead t t e x
      | .mload w0 w1 =>
        if !s.descOk t w0.toNat w1.toNat 64 64 4 then s
        else
          match s.windowTarget t w0.toNat with
          | some (u, _) => (s.beginOp e.id).readAhead e.id 0 0 ⟨true,
              (boxElems 64 64).any fun (i, k) => (elemOffsets w0.toNat w1.toNat 4 i k).any fun o => u.scratchPoison.contains (o / 8), 64, 64,
              fun i k => (mloadWord e u w0 w1 i k).toNat⟩
          | none => s
      | .drain x =>
        match s.tile? e.team e.tile with
        | some tl =>
          if x.written || !s.drainOk t x || !s.drainTurn e x then s
          else ((drainLeft e x).filter fun p => s.freeBit 37 p.1).foldl (fun s p =>
            let vas := if x.form.glob then [drainAddr x p.2.1 p.2.2 % 2 ^ 64] else []
            if !(vas.all (s.canWalk t.die t.asid)) then s.joinWalks t.die t.asid vas
            else if vas.any (s.rowBusy t.die t.asid) then s
            else match s.drainRun e t x tl [p] with | .ok s => (s.beginOp e.id).useWalks t.die t.asid vas | .error _ => s) s
        | none => s
      | _ => s

/-- The engines work on beside everything else: each pending operation makes progress or not, which is unspecified; their writes come by
ascending core, each core's in its engines' order (R268). -/
def engineProgress (s : State) : State :=
  ((sortKey (·.core) s.engs).map (·.id)).foldl (fun s id =>
    match s.eng? id with
    | none => s
    | some e => if s.freeBit 38 0 then (match e.kind with | .copy .. => s.copyProgress e | _ => s.tileProgress e).drawn else s.drawn) s

/-- TK_DRAIN_START: ticket counter 0 has reached the team's number (R208). -/
def tkDrainStart (s : State) (id : Nat) : State :=
  match s.eng? id with
  | none => s
  | some e =>
    match s.team? e.team with
    | none => s
    | some t =>
      if !e.queued || t.res != .resident || s.engFrozen e || s.ticketWait e then s
      else (s.modEng id fun e => { e with queued := false }).beginOp id

/-! ### Issue (R195 to R206) -/

/-- Reads the parameter block at a global or window address (R195, Table 9.1). -/
def readBlock (s : State) (t : Team) (win : Bool) (a : Nat) : Except Byte (List DWord) :=
  let dwords (bs : List Byte) : List DWord := (List.range 8).map fun i => BitVec.ofNat 64 (ofBytes ((bs.drop (8 * i)).take 8))
  if a % 64 ≠ 0 then .error 0x12
  else if win then
    match s.windowTarget t a with
    | none => .error 0x08
    | some (u, o) =>
      if u.scratchBytes < o + 64 then .error 0x08
      else if (unitsOf o 64).any fun i => u.scratchPoison.contains i then .error 0x09
      else .ok (dwords (u.scratchBytes? o 64))
  else
    match s.readVirt t.die t.asid a 64 .read .program with
    | .error c => .error c
    | .ok bs => .ok (dwords bs)

/-- The parts of an accepted gang: the members whose ranks are masked. -/
def gangParts (s : State) (t : Team) (mask : Nat) : List GangPart :=
  ((List.range 8).filter fun r => bit r mask).filterMap fun r =>
    (s.teams.find? fun u => u.cluster == t.cluster && u.rank == r && u.res == .resident).map fun u => ⟨r, u.id, none⟩

/-- MISSUE and MGANG of the issuing thread. Table 9.1 does not order its checks: the block's read comes first, then 0x0A, then 0x0F (DESIGN
CHOICE, log entry 92). -/
def issueMma (s : State) (sl : IssueSlot) (t : Team) (x : Thread) (gang win : Bool) (addr : Nat) (pa pb : DWord) : State :=
  let fault (s : State) (f : FaultInfo) : State := s.deliver sl.team x.tid sl.clause sl.idx f
  match s.readBlock t win addr with
  | .error c => fault s { targetFault c addr with
      access := some 0, detail := if c ≠ 0x09 then 0 else if win then 2 else s.virtErrorClass t.die t.asid addr 64 }
  | .ok d =>
    let s : State := if win then s else s.agentRead t.die t.asid addr 64 .read .program
    let b := blockOf d
    let n := ((s.grid? t.grid).map fun g => g.launch.w * g.launch.h).getD 1
    if defaultChunk b ∧ s.detLevel t = 3 then fault s (plainFault 0x0A)
    else if gang ∧ ((List.range n).any fun r => bit r b.mask &&
        !(s.teams.any fun u => u.cluster == t.cluster && u.rank == r && u.res == .resident)) then fault s (plainFault 0x0F)
    else
      let ok := blockOk b gang t.tiles.length n t.rank
      let args : MmaArgs := ⟨d, loWord pa, hiWord pa, loWord pb, hiWord pb, gang, x.crew, s.detLevel t⟩
      let signal := if b.signal then some b.bar else none
      let s : State := match signal with
        | some i => s.modBar ⟨.cluster, t.cluster, 0, i⟩ fun z => { z with expected := z.expected + 1 }
        | none => s
      let c := t.crewOf x
      let frag (reg : Bool) (p : DWord) (code rows : Nat) : List (Nat × List Nat) :=
        if reg && ok then
          match fragCodes c (loWord p) (hiWord p) rows b.k (operandBits code) with | some l => [(rows, l)] | none => []
        else []
      let e := { mkEng t x (.mma args) with
        tile := b.tile, signal := signal, after := x.mfence, parts := if gang && ok then s.gangParts t b.mask else [] }
      let s : State := s.issueTileOp e
      (frag b.aReg pa b.fa b.m ++ frag b.bReg pb b.fb b.n).foldl (fun s (rows, codes) => s.takeFrag t.id x.crew rows codes) s

/-- MISSUE and MGANG: the block at a pair or at a window register, and two operand pairs. -/
def mmaOp (s : State) (g : Guard) (gang win : Bool) (a b c' : Reg) : State :=
  s.single g ((if win then [a] else pairCodes a) ++ pairCodes b ++ pairCodes c') fun s sl t x c =>
    s.issueMma sl t x gang win (if win then (readReg x c a).toNat else (readPair x c a).toNat) (readPair x c b) (readPair x c c')

/-- The format codes that the `q` form of a drain accepts (R206). -/
def qCodeOk (code : Nat) : Bool := decide (code ≤ 5) || isFp8 code

/-- MDRAIN of the issuing thread (R206, R92). The whole `q` register is its format code, so that a value with bits above [7:0] names none (DESIGN
CHOICE, log entry 93); the checks are made in the order of Table 9.1's rows: tile, format, ticket, level (DESIGN CHOICE, log entry 92). -/
def issueDrain (s : State) (sl : IssueSlot) (t : Team) (x : Thread) (c : Crew) (z : Drain) : State :=
  let fault (cause : Byte) : State := s.deliver sl.team x.tid sl.clause sl.idx (plainFault cause)
  let q := (readReg x c z.d).toNat
  let code := drainCode z.fmt q
  if t.tiles.length ≤ z.tile.toNat then fault 0x0E
  else if z.fmt = .q ∧ (!qCodeOk q ∨ (!z.sat ∧ (q = 4 ∨ q = 5))) then fault 0x02
  else if z.tk ∧ t.passed.any (fun p => p.n == 0) then fault 0x14
  else if z.add ∧ !z.tk ∧ 1 ≤ s.detLevel t then fault 0x0A
  else
    let keyReg := if z.amax.isSome then z.c + 2#8 else z.c
    let key := if z.sr then readPair x c keyReg else 0
    let args : DrainArgs :=
      { form := z, code := code, dest := if z.glob then (readPair x c z.a).toNat else (readReg x c z.a).toNat,
        vpitch := readReg x c z.b, amaxAddr := if z.amax.isSome then (readPair x c z.c).toNat else 0,
        ka := loWord key, kb := hiWord key, written := false, opened := ((t.tiles[z.tile.toNat]?).map (·.isOpen)).getD false }
    s.issueTileOp { mkEng t x (.drain args) with
      tile := z.tile.toNat, queued := z.tk, after := s.ownBefore t.id x.tid ++ s.pathOf t.core }

end State

/-! ### Meanings -/

/-- MFENCE (R199, R272): later tile operations of the thread wait for its earlier window writes and for its earlier acquires. -/
def execMfence (g : Guard) (s : State) : Result :=
  .next (s.withLanes g [] fun s _ t ls => ls.foldl (fun s x => s.modThread t.id x.tid fun y =>
    { y with mfence := (s.accs.filter fun a => a.ofThread t.id x.tid && (a.acq || ((a.isStore || a.isAtom) &&
      (match a.space with | .window _ => true | _ => false)))).map (·.id) }) s)

/-- MISSUE (R200): a matrix operation on the team's own tile. -/
def execMissue (g : Guard) (win : Bool) (a b c : Reg) (s : State) : Result := .next (s.mmaOp g false win a b c)
/-- MGANG (R202): one part on each masked rank of the cluster. -/
def execMgang (g : Guard) (win : Bool) (a b c : Reg) (s : State) : Result := .next (s.mmaOp g true win a b c)

/-- A tile operation ends (R201). -/
def execTileOpComplete (op : Nat) (s : State) : Result := .next (s.tileOpComplete op)
/-- A gang part ends (R203). -/
def execGangPartEnd (op rank : Nat) (s : State) : Result := .next (s.gangPartEnd op rank)
/-- A queued `.tk` drain begins (R208). -/
def execTkDrainStart (op : Nat) (s : State) : Result := .next (s.tkDrainStart op)

/-- TWAIT (R201). -/
def execTwait (g : Guard) (d : Reg) (s : State) : Result :=
  .next (s.withLanes g [d] fun s sl t ls =>
    if ls.isEmpty then s
    else if t.tl = 0 then
      ls.foldl (fun s x => s.writeRegs sl.team x.tid false sl.idx [(laneDst ls x d, State.twaitWord t)]) (s.coverTeam t)
    else ls.foldl (fun s x => s.sleep sl x.tid (.twait (laneDst ls x d))) s)

/-- MZERO (R204). -/
def execMzero (g : Guard) (tile : BitVec 6) (s : State) : Result :=
  .next (s.single g [] fun s sl t x _ =>
    if t.tiles.length ≤ tile.toNat then s.badTile sl x.tid else s.issueTileOp { State.mkEng t x .mzero with tile := tile.toNat })

/-- MLOAD (R204). -/
def execMload (g : Guard) (tile : BitVec 6) (a : Reg) (s : State) : Result :=
  .next (s.single g (pairCodes a) fun s sl t x c =>
    if t.tiles.length ≤ tile.toNat then s.badTile sl x.tid
    else
      let p := readPair x c a
      s.issueTileOp { State.mkEng t x (.mload (loWord p) (hiWord p)) with tile := tile.toNat, after := x.mfence })

/-- MREAD (R205). -/
def execMread (g : Guard) (t hi : Bool) (col tile : BitVec 6) (d : Reg) (s : State) : Result :=
  .next (match s.issue.bind fun sl => s.team? sl.team with
    | none => s
    | some tm =>
      match tm.tiles[tile.toNat]? with
      | none => s.withLanes g [d] fun s sl _ ls => ls.foldl (fun s x => s.badTile sl x.tid) s
      | some z =>
        (s.aluOp g t d [] fun x _ =>
          if s.tilePending z then s.freeVal 18 x.tid
          else z.shown (64 * (32 * b2n hi + x.lane) + col.toNat) (z.get (32 * b2n hi + x.lane) col.toNat)).drawn)

/-- MWRITE (R205). -/
def execMwrite (g : Guard) (hi : Bool) (col tile : BitVec 6) (a : Reg) (s : State) : Result :=
  .next (s.withLanes g [a] fun s sl t ls =>
    match t.tiles[tile.toNat]? with
    | none => ls.foldl (fun s x => s.badTile sl x.tid) s
    | some z =>
      let ops := (z.opens.map (·.op)).filter fun o => s.engs.any fun e => e.id == o
      s.modTile t.id tile.toNat fun z => ls.foldl (fun (z : Tile) x =>
        let i := 32 * b2n hi + x.lane
        let z := z.put i col.toNat (readReg x (t.crewOf x) a)
        { z with spoiled := z.spoiled ++ ops.map fun o => ⟨64 * i + col.toNat, o⟩ }) z)

/-- MSWR (R205). -/
def execMswr (g : Guard) (t clr : Bool) (tile : BitVec 6) (d : Reg) (s : State) : Result :=
  .next (match s.issue.bind fun sl => s.team? sl.team with
    | none => s
    | some tm =>
      match tm.tiles[tile.toNat]? with
      | none => s.withLanes g (quadCodes d) fun s sl _ ls => ls.foldl (fun s x => s.badTile sl x.tid) s
      | some z =>
        let any := match s.issue with | some sl => !(tm.able sl g (quadCodes d)).isEmpty | none => false
        let s' : State := s.laneOp g t (quadCodes d) fun x _ =>
          ⟨(List.range 4).map fun i => (d + BitVec.ofNat 8 i, if s.tilePending z then s.freeVal 19 (4 * x.tid + i) else z.shown (4096 + i) (z.record.getD i 0)), x.preds⟩
        (if clr && any then s'.modTile tm.id tile.toNat fun z => { z with record := [0, 0, 0, 0] } else s').drawn)

/-- MDRAIN (R206). -/
def execMdrain (g : Guard) (z : Drain) (s : State) : Result :=
  .next (s.single g
    ((if z.fmt = .q then [z.d] else []) ++ (if z.glob then pairCodes z.a else [z.a]) ++ [z.b] ++
      (if z.amax.isSome then pairCodes z.c else []) ++
      (if z.sr then pairCodes (if z.amax.isSome then z.c + 2#8 else z.c) else []))
    fun s sl t x c => s.issueDrain sl t x c z)

end Sys2Proof.Machine
end

