-- ==== Sys2Proof/Machine/Log.lean ====
section
/-! DEFINITION. The decision log (R377, R378). -/

namespace Sys2Proof.Machine

/-- An entry of the log (R377). -/
structure LogEntry where
  kind : Nat
  queue : Nat
  die : Nat
  start : Nat
  value : Nat
deriving DecidableEq, Repr

def logBytes (e : LogEntry) : List Byte :=
  toBytes 1 e.kind ++ toBytes 1 e.queue ++ toBytes 2 e.die ++ toBytes 4 e.start ++ toBytes 8 e.value

def logEntry (bs : List Byte) : LogEntry :=
  let at_ (o n : Nat) : Nat := ofBytes ((bs.drop o).take n)
  ⟨at_ 0 1, at_ 1 1, at_ 2 2 % 2, at_ 4 4, at_ 8 8⟩

/-- What the log says about a decision: nothing, the outcome to impose, or that the run has diverged. -/
inductive Verdict
  | free
  | impose (e : LogEntry)
  | diverge
deriving DecidableEq, Repr

namespace State

/-- Command pages with the decision-log right for a context, with their mode. -/
def logPages (s : State) (asid : Nat) : List (Nat × Nat) :=
  s.dbg.caps.filterMap fun (n, c) =>
    if capValid c && capRight c 5 && capAsid c == asid then some (n, bits 1 0 (s.page n).dlCtl.toNat) else none

def logAt (s : State) (n i : Nat) : LogEntry := logEntry (s.physBytes ((s.page n).dlBase + 16 * i) 16)

/-- A page in replay whose marker has not been reached. -/
def replayPage (s : State) (asid : Nat) : Option Nat :=
  ((s.logPages asid).find? fun p => p.2 == 2 && !(s.page p.1).dlCtl.getLsbD 16).map (·.1)

/-- The first entry of a replayed log, before its marker, that has not been taken and meets a condition. -/
def entryWith (s : State) (n : Nat) (f : LogEntry → Bool) : Option (Nat × LogEntry) :=
  let p := s.page n
  let is := (List.range (p.dlWp - p.dlRp)).map fun i => p.dlRp + i
  let before := is.takeWhile fun i => (s.logAt n i).kind != 0xFF
  (before.find? fun i => !p.dlUsed.contains i && f (s.logAt n i)).map fun i => (i, s.logAt n i)

/-- The next entry of a queue in a replayed log. -/
def nextEntry (s : State) (n q : Nat) : Option (Nat × LogEntry) := s.entryWith n fun e => e.queue == q

/-- In a replay, the live die on which the log places the first cluster of a launch (R378). -/
def loggedDie (s : State) (asid q start : Nat) : Option Nat :=
  ((s.replayPage asid).bind fun n => s.entryWith n fun e => e.kind == 1 && e.queue == q && e.start == start).bind fun p =>
    if s.liveDies.contains p.2.die then some p.2.die else none

/-- The verdict on a queue's next decision. (DEDUCED, log entry 36) -/
def verdict (s : State) (asid q kind start : Nat) : Verdict :=
  match s.replayPage asid with
  | none => .free
  | some n =>
    match s.nextEntry n q with
    | none => .free
    | some (_, e) => if e.kind = kind ∧ e.start = start then .impose e else .diverge

/-- DLRP moves over the entries that have been taken; at the marker, replay ends. -/
def skipTaken (s : State) (n : Nat) : (fuel : Nat) → State
  | 0 => s
  | fuel + 1 =>
    let p := s.page n
    if p.dlWp ≤ p.dlRp then s
    else if (s.logAt n p.dlRp).kind = 0xFF then s.modPage n fun p => { p with dlCtl := p.dlCtl ||| 0x10000 }
    else if p.dlUsed.contains p.dlRp then
      skipTaken (s.modPage n fun p => { p with dlRp := p.dlRp + 1, dlUsed := p.dlUsed.filter fun i => i != p.dlRp }) n fuel
    else s

/-- Writes an entry at DLWP. -/
def logPut (s : State) (n : Nat) (e : LogEntry) : State :=
  (s.agentWrite ((s.page n).dlBase + 16 * (s.page n).dlWp) (logBytes e)).modPage n fun p => { p with dlWp := p.dlWp + 1 }

/-- Appends an entry to a recording log; when one free entry remains, it takes the marker (R377). -/
def logOn (s : State) (n : Nat) (e : LogEntry) : State :=
  let size := 2 ^ bits 15 8 (s.page n).dlCtl.toNat
  if size ≤ (s.page n).dlWp then s
  else
    let s : State := if (s.page n).dlWp + 1 = size then s else s.logPut n e
    if (s.page n).dlWp + 1 = size then s.logPut n ⟨0xFF, 0, 0, 0, 0⟩ else s

/-- A decision is made: a recording log takes it, and a replayed one has its entry taken. -/
def logDecision (s : State) (asid : Nat) (e : LogEntry) : State :=
  (s.logPages asid).foldl (fun s (n, mode) =>
    if mode = 1 then s.logOn n e
    else if mode = 2 ∧ !(s.page n).dlCtl.getLsbD 16 then
      match s.nextEntry n e.queue with
      | some (i, _) => ((s.askLink ((s.page n).dlBase + 16 * i) 16 .read).modPage n fun p => { p with dlUsed := p.dlUsed ++ [i] }).skipTaken n ((s.page n).dlUsed.length + 2)
      | none => s.skipTaken n ((s.page n).dlUsed.length + 2)
    else s) s

/-- Replay divergence (R378): a wave origin of a die's front end, at its detection, or termination of the context. -/
def divergence (s : State) (asid die : Nat) : State :=
  if s.attached asid then s.startWave asid ⟨none, die, none, 0x15, 1, 0, 0, false⟩ s.now else s.terminateContext asid

end State

end Sys2Proof.Machine
end

