-- ==== Sys2Proof/Machine/Issue.lean ====
section
/-! DEFINITION. The issue slot: classes and places (R78, R79), readiness and its holds (R231, Table 12.2), the ready stamp, the wave of
R238 and the selection of R233: ISSUE_SELECTION and WAVE_OPEN. -/

namespace Sys2Proof.Machine

/-! ### What an instruction is (Tables 5.6 to 5.12) -/

/-- Class of an encoded instruction (R78). -/
def classOf : Instr → Nat
  | .cpy .. | .cpym .. | .cpyo .. | .cpyx .. | .tgwany .. | .tgwall .. | .tgff .. | .tgclr .. | .mfence .. | .missue .. | .mgang ..
  | .twait .. | .mzero .. | .mload .. | .mread .. | .mwrite .. | .mswr .. | .mdrain .. => 1
  | .swrite .. | .claunch .. | .cjoin .. | .icsync .. | .rett .. => 2
  | _ => 0

/-- Must it stand at index 0 (R79, F)? -/
def standsFirst : Instr → Bool
  | .mxq .. | .shfl .. | .vote .. | .matchLanes .. | .credux .. | .reggrow .. | .regshrink .. => true
  | _ => false

/-- Must it stand at index n − 1 (R79, L)? -/
def standsLast : Instr → Bool
  | .mwait .. | .tkwait .. | .regroup .. | .waitc .. | .tgwany .. | .tgwall .. | .twait .. | .cjoin .. => true
  | .bar _ op _ _ => op != .arv
  | .reggrow _ m _ _ => m == .blk
  | _ => false

/-- A clause-composition fault of the instruction at an index of a clause (R78, R79). -/
def misplaced (hdr : DWord) (idx : Nat) (i : Instr) : Bool :=
  (classOf i != 0 && classOf i != State.hdrClass hdr) || (standsFirst i && idx != 0) || (standsLast i && idx + 1 != State.hdrN hdr)

/-- Which counter an instruction raises (R57). -/
def raisesSt : Instr → Bool
  | .st .. | .sts .. | .red .. | .spill .. => true
  | _ => false
def raisesCp : Instr → Bool
  | .cpy .. | .cpym .. | .cpyo .. | .cpyx .. => true
  | _ => false
def raisesTl : Instr → Bool
  | .missue .. | .mgang .. | .mzero .. | .mload .. | .mdrain .. => true
  | _ => false

/-- A memory instruction (R375). -/
def isMemory : Instr → Bool
  | .ld .. | .st .. | .lds .. | .sts .. | .ldp .. | .pref .. | .atom .. | .atoms .. | .red .. | .spill .. | .fill .. => true
  | _ => false

/-- An atomic of scope crew or team (R238). -/
def waveAtomic : Instr → Bool
  | .atom _ _ m _ _ _ | .atoms _ _ m _ _ _ => m.scope == .crew || m.scope == .team
  | _ => false

def writesK (i : Instr) : Bool := match State.destOf i with | some (d, _) => isK d | none => false
def isElect : Instr → Bool | .elect .. => true | _ => false
def isClaunch : Instr → Bool | .claunch .. => true | _ => false
/-- Reads of `s.tagmap` and `s.tlstat`, and TGFF (Table 12.2). -/
def readsTags : Instr → Bool
  | .sread _ _ .tagmap _ | .sread _ _ .tlstat _ | .tgff .. => true
  | _ => false
def readsTl : Instr → Bool
  | .sread _ _ .tlstat _ => true
  | _ => false

namespace State

/-! ### A thread's clause -/

/-- The instructions that a thread would run: indices idx to n − 1 of its clause, as fetched on entry (R73). -/
def clauseBody (x : Thread) : List Instr :=
  ((x.words.take (hdrN x.hdr)).drop x.idx).filterMap fun w => match decodeWord w with | .ok i => some i | .error _ => none

/-- Is the opcode one that Table 5.9 marks F: MXQ, SHFL, VOTE, MATCH, CREDUX, REGGROW, REGSHRINK? -/
def firstOpcode (op : Nat) : Bool := [0x3A, 0x60, 0x61, 0x62, 0x63, 0x69, 0x6A].contains op

/-- Is the thread at a clause whose index 0, which it will execute, is marked F (Table 12.2), by its opcode? -/
def converged (x : Thread) : Bool := x.idx == 0 && (match x.words with | w :: _ => firstOpcode (bits 63 56 w.toNat) | [] => false)

/-- Converged or crew-held: the group is the whole crew. -/
def crewBound (s : State) (t : Team) (x : Thread) (body : List Instr) : Bool :=
  converged x || (decide (1 ≤ s.detLevel t) && body.any fun i => isElect i || writesK i)

/-- Bound to the wave of R238. -/
def waveBound (s : State) (t : Team) (body : List Instr) : Bool := decide (1 ≤ s.detLevel t) && body.any waveAtomic

/-! ### Readiness (R231) -/

/-- Does an access that the thread issued await its late check, stand parked on one, or wait for room in a fault buffer (R327)? The check
that holds the thread is that of translation and permission, which an L1 hit does not need; a data error is found later, when the data is
read (DEDUCED, log entry 87). -/
def awaitsCheck (s : State) (t : Team) (tid : Nat) : Bool :=
  s.accs.any fun a => a.ofThread t.id tid && !a.isMarker && a.served.isNone && a.taken.isNone &&
    (a.parked.isSome || s.faultWaits (fun w => match w with | .late i _ _ => i == a.id | _ => false) ||
     (match a.space with
      | .window _ | .param => false
      | _ => (s.l1Hit a).isNone && (match s.accPhys a with | some (.ok _) => false | _ => true)))

/-- The counters meet the header's thresholds, and the clause's own operations leave them at or below 63 (R57, R73). -/
def countersOk (t : Team) (x : Thread) (body : List Instr) : Bool :=
  let room (n : Nat) (p : Instr → Bool) : Bool :=
    let k := (body.filter p).length
    k == 0 || decide (n + k ≤ 63)
  under x.ld (hdrWait x.hdr 0) && under x.st (hdrWait x.hdr 1) && under t.cp (hdrWait x.hdr 2) && under t.tl (hdrWait x.hdr 3) &&
  room x.ld raisesLd && room x.st raisesSt && room t.cp raisesCp && room t.tl raisesTl

/-- A register-sourced fragment of the crew in a granule that the clause would return (R210). -/
def shrinkHeld (s : State) (t : Team) (x : Thread) (body : List Instr) : Bool :=
  match body with
  | .regshrink _ n :: _ =>
    s.engs.any fun e => e.team == t.id && e.crew == x.crew && (match e.kind with
      | .mma m =>
        let b := blockOf m.block
        let top (reg : Bool) (w0 : Word) (code : Nat) : Nat := if reg then w0.toNat % 256 + ceilDiv (b.k * operandBits code) 32 else 0
        decide (32 * (1 + n.toNat) < max (top b.aReg m.a0 b.fa) (top b.bReg m.b0 b.fb))
      | _ => false)
  | _ => false

/-- The observation and launch-limit holds of Table 12.2, and R210's. -/
def observed (s : State) (t : Team) (x : Thread) (body : List Instr) : Bool :=
  let lv := decide (1 ≤ s.detLevel t)
  !(lv && body.any readsTags && t.cp != 0) && !(lv && body.any readsTl && t.tl != 0) &&
  !(lv && body.any isClaunch && decide (64 ≤ (s.childrenOf t.id).length)) && !s.shrinkHeld t x body

/-- Is the team's context running, and the team resident? -/
def teamRuns (s : State) (t : Team) : Bool :=
  t.res == .resident &&
  (match s.ctx? t.asid with | some c => !c.terminated && !c.terminating && !c.suspended | none => false)

/-- Once pre-emption or a kill has stopped a team, only the clauses of an open wave still issue (R244). -/
def stopHeld (t : Team) (x : Thread) : Bool := t.stopping && !(match t.wave with | some l => l.contains x.tid | none => false)

/-- Every condition of R231 but the freeze, the wave and the converged hold. A thread that has issued is ready again in a later cycle at the
earliest (R234). -/
def nearlyReady (s : State) (t : Team) (x : Thread) : Bool :=
  let body := clauseBody x
  x.run == .active && s.teamRuns t && !stopHeld t x && x.icsync.isEmpty && x.arrive.isNone && (x.issued.all fun c => decide (c < s.cycles t.core)) && x.hold.isNone && countersOk t x body && !s.awaitsCheck t x.tid && s.observed t x body

/-- Held by a wave that is not open for it. -/
def waveHeld (s : State) (t : Team) (x : Thread) : Bool :=
  s.waveBound t (clauseBody x) && !(match t.wave with | some l => l.contains x.tid | none => false)

/-- Ready but for the converged or crew-held hold; `thaw` disregards the freeze (R369). -/
def singlyReady (s : State) (thaw : Bool) (t : Team) (x : Thread) : Bool :=
  (thaw || !s.frozen t.asid) && s.nearlyReady t x && !s.waveHeld t x

/-- A thread with the words of its clause as another one has fetched them, which a group that the other heads issues (R223; DEDUCED, log entry
101). -/
def asFetched (x y : Thread) : Thread := { y with hdr := x.hdr, words := x.words }

/-- The other non-exited threads of its crew stand at the same place and are ready too, for the words that it has fetched as well. -/
def crewReady (s : State) (thaw : Bool) (t : Team) (x : Thread) : Bool :=
  t.threads.all fun y => y.crew != x.crew || y.run == .exited ||
    (y.clause == x.clause && y.idx == x.idx && s.singlyReady thaw t y && s.singlyReady thaw t (asFetched x y))

def isReady (s : State) (thaw : Bool) (t : Team) (x : Thread) : Bool :=
  s.singlyReady thaw t x && (!s.crewBound t x (clauseBody x) || s.crewReady thaw t x)

/-- The stamp by which a ready thread ranks: for a crew-bound clause the latest of its crew (Table 12.2). -/
def rankStamp (s : State) (t : Team) (x : Thread) : Nat :=
  if s.crewBound t x (clauseBody x) then
    ((t.threads.filter fun y => y.crew == x.crew && y.run != .exited).map fun y => y.stamp.getD 0).foldl max 0
  else x.stamp.getD 0

/-- Is the thread one of those with which the clause in the issue slot was selected? -/
def inSlot (s : State) (team tid : Nat) : Bool := s.issue.any fun sl => sl.team == team && sl.members.contains tid

/-- Stamps every thread that has become ready, and unstamps those that are not; those of the clause in the issue slot are stamped once it has
ended, and the stamps of a team that pre-emption stops stay as they are, for its saving (R232). (DEDUCED, log entry 61) -/
def restamp (s : State) : State :=
  { s with teams := s.teams.map fun t =>
      if t.res ≠ .resident then t
      else
        { t with threads := t.threads.map fun x =>
            if s.inSlot t.id x.tid then x
            else if s.nearlyReady { t with stopping := false } x && !s.waveHeld t x then
              (match x.stamp with | some _ => x | none => { x with stamp := some (Config.stampUnit * s.cycles t.core) })
            else if x.stamp.isNone then x else { x with stamp := none } } }

/-- A stamp of a team or core that starts again at a cycle: the stamps keep their order, and none of them lies in the future (R232, R372). -/
def rebaseStamp (all : List Nat) (now v : Nat) : Nat := Config.stampUnit * now + (all.eraseDups.filter fun w => decide (w < v)).length

/-- The stamps of a team: those of ready threads, and those that a crew waiting in REGGROW carries (R243). -/
def stampsOf (t : Team) : List Nat :=
  (t.threads.filterMap (·.stamp)) ++ t.threads.filterMap fun x => match x.run with | .asleep (.grow _ age) => some age | _ => none

/-- A thread whose stamps, and that it waits with in REGGROW, start again. -/
def rebase (all : List Nat) (now : Nat) (x : Thread) : Thread :=
  { x with
    stamp := x.stamp.map (rebaseStamp all now)
    run := match x.run with | .asleep (.grow n age) => .asleep (.grow n (rebaseStamp all now age)) | r => r }

/-! ### Selection (R233) -/

/-- A ready thread as the grouping stage ranks it: stamp, lane, crew slot. -/
structure Cand where
  rank : Nat
  team : Nat
  tid : Nat
deriving DecidableEq, Repr

/-- While a wave is open its clauses issue in ascending address (R238). -/
def waveTurn (s : State) (t : Team) (x : Thread) : Bool :=
  !s.waveBound t (clauseBody x) ||
    (match t.wave with
     | some l => t.threads.all fun y => !l.contains y.tid || decide (x.clause ≤ y.clause)
     | none => false)

/-- The ready threads of a core. -/
def candidates (s : State) (thaw : Bool) (core : Nat) (p : Team → Thread → Bool) : List Cand :=
  ((s.teams.filter fun t => t.core == core && t.res == .resident).map fun t =>
    t.threads.filterMap fun x =>
      if p t x && x.run == .active && s.isReady thaw t x && s.waveTurn t x then
        some ⟨(s.rankStamp t x * 32 + x.lane % 32) * 32 + x.crew % 32, t.id, x.tid⟩
      else none).flatten

/-- The candidates of highest rank: more than one only in different teams, between which the manual does not choose. -/
def topRanked (cs : List Cand) : List Cand := cs.filter fun c => cs.all fun d => decide (c.rank ≤ d.rank)

/-- The group of the chosen thread: the whole crew for a crew-bound clause; otherwise the team's ready threads at its PC, one per
lane, the lowest crew slot first; each is ready for the words that the chosen thread has fetched too (log entry 101). -/
def groupOf (s : State) (thaw : Bool) (t : Team) (x : Thread) (p : Thread → Bool) : List Thread :=
  let same := t.threads.filter fun y => p y && y.run == .active && y.clause == x.clause && y.idx == x.idx && s.isReady thaw t y && s.isReady thaw t (asFetched x y) && s.waveTurn t y
  if s.crewBound t x (clauseBody x) then same.filter fun y => y.crew == x.crew
  else same.filter fun y => same.all fun z => z.lane != y.lane || decide (y.crew ≤ z.crew)

/-- Fills the issue slot with a group: its clause is the one that the chosen thread fetched. -/
def fillSlot (s : State) (t : Team) (x : Thread) (group : List Thread) (stepOf : Option Nat) : State :=
  let tids := group.map (·.tid)
  let rest := t.wave.map fun l => l.filter fun i => !tids.contains i
  let s : State := s.modTeam t.id fun t =>
    { t with
      wave := if rest = some [] then none else rest
      watchdog := 0
      threads := t.threads.map fun y =>
        if tids.contains y.tid then
          let y := { asFetched x y with stamp := none, yielded := hdrYield x.hdr, issued := some (s.cycles t.core) }
          if hdrWait x.hdr 0 = 0 then s.coverFlips y else y
        else y }
  { s with issue := some ⟨t.core, t.id, x.clause, x.hdr, x.words, x.idx, tids, s.rankStamp t x, stepOf, [], tids⟩ }

/-- Is the clock of the core's die stopped for a relock (R310)? -/
def clockStopped (s : State) (core : Nat) : Bool := s.dieStopped (core / 1024)

/-- ISSUE_SELECTION of a core. -/
def issueSelection (s : State) (core : Nat) : State :=
  match s.issue with
  | some _ => s
  | none =>
    if s.clockStopped core then s
    else
    let top := topRanked (s.candidates false core fun _ _ => true)
    match top[s.choice top.length]? with
    | none => s
    | some c =>
      match s.team? c.team, s.thread? c.team c.tid with
      | some t, some x => s.fillSlot t x (s.groupOf false t x fun _ => true) none
      | _, _ => s

/-! ### The wave (R238) -/

/-- Ready at a clause held by the wave. -/
def waitsForWave (s : State) (t : Team) (x : Thread) : Bool :=
  x.run == .active && s.waveBound t (clauseBody x) && s.nearlyReady t x &&
  (!s.crewBound t x (clauseBody x) || t.threads.all fun y => y.crew != x.crew || y.run == .exited ||
    (y.clause == x.clause && y.idx == x.idx && s.nearlyReady t y))

def settled (s : State) (t : Team) (x : Thread) : Bool :=
  s.waitsForWave t x ||
    (match x.run with
     | .exited => true
     | .asleep (.bar b _) => b.level == .crew || b.level == .team
     | _ => false)

/-- WAVE_OPEN: every thread is settled, some are held, and the previous wave's operations have been applied. -/
def waveOpen (s : State) (team : Nat) : State :=
  match s.team? team with
  | none => s
  | some t =>
    let held := t.threads.filter fun x => s.waitsForWave t x
    if t.wave.isSome || held.isEmpty || s.frozen t.asid || !(t.threads.all fun x => s.settled t x) ||
       s.accs.any fun a => a.team == team && a.isAtom && a.narrow && a.served.isNone then s
    else s.modTeam team fun t => { t with wave := some (held.map (·.tid)) }

end State

/-! ### Meanings -/

/-- ISSUE_SELECTION (R233). -/
def execIssueSelection (core : Nat) (s : State) : Result := .next (s.issueSelection core)
/-- WAVE_OPEN (R238). -/
def execWaveOpen (team : Nat) (s : State) : Result := .next (s.waveOpen team)

end Sys2Proof.Machine
end

