-- ==== Sys2Proof/Machine/Place.lean ====
section
/-! DEFINITION. The dispatcher: retirement (R123, R221, R241), the hang watchdog (R366), placement (R228 to R230, R309 to R315, R322),
pre-emption and restoration (R331 to R333). -/

namespace Sys2Proof.Machine

namespace State

/-! ### Retirement of a team -/

/-- Does an access or a started operation still hold the team's share, or a gang part still run on it (R202, R230)? -/
def shareHeld (s : State) (t : Team) : Bool :=
  (s.accs.any fun a => a.space == .window t.id) ||
  s.engs.any fun e =>
    (e.parts.any fun p => p.team == t.id && p.status.isNone) || (e.inHand && (s.opShares e).contains t.id)

/-- A team of a killed grid stops once its operations in hand have finished, those that no drain waiting for its ticket holds back, and the
stores that its core's write path accepted are performed (R319). -/
def killDone (s : State) (t : Team) : Bool :=
  t.stopping && ((s.grid? t.grid).map (·.killed)).getD false && !(s.engs.any fun e => e.team == t.id && !s.heldBack e) &&
    !(s.accs.any fun a => a.team == t.id && a.taken.isSome)

def retirable (s : State) (t : Team) : Bool :=
  t.res != .retired && !s.shareHeld t && (t.threads.all fun x => x.icsync.isEmpty) &&
  (s.killDone t ||
    (t.res == .resident && t.cp == 0 && t.tl == 0 && (t.threads.all fun x => x.run == .exited && x.ld == 0 && x.st == 0) &&
     !(s.accs.any fun a => a.team == t.id)))

/-- Passes, or leaves with the dispatcher, every ticket counter that the team has not passed (R241). -/
def leaveTickets (s : State) (team : Nat) : State :=
  (List.range 4).foldl (fun s n =>
    match s.team? team with
    | none => s
    | some t =>
      if t.passed.any fun p => p.n == n then s
      else if (s.ticket t.grid n).value = s.ticketNo t then s.passTicket t.grid n true (s.teams.length + 1)
      else s.modTeam team fun t => { t with parkedTickets := t.parkedTickets ++ [n] }) s

/-- TEAM_RETIRE: the team leaves its core and its resources are free (R123, R229). -/
def teamRetire (s : State) (team : Nat) : State :=
  match s.team? team with
  | none => s
  | some t =>
    if !s.retirable t then s
    else
      let bad := t.threads.any (·.endedByFault)
      let kept := (s.accs.filter s.storeLeft).map (·.id)
      let s : State := { s with
        accs := s.accs.filter fun a => a.team != team || kept.contains a.id
        engs := s.engs.filter fun e => e.team != team }
      let s : State := s.modTeam team fun t =>
        { t with
          res := .retired, scratch := [], scratchPoison := [], tiles := [], tags := [], wave := none, stopping := false
          threads := t.threads.map fun x => { x with run := .exited, stamp := none } }
      let s : State := s.modGrid t.grid fun g => { g with faulted := g.faulted || bad }
      (s.drawn).leaveTickets team

/-! ### Retirement of a grid -/

/-- Wakes the CJOIN sleepers of a team that has no unretired child (R222). -/
def wakeJoin (s : State) (team : Nat) : State :=
  match s.team? team with
  | none => s
  | some t =>
    if !(s.childrenOf team).isEmpty ∨ t.res ≠ .resident then s
    else
      let ws := t.threads.filterMap fun x => match x.run with | .asleep .cjoin => some x.tid | _ => none
      if ws.isEmpty then s else ws.foldl (fun s tid => s.wake team tid []) (s.l1Drop t.core t.asid)

def isChildOf (s : State) (h : Grid) (grid : Nat) : Bool := s.teams.any fun t => t.grid == grid && h.parent == some t.id

/-- GRID_RETIRE: every team has retired and every descendant grid is gone; the completion word is written (R221). -/
def gridRetire (s : State) (gid : Nat) : State :=
  match s.grid? gid with
  | none => s
  | some g =>
    let teamsDone := s.teams.all fun t => t.grid != gid || t.res == .retired
    let noChild := !(s.grids.any fun h => s.isChildOf h gid)
    let clear (s : State) : State :=
      let s : State := { s with
        grids := s.grids.filter fun h => h.id != gid
        teams := s.teams.filter fun t => t.grid != gid
        clusters := s.clusters.filter fun c => c.grid != gid }
      match g.parent with | some p => s.wakeJoin p | none => s
    if !teamsDone || !noChild then s
    else
      match g.state with
      | .retired _ => clear s
      | .running =>
        if g.killed then clear (s.retireGridWith gid 3)
        else if g.placed < g.launch.clusters then s
        else clear (s.retireGridWith gid (if g.faulted then 1 else 0))
      | _ => if g.killed then clear (s.retireGridWith gid 3) else s

/-! ### The hang watchdog (R366) -/

/-- WATCHDOG_FIRE: the lowest non-exited thread takes cause 0x16 on the path of R65, and the count restarts. Its frame names its current
clause boundary; where no frame is live one is written, frame-live clear. A thread asleep in a waiting instruction stays so, and on resume
performs only the wait (R174). (DEDUCED, log entry 39) -/
def watchdogFire (s : State) (team : Nat) : State :=
  match s.team? team with
  | none => s
  | some t =>
    let period := s.dbg.wdper.toNat * 1000000
    if period = 0 ∨ t.watchdog < period ∨ t.res ≠ .resident ∨ s.frozen t.asid then s
    else
      match t.threads.foldl (fun (m : Option Thread) x =>
          if x.run == .exited then m
          else match m with | some y => if x.tid < y.tid then some x else m | none => some x) none with
      | none => s
      | some x =>
        let s : State := (s.modTeam team fun t => { t with watchdog := 0 }).drainPrivate t x.tid
        let f := plainFault 0x16
        let s : State := match s.frameLive t x with
          | none => s
          | some true => s.askPriv t x.tid (x.sfault.toNat + 10) 1
          | some false =>
            let s : State := s.askPriv t x.tid (x.sfault.toNat + 10) 1
            match s.writeFrame t x (s.frameBytes x x.clause x.idx x.preds t.rgen x.window f false false) with
            | .ok s' => s'.keepShadow team x x.clause x.idx
            | .error _ => s
        match x.run with
        | .asleep _ => s.r65Record team x.tid x.clause f
        | _ => s.r65Path team x.tid x.clause x.idx f

/-! ### Operating points (R310) -/

def queuePrio (s : State) (q : Nat) : Nat := bits 8 7 (s.queue q).ctl.toNat

def gridLevel (s : State) (g : Grid) : Nat := bits 10 9 (s.queue g.queue).ctl.toNat

/-- Global slots of a rectangle at REPEAT and above: one, or two when its die serves in place of a lost one (R316;
DEDUCED, log entry 55). -/
def globalSlots (g : Grid) (die x y : Nat) : List Nat :=
  let l := g.launch
  if x % l.w ≠ 0 ∨ y % l.h ≠ 0 ∨ 32 / l.w ≤ x / l.w ∨ 32 / l.h ≤ y / l.h then []
  else ((List.range g.dies.length).filter fun p => g.dies[p]? == some die).map fun p => p * slotCount l + (y / l.h * (32 / l.w) + x / l.w)

/-- The range a die is on at FREE: its own while it lasts, then one that nobody is on (key 2 or above), then the next one, of up to 64 clusters; how
many is unspecified (R312, R316). -/
def claimOf (g : Grid) (die : Nat) : Nat × Nat :=
  let left (k : Nat) : Option (Nat × Nat) := (tabFind k g.claims).bind fun r => if r.1 < r.2 then some r else none
  ((left die).orElse fun _ => (g.claims.find? fun p => decide (2 ≤ p.1) && decide (p.2.1 < p.2.2)).map (·.2)).getD (g.next, min (g.next + Config.pick 2 (g.id * 2 ^ 40 + g.next) % 64 + 1) g.launch.clusters)

/-- The next cluster of a global slot. -/
def nextOf (g : Grid) (k : Nat) : Nat := k + tabGet 0 k g.slots * (g.dies.length * slotCount g.launch)

/-- A range that nobody is on, under the key 2 + its start. -/
def leaveRange (r : Nat × Nat) (t : Tab (Nat × Nat)) : Tab (Nat × Nat) := if r.1 < r.2 then tabSet (2 + r.1) r t else t

/-- A replayed placement takes cluster i for a die, whatever range it lies in (R378). -/
def imposeClaim (g : Grid) (die i : Nat) : Grid :=
  if (claimOf g die).1 = i then g
  else
    let base := leaveRange ((tabFind die g.claims).getD (0, 0)) (tabErase die g.claims)
    match base.find? fun p => decide (p.2.1 ≤ i) && decide (i < p.2.2) with
    | some (k, a, b) =>
      { g with claims := tabSet die (i, i + 1) (leaveRange (i + 1, b) (if k < 2 then tabSet k (a, i) base else leaveRange (a, i) (tabErase k base))) }
    | none => if g.next ≤ i then { g with claims := tabSet die (i, i + 1) (leaveRange (g.next, i) base), next := i + 1 } else g

/-- Has the launch clusters left for a die? -/
def waitsOn (s : State) (g : Grid) (d : Nat) : Bool :=
  if s.gridLevel g = 0 then decide ((claimOf g d).1 < (claimOf g d).2)
  else (List.range g.dies.length).any fun p => g.dies[p]? == some d &&
    (List.range (slotCount g.launch)).any fun j => decide (nextOf g (p * slotCount g.launch + j) < g.launch.clusters)

/-- Launches with teams resident or waiting on a die: a team on it or saved from it, or clusters of a launch that is not killed still to be
placed there. -/
def launchesOn (s : State) (d : Nat) : List Grid :=
  s.grids.filter fun g => g.dies.contains d &&
    ((!g.killed && (match g.state with | .retired _ => false | _ => true) && s.waitsOn g d) ||
     s.teams.any fun t => t.grid == g.id &&
      (match t.res with | .resident => t.die == d | .saved _ => t.die == d || s.gridLevel g == 0 | .retired => false))

/-- The point that the launches of a die ask for: the hint of the highest priority, the lowest number among equals; with no launch
the die keeps its point. -/
def askedPoint (s : State) (d : Nat) : Nat :=
  let ls := s.launchesOn d
  let top := (ls.map fun g => s.queuePrio g.queue).foldl max 0
  let hints := (ls.filter fun g => s.queuePrio g.queue == top).map fun g => g.launch.hint
  match hints with
  | [] => (s.die d).hint
  | h :: hs => hs.foldl min h

/-- The point that a die runs at: a power or thermal limit may hold it lower (R13), and a removed point is not used (R402). -/
def wantedPoint (s : State) (d : Nat) : Nat := max (s.askedPoint d) (max (s.die d).throttle (s.die d).removed)

/-- Does a limit hold the die below what its launches ask for, so far as its points reach? -/
def belowNeeds (s : State) (d : Nat) : Bool := decide (max (s.askedPoint d) (s.die d).removed < (s.die d).throttle)

def pointStable (s : State) (d : Nat) : Bool := (s.die d).relock == .none && (s.die d).hint == s.wantedPoint d

/-! ### Room (R229, R243, R322) -/

def contextPlaces (s : State) (asid : Nat) : Bool :=
  match s.ctx? asid with
  | some c => !c.terminated && !c.terminating && !c.suspended && !c.suspending
  | none => false

/-- Granules of a core that no waiting `.blk` request has asked for (R243). -/
def placeGranules (s : State) (core : Nat) : Nat :=
  s.freeGranules core - ((s.growWaiters core).map fun (_, tm, c, k) => k - s.granulesOf tm c).foldl (· + ·) 0

/-- May a core take one more team of the launch (Table 12.1)? Not while it waits for its spare scratchpad bank (R401), or
a forced ageing sample for its group to be idle (R402). -/
def coreFits (s : State) (l : LaunchF) (asid core : Nat) : Bool :=
  let asids := (asid :: (s.teams.filter fun t => t.core == core && t.res == .resident).map (·.asid)).eraseDups
  !(s.svc.bankWaits.any fun e => e.unit == core) && (s.die (core / 1024)).forcing != some (core % 1024 / 64) && decide (1 ≤ s.coreRoom l core fun _ => true) && decide (asids.length ≤ Config.coreContexts) &&
  decide (l.crews * (1 + l.granules) ≤ s.placeGranules core)

def rectFits (s : State) (l : LaunchF) (asid die x y : Nat) : Bool :=
  decide (x + l.w ≤ 32) && decide (y + l.h ≤ 32) && (s.die die).live && !s.svc.shutdown && (rectCores l die x y).all fun c => s.coreFits l asid c

/-- The stretch of the pool of a cohort launch, of which some cluster is placed: one for all its teams, by linear id. -/
def cohortStretch (s : State) (g : Grid) : Option Nat :=
  if g.launch.cohort then (s.teams.find? fun t => t.grid == g.id).map fun t => t.privBase - t.linear * g.launch.poolBytes else none

/-- Is a stretch of the private pool free? -/
def poolFree (s : State) (asid base size : Nat) : Bool :=
  match s.ctx? asid with
  | none => false
  | some c =>
    decide (c.desc.poolBase ≤ base) && decide (base + size ≤ c.desc.poolBase + c.desc.poolSize) &&
    (s.teams.all fun t => t.asid != asid || t.res == .retired ||
      (match s.grid? t.grid with
       | some g => decide (t.privBase + g.launch.poolBytes ≤ base) || decide (base + size ≤ t.privBase)
       | none => true)) &&
    s.grids.all fun g => g.asid != asid || decide (g.launch.clusters ≤ g.placed) ||
      (match s.cohortStretch g with
       | some b => decide (b + g.launch.teams * g.launch.poolBytes ≤ base) || decide (base + size ≤ b)
       | none => true)

/-- A place in the pool, a multiple of 128; which one is unspecified (R250). (DEDUCED, log entry 27) -/
def poolPlace (s : State) (asid id size : Nat) : Option Nat :=
  match s.ctx? asid with
  | none => none
  | some c =>
    let any := c.desc.poolBase + 128 * (Config.pick 1 id % (c.desc.poolSize / 128 + 1))
    let ends := (s.teams.filter fun t => t.asid == asid && t.res != .retired).map fun t =>
      t.privBase + ((s.grid? t.grid).map fun g => g.launch.poolBytes).getD 0
    (any :: c.desc.poolBase :: ends).find? fun b => s.poolFree asid b size

/-- Where the teams of a cluster of a launch find their space, one stretch for the cluster; a cohort launch takes that of all its teams with
its first cluster (R322). -/
def clusterPlaceIn (s : State) (g : Grid) (index : Nat) : Option Nat :=
  let one := g.launch.w * g.launch.h * g.launch.poolBytes
  match s.cohortStretch g with
  | some b => some (b + index * one)
  | none =>
    if g.launch.cohort then (s.poolPlace g.asid s.nextId (g.launch.teams * g.launch.poolBytes)).map fun b => b + index * one
    else s.poolPlace g.asid s.nextId one

/-! ### Team start (R66, R75, R228) -/

/-- Word i of the dispatcher's copy of the parameter area; zero beyond it. -/
def paramWord (g : Grid) (i : Nat) : Word := BitVec.ofNat 32 (ofBytes ((g.params.drop (4 * i)).take 4))

def startThread (g : Grid) (tid : Nat) : Thread :=
  let fault : Word := BitVec.ofNat 32 ((g.launch.privSize - 192) / 64 * 64)
  let regs : Tab Word := (List.range 8).foldl (fun r i => tabPut 0#32 i (paramWord g i) r) []
  { tid := tid, lane := tid % 32, crew := tid / 32, flips := [], winSeen := false,
    regs := tabPut 0#32 31 0xFFFFFFFF#32 (tabPut 0#32 30 fault (tabPut 0#32 29 fault (tabPut 0#32 28 g.launch.linkage regs))),
    preds := 0, clause := g.launch.code, idx := 0, hdr := 0, words := [], callDepth := 0, trapvec := 0xFFFFFFFF, sfault := fault, run := .active,
    ld := 0, st := 0, pend := [], stamp := none, hold := none, watch := none, watchAcc := 0, bars := [], window := [], trans := [],
    yielded := false, endedByFault := false, icsync := [], mfence := [], fenceRel := none, frags := [], shadows := [],
    skipBpt := false, arrive := none, issued := none }

/-- The lowest free team slot of a core (R229). -/
def freeSlot (s : State) (core : Nat) : Nat :=
  ((List.range 8).find? fun i => !(s.teams.any fun t => t.core == core && t.res == .resident && t.slot == i)).getD 0

/-- A team of a cluster that is being placed, whose stretch of the pool starts at `base`. -/
def newTeam (s : State) (g : Grid) (cluster index die x y base rank : Nat) : State :=
  let l := g.launch
  let id := s.nextId
  let lin := index * (l.w * l.h) + rank
  let core := 1024 * die + 32 * (y + rank / l.w) + (x + rank % l.w)
  let priv := base + rank * l.poolBytes
  let t : Team :=
    { id := id, grid := g.id, cluster := cluster, queue := g.queue, asid := g.asid, core := core, slot := s.freeSlot core, rank := rank,
      linear := lin, x := lin % l.gx, y := lin / l.gx % l.gy, z := lin / (l.gx * l.gy), res := .resident,
      crews := (List.range l.crews).map fun c => ⟨c, [], l.granules, [], []⟩, threads := (List.range (32 * l.crews)).map (startThread g),
      scratchBytes := 1024 * l.scratchKiB, scratch := [], scratchPoison := [], regErrs := [],
      tiles := (List.range l.tiles).map fun j => ⟨some (id + 1 + j), [], [0, 0, 0, 0], [], [], 0⟩,
      tags := List.replicate l.tags ⟨0, true, 0⟩, cp := 0, tl := 0, tstat := ⟨0, 0, 0, false, ⟨0, 0, 0⟩, 0⟩, bars := [], rgen := 0,
      privBase := priv, spillBase := priv + l.privateArea, wave := none, passed := [], parkedTickets := [], watchdog := 0,
      stopping := false }
  { s with teams := s.teams ++ [t], nextId := id + 1 + l.tiles }

/-- Every thread of a placed team checks the kernel's first clause (R75) and starts there, or takes the path of R65. -/
def startTeam (s : State) (team : Nat) : State :=
  match s.team? team with
  | none => s
  | some t =>
    let s : State := s.l1Drop t.core t.asid
    let code := (t.threads.head?.map (·.clause)).getD 0
    let fail (s : State) (f : FaultInfo) : State := t.threads.foldl (fun s x => s.r65Path team x.tid code 0 f) s
    match s.landing t.core t.asid code with
    | .error c => fail (s.fetched t.core t.asid code 1) (s.codeFault t.die t.asid c code)
    | .ok hdr =>
      match s.entryFetch t.core t.asid code hdr with
      | .error f => fail ((s.fetchedTo t.core t.asid code hdr f).modTeam team fun t => { t with threads := t.threads.map fun x => { x with hdr := hdr } }) f
      | .ok ws =>
        (s.modTeam team fun t => { t with threads := t.threads.map fun x => { x with hdr := hdr, words := ws } }).cacheClause t.core t.asid code (hdr :: ws)

/-! ### Placement (R312, R313) -/

/-- The slot of a rectangle whose next cluster is lowest, and that cluster. -/
def nextSlot (g : Grid) (die x y : Nat) : Option (Nat × Nat) :=
  let ks := (globalSlots g die x y).filter fun k => decide (nextOf g k < g.launch.clusters)
  (ks.find? fun k => ks.all fun j => decide (nextOf g k ≤ nextOf g j)).map fun k => (k, nextOf g k)

/-- The cluster that comes next on a die (FREE) or on a slot (REPEAT and above). -/
def nextCluster (s : State) (g : Grid) (die x y : Nat) : Option Nat :=
  if s.gridLevel g = 0 then
    if g.dies.contains die ∧ (claimOf g die).1 < (claimOf g die).2 then some (claimOf g die).1 else none
  else (nextSlot g die x y).map (·.2)

/-- Has the launch clusters left that may be placed now, its operating point stable before its first team (R310)? -/
def placing (s : State) (g : Grid) : Bool :=
  (match g.state with | .running => true | _ => false) && !g.killed && decide (g.placed < g.launch.clusters) &&
  s.contextPlaces g.asid && !s.enginesFrozen g.asid && (decide (0 < g.placed) || g.dies.all fun d => s.pointStable d)

/-- Teams of one cluster in place on a rectangle, before their threads start: none when the pool has no room for them. -/
def newTeams (s : State) (g : Grid) (cluster index die x y : Nat) : Option State :=
  (s.clusterPlaceIn g index).map fun base =>
    (List.range (g.launch.w * g.launch.h)).foldl (fun s r => s.newTeam g cluster index die x y base r) s

/-- Does the die need a new range of the launch, which the leader grants across the bridge, while the bridge stands (R311)? -/
def claimStalled (s : State) (g : Grid) (die : Nat) : Bool :=
  s.gridLevel g == 0 && s.bridgeStalled g && !((tabFind die g.claims).any fun r => decide (r.1 < r.2))

/-- May the launch's next cluster take this rectangle? -/
def canPlace (s : State) (g : Grid) (die x y : Nat) : Bool :=
  s.placing g && !s.claimStalled g die && (s.nextCluster g die x y).isSome && s.rectFits g.launch g.asid die x y &&
  (s.fresh.2.clusterPlaceIn g ((s.nextCluster g die x y).getD 0)).isSome

def rectOrigins : List (Nat × Nat) := ((List.range 32).map fun y => (List.range 32).map fun x => (x, y)).flatten

/-- The rectangles of a die that the launch's next cluster may take. -/
def placesOn (s : State) (g : Grid) (die : Nat) : List (Nat × Nat) := rectOrigins.filter fun p => s.canPlace g die p.1 p.2

/-- Launch order within a queue: by packet, then by age; a child goes with the packet it descends from (R315). -/
def before (g h : Grid) : Bool := decide (g.packet < h.packet) || (g.packet == h.packet && decide (g.id < h.id))

/-- Has a started launch clusters still to place, held up or not? A launch whose parameter fault waits for room in a fault buffer has
started too. -/
def unplaced (s : State) (g : Grid) : Bool :=
  (match g.state with
   | .parked _ | .running => true
   | .waiting => s.faultWaits fun w => match w with | .grid h _ _ => h == g.id | _ => false
   | .retired _ => false) && !g.killed && decide (g.placed < g.launch.clusters)

/-- The launch that a queue would place from on a die: at FREE its oldest with clusters left, which yields the turn if its next cluster
cannot be placed there (R312); at REPEAT and above the oldest that fits (R313). -/
def frontGrid (s : State) (q die : Nat) : Option Grid :=
  let fits (g : Grid) : Bool := s.placing g && g.dies.contains die && !(s.placesOn g die).isEmpty
  let mine := s.grids.filter fun g => g.queue == q && s.unplaced g && (s.gridLevel g == 0 || fits g)
  (mine.find? fun g => mine.all fun h => !before h g).bind fun g => if fits g then some g else none

/-- The queue whose turn it is on a die (R312): the highest priority, then round-robin from the last. -/
def turnQueue (s : State) (die : Nat) : Option Nat :=
  let qs := ((s.grids.map (·.queue)).eraseDups).filter fun q => (s.frontGrid q die).isSome
  let top := (qs.map s.queuePrio).foldl max 0
  let qs := qs.filter fun q => s.queuePrio q == top
  let key (q : Nat) : Nat := (q + 128 - ((s.die die).turn + 1) % 128) % 128
  qs.find? fun q => qs.all fun r => decide (key q ≤ key r)

/-- The record of a placement in the decision log. -/
def placeEntry (g : Grid) (die index x y : Nat) : LogEntry := ⟨1, g.queue, die, g.startCount, index + x * 2 ^ 32 + y * 2 ^ 40⟩

/-- Places the next cluster of a launch on a rectangle and starts its teams together (R230). -/
def placeCluster (s : State) (g : Grid) (die x y index : Nat) : State :=
  let l := g.launch
  let (cid, s₁) := s.fresh
  let s₁ : State := { s₁ with clusters := s₁.clusters ++ [⟨cid, g.id, index, die, x, y, l.w, l.h, []⟩] }
  match s₁.newTeams g cid index die x y with
  | none => s
  | some s =>
    let s : State := s.modGrid g.id fun g =>
      if s.gridLevel g = 0 then
        let r := claimOf g die
        { g with placed := g.placed + 1, claims := tabSet die (r.1 + 1, r.2) (tabErase (2 + r.1) g.claims), next := max g.next r.2 }
      else
        match nextSlot g die x y with
        | some (k, _) => { g with placed := g.placed + 1, slots := tabSet k (tabGet 0 k g.slots + 1) g.slots }
        | none => g
    let s : State := s.modDie die fun d => { d with turn := g.queue }
    let s : State := if s.gridLevel g = 0 then s.logDecision g.asid (placeEntry g die index x y) else s
    ((s.teams.filter fun t => t.cluster == cid).map (·.id)).foldl (fun s t => s.startTeam t) s

/-- CLUSTER_PLACEMENT. -/
def clusterPlacement (s : State) (gid die x y : Nat) : State :=
  match s.grid? gid with
  | none => s
  | some g =>
    if !s.placing g then s
    else
      -- the queue's next decision is a placement of its oldest launch (R378)
      let next := s.gridLevel g = 0 ∧ (s.grids.all fun h => !(h.queue == g.queue && s.unplaced h && before h g))
      match if next then s.verdict g.asid g.queue 1 g.startCount else .free with
      | .diverge =>
        if s.turnQueue die = some g.queue ∧ (s.frontGrid g.queue die).map (·.id) = some gid then s.divergence g.asid die else s
      | .impose e =>
        let i := e.value % 2 ^ 32
        let h := imposeClaim g die i
        if e = placeEntry g die i x y ∧ !s.claimStalled g die ∧ (claimOf h die).1 = i ∧ i < g.launch.clusters ∧ s.canPlace h die x y then
          (s.modGrid gid fun g => imposeClaim g die i).placeCluster h die x y i
        else s
      | .free =>
        match s.nextCluster g die x y with
        | none => s
        | some i =>
          if s.canPlace g die x y ∧ s.turnQueue die = some g.queue ∧ (s.frontGrid g.queue die).map (·.id) = some gid then
            s.placeCluster g die x y i
          else s

/-! ### Pre-emption (R331, R332) -/

def clusterTeams (s : State) (c : Nat) : List Team := s.teams.filter fun t => t.cluster == c && t.res != .retired

def freeSaves (s : State) (asid : Nat) : List Nat :=
  let n := ((s.ctx? asid).map fun c => c.desc.saveSlots).getD 0
  (List.range n).filter fun i => !(s.teams.any fun t => t.asid == asid && t.res == .saved i)

/-- A parked access or operation of a team. -/
def teamParked (s : State) (t : Team) : Bool :=
  (s.accs.any fun a => a.team == t.id && a.parked.isSome) || s.engs.any fun e => e.team == t.id && e.parked.isSome

/-- Is the launch kept waiting by room alone: it may place, and no rectangle takes its next cluster? -/
def kept (s : State) (g : Grid) : Bool := s.placing g && g.dies.all fun d => (s.placesOn g d).isEmpty

/-- Would the cluster's cores serve the launch: its dies at FREE, its next static slot otherwise? -/
def servesGrid (s : State) (c : Cluster) (g : Grid) : Bool :=
  g.dies.contains c.die &&
  (s.gridLevel g == 0 ||
    rectOrigins.any fun (x, y) => (s.nextCluster g c.die x y).isSome && decide (x < c.x + c.w) && decide (c.x < x + g.launch.w) &&
      decide (y < c.y + c.h) && decide (c.y < y + g.launch.h))

/-- Priority of the queue a cluster runs for. -/
def clusterPrio (s : State) (c : Cluster) : Nat := ((s.grid? c.grid).map fun g => s.queuePrio g.queue).getD 0

/-- Clusters that a launch may displace: strictly lower priority, no parked access, room to save them. -/
def victims (s : State) (g : Grid) : List Cluster :=
  s.clusters.filter fun c =>
    let ts := s.clusterTeams c.id
    decide (s.clusterPrio c < s.queuePrio g.queue) && s.servesGrid c g && !ts.isEmpty &&
    (ts.all fun t => t.res == .resident && !s.teamParked t && !s.frozen t.asid && decide (ts.length ≤ (s.freeSaves t.asid).length))

/-- The priority victim: lowest priority first, then the most recently placed. -/
def isVictim (s : State) (c : Cluster) (g : Grid) : Bool :=
  let vs := s.victims g
  vs.contains c && vs.all fun d => decide (s.clusterPrio c < s.clusterPrio d) || (s.clusterPrio c == s.clusterPrio d && decide (d.id ≤ c.id))

/-- Is a team parked in CJOIN (R221)? -/
def inJoin (t : Team) : Bool :=
  (t.threads.any fun x => x.run == .asleep .cjoin) && t.threads.all fun x => x.run == .exited || x.run == .asleep .cjoin

/-- May the pre-emption of a cluster begin (R331)? -/
def mayPreempt (s : State) (c : Cluster) : Bool :=
  let ts := s.clusterTeams c.id
  !ts.isEmpty && ts.all (fun t => t.res == .resident && !s.frozen t.asid) &&
  ((ts.any fun t => ((s.ctx? t.asid).map (·.suspending)).getD false) ||
   (ts.all (fun t => !s.teamParked t && decide (ts.length ≤ (s.freeSaves t.asid).length)) &&
    ((s.grids.any fun g => s.kept g && s.isVictim c g) ||
     (ts.any fun t => inJoin t && s.grids.any fun g => s.kept g && s.ancestor t.id 16 g.parent && s.servesGrid c g) ||
     ((s.die c.die).byPower && s.belowNeeds c.die && decide ((s.grid? c.grid).map s.gridLevel = some 0)))))

/-- Has a stopped team reached the point of R332 at which it is saved? -/
def quiet (s : State) (t : Team) : Bool :=
  t.wave.isNone && !(s.accs.any fun a => a.team == t.id) && (s.pathOf t.core).isEmpty &&
  (s.engs.all fun e => s.heldBack e || (e.team != t.id && !(e.parts.any fun p => p.team == t.id))) &&
  (t.threads.all fun x => x.icsync.isEmpty) && ((s.issue.map (·.team)) != some t.id)

/-- The state of a team goes to a save slot (R332, Table 19.8): 2 MiB of the context's memory, in a layout of the part's own, take it; watch
slots are cleared, and a monitor sleep ends (R164). (DESIGN CHOICE, log entry 26) -/
def saveTeam (s : State) (t : Team) (slot : Nat) : State :=
  let base := ((s.ctx? t.asid).map fun c => c.desc.saveBase).getD 0
  let s : State := ((s.writeSpan t.die t.asid ((base + 2 ^ 21 * slot) % 2 ^ 64) .frontEnd 33 ((Config.saveImage s.draws).take (2 ^ 21))).1).drawn
  let s : State := s.modTeam t.id fun t =>
    { t with
      res := .saved slot, stopping := false
      threads := t.threads.map fun x =>
        { x with
          watch := none
          hold := x.hold.map fun h => h - s.cycles t.core
          run := match x.run with | .asleep (.monitor _) => .active | r => r } }
  { s with watch := s.watch.map fun w => { w with sleepers := w.sleepers.filter fun p => p.1 != t.id } }

/-- A context command 4 is done once every team of the context is saved. -/
def suspendDone (s : State) (asid : Nat) : Bool :=
  !(s.teams.any fun t => t.asid == asid && t.res == .resident)

/-- PREEMPTION of a cluster: its teams stop issuing, and are saved together once they are quiet. -/
def preemption (s : State) (cid : Nat) : State :=
  match s.cluster? cid with
  | none => s
  | some c =>
    let ts := s.clusterTeams cid
    if ts.any fun t => t.stopping && !((s.grid? t.grid).map (·.killed)).getD false then
      let slots := match ts.head? with | some t => s.freeSaves t.asid | none => []
      if ts.all (s.quiet ·) && decide (ts.length ≤ slots.length) then (ts.zip slots).foldl (fun s (t, i) => s.saveTeam t i) s else s
    else if s.mayPreempt c then
      { s with teams := s.teams.map fun t => if t.cluster = cid ∧ t.res = .resident then { t with stopping := true } else t }
    else s

/-! ### Restoration (R232, R333) -/

/-- May a saved cluster come back on this rectangle: any of its shape at FREE, its own cores otherwise, or those of the die that serves in
place of a lost one (R316)? -/
def canRestore (s : State) (c : Cluster) (die x y : Nat) : Bool :=
  match s.grid? c.grid with
  | none => false
  | some g =>
    let ts := s.clusterTeams c.id
    !ts.isEmpty && ts.all (fun t => match t.res with | .saved _ => true | _ => false) &&
    s.contextPlaces g.asid && !s.enginesFrozen g.asid && g.dies.contains die && s.rectFits g.launch g.asid die x y &&
    (s.gridLevel g == 0 || ((c.die == die || !(s.die c.die).live) && c.x == x && c.y == y)) &&
    -- granules that its crews gained since launch need room too
    (rectCores g.launch die x y).all fun core =>
      decide (((ts.map fun t => (t.crews.map fun k => 1 + k.granules).foldl (· + ·) 0).foldl max 0) ≤ s.placeGranules core)

/-- A restored team on its core: stamps keep their order, the oldest at the cycle of restoration, and a yield hold runs on for what was
left of it. (DEDUCED, log entry 37) -/
def restoreTeam (s : State) (t : Team) (core : Nat) : State :=
  let now := s.cycles core
  let slot := s.freeSlot core
  let s : State := s.modTeam t.id fun t =>
    { t with
      res := .resident, core := core, slot := slot
      threads := t.threads.map fun x => let y := rebase (stampsOf t) now x
        { y with hold := y.hold.map (fun h => now + h), issued := none } }
  let s : State := { s with engs := s.engs.map fun e => if e.team = t.id then { e with core := core } else e }
  s.l1Drop core t.asid

/-- A thread saved in a waiting instruction makes its wait again; one that was stopped, or held in front of a clause, enters it. -/
def rewait (s : State) (team : Nat) : State :=
  match s.team? team with
  | none => s
  | some t =>
    let s : State := t.threads.foldl (fun s x => s.reenter team x.tid) s
    let s : State := s.wakeBars t none
    let s : State := (List.range 4).foldl (fun s n => s.wakeTickets t.grid n) s
    let s : State := ((s.wakeTags team).wakeTwait team).wakeCounters
    s.wakeJoin team

/-- RESTORE. -/
def restore (s : State) (cid die x y : Nat) : State :=
  match s.cluster? cid with
  | none => s
  | some c =>
    if !s.canRestore c die x y then s
    else
      let s : State := s.modCluster cid fun c => { c with die := die, x := x, y := y }
      let ts := s.clusterTeams cid
      let s : State := ts.foldl (fun s t => s.restoreTeam t (1024 * die + 32 * (y + t.rank / c.w) + (x + t.rank % c.w))) s
      ts.foldl (fun s t => s.rewait t.id) s

end State

/-! ### Meanings -/

/-- TEAM_RETIRE (R123). -/
def execTeamRetire (team : Nat) (s : State) : Result := .next (s.teamRetire team)
/-- GRID_RETIRE (R221). -/
def execGridRetire (grid : Nat) (s : State) : Result := .next (s.gridRetire grid)
/-- WATCHDOG_FIRE (R366). -/
def execWatchdogFire (team : Nat) (s : State) : Result := .next (s.watchdogFire team)
/-- CLUSTER_PLACEMENT (R312, R313). -/
def execClusterPlacement (grid die x y : Nat) (s : State) : Result := .next (s.clusterPlacement grid die x y)
/-- PREEMPTION (R331). -/
def execPreemption (cluster : Nat) (s : State) : Result := .next (s.preemption cluster)
/-- RESTORE (R333). -/
def execRestore (cluster die x y : Nat) (s : State) : Result := .next (s.restore cluster die x y)

end Sys2Proof.Machine
end

