-- ==== Sys2Proof/Machine/Queues.lean ====
section
/-! DEFINITION. Queues, packets and task graphs (R296 to R307, R314, R317 to R319). -/

namespace Sys2Proof.Machine

/-! ### Fields -/

namespace Queue

def asid (x : Queue) : Nat := bits 47 32 x.ctl.toNat
def level (x : Queue) : Nat := bits 10 9 x.ctl.toNat
def slots (x : Queue) : Nat := 2 ^ bits 4 0 x.ctl.toNat
/-- More packets written than the ring holds (R299). -/
def overrun (x : Queue) : Bool := decide (x.slots < (x.wp - x.rp).toNat)
/-- The ring address of the slot at QRP (R299). -/
def slotAddr (x : Queue) : Nat := (x.base.toNat + 64 * (x.rp.toNat % x.slots)) % 2 ^ 64
/-- Dword i of the held packet or node. -/
def dw (x : Queue) (i : Nat) : Nat := ((x.held.getD []).getD i 0).toNat
def kind (x : Queue) : Nat := x.dw 0 % 256
def async (x : Queue) : Bool := bit 8 (x.dw 0)
/-- Vector to raise on completion (bit 9). -/
def irq (x : Queue) : Option Nat := if bit 9 (x.dw 0) then some (bits 21 11 (x.dw 0)) else none
/-- The cursor stands on a graph node. -/
def inGraph (x : Queue) : Bool := x.cursor != 0
def next (x : Queue) : Nat := x.dw 8

/-- Moves past the packet or node at the cursor (R307): in a graph to `target`, and at zero back to the ring past the GRAPH packet. -/
def advance (x : Queue) (target : Nat) : Queue :=
  let x := { x with state := .idle, held := none, parkedWord := none, retrying := false, test := none }
  if x.cursor = 0 then { x with rp := x.rp + 1 }
  else if target = 0 then { x with cursor := 0, rp := x.rp + 1 }
  else { x with cursor := target }

/-- One packet or node more has started (R377). -/
def counted (x : Queue) : Queue := { x with startCount := x.startCount + 1 }

end Queue

/-! ### Validity (R301, R304, Tables 18.3 to 18.5) -/

/-- Reduction codes by format (Table 20.3). -/
def reductionOk (fmt red : Nat) : Bool :=
  if fmt ≤ 2 ∨ isFp8 fmt then decide (red ≤ 3)
  else if fmt = 3 then decide (red ≤ 6)
  else if fmt = 4 ∨ fmt = 5 then red == 0 || (decide (2 ≤ red) && decide (red ≤ 6))
  else false

/-- The fields of a COLL packet (R341, Table 18.5). -/
def collOk (w : Nat → Nat) : Bool :=
  let g := bits 63 32 (w 2)
  let e := codeBytes (bits 7 0 (w 6))
  bits 31 22 (w 0) == 0 && bits 63 32 (w 0) == 0 && decide (1 ≤ g) && decide (g ≤ 1024) && decide (bits 31 0 (w 2) < g) &&
  decide (1 ≤ w 5) && decide (w 5 ≤ 2 ^ 36) && bits 63 16 (w 6) == 0 && reductionOk (bits 7 0 (w 6)) (bits 15 8 (w 6)) &&
  w 3 % e == 0 && w 4 % e == 0 && w 7 % 64 == 0

/-- The body of a packet of its kind. (DEDUCED, log entry 41.) Header bits [63:32] of the kinds other than LAUNCH, to which Table 18.5 gives no
field, must be zero (DESIGN CHOICE, the same log entry). -/
def bodyOk (w : Nat → Nat) (node : Bool) : Bool :=
  let high := bits 63 25 (w 0) == 0
  let none_ (is : List Nat) : Bool := is.all fun i => w i == 0
  let test := high && decide (bits 24 22 (w 0) ≤ 5) && w 1 % 8 == 0
  match w 0 % 256 with
  | 0 => bits 63 22 (w 0) == 0 && none_ [1, 2, 3, 4, 5, 6, 7]
  | 1 =>
    decide (bits 31 28 (w 0) ≤ 9) && !bit 27 (w 0) && decide (bits 25 25 (w 0) ≤ bits 26 26 (w 0)) && bits 63 42 (w 4) == 0 &&
    bits 31 29 (w 4) == 0 && bits 31 17 (w 6) == 0 && w 7 % 8 == 0
  | 2 => collOk w
  | 3 => bits 63 22 (w 0) == 0 && bits 63 40 (w 3) == 0 && none_ [4, 5, 6, 7]
  | 4 => high && (bits 24 22 (w 0) == 3 || bits 24 22 (w 0) == 4) && w 1 % 8 == 0 && none_ [3, 4, 5, 6, 7]
  | 5 => test && none_ [4, 5, 6, 7]
  | 6 => bits 63 24 (w 0) == 0 && bits 23 22 (w 0) != 3 && none_ [1, 2, 3, 4, 5, 6, 7]
  | 7 => !node && bits 63 22 (w 0) == 0 && w 1 != 0 && w 1 % 128 == 0 && none_ [2, 3, 4, 5, 6, 7]
  | 8 => node && test && w 4 % 128 == 0 && none_ [5, 6, 7]
  | 9 => node && test && w 4 % 128 == 0 && bits 63 32 (w 5) == 0 && none_ [6, 7]
  | _ => false

/-- Is a fetched packet or node valid? -/
def packetOk (d : List DWord) (node : Bool) : Bool :=
  let w (i : Nat) : Nat := (d.getD i 0).toNat
  let kind := w 0 % 256
  !bit 10 (w 0) && (!bit 8 (w 0) || kind == 1 || kind == 2 || kind == 3) && bodyOk w node &&
  (!node || (w 8 % 128 == 0 && (kind == 9 || w 9 == 0) && ((List.range 6).all fun i => w (10 + i) == 0)))

/-- The test of R302 on the word at a packet's address. -/
def testWord (code : Nat) (w mask value : DWord) : Bool :=
  let x := w &&& mask
  match code with
  | 0 => x == value
  | 1 => x != value
  | 2 => decide (x.toNat < value.toNat)
  | 3 => decide (value.toNat ≤ x.toNat)
  | 4 => decide (x.toInt < value.toInt)
  | _ => decide (value.toInt ≤ x.toInt)

namespace State

/-! ### Contexts of queues (R320) -/

/-- The descriptor of an ASID in the context table; none when it is unusable. -/
def readDescriptor (s : State) (asid : Nat) : Option Descriptor :=
  let pa := s.cxtBase + 64 * asid
  if asid = 0 ∨ s.region pa = .nowhere ∨ (s.poisoned pa 64).isSome then none
  else
    let w (o n : Nat) : Nat := s.natAt (pa + o) n
    let flags := w 56 2
    let d : Descriptor := ⟨w 0 8, w 8 8, w 16 8, w 24 4, w 32 8, w 40 8, w 48 8, bit 1 flags⟩
    if bit 0 flags && decide (flags < 4) && w 28 4 == 0 && w 58 6 == 0 && d.level0 % 2 ^ 21 == 0 && d.window % 2 ^ 36 == 0 &&
        d.saveBase % 2 ^ 21 == 0 && decide (d.saveSlots ≤ 16384) && d.poolBase % 65536 == 0 && d.poolSize % 65536 == 0 &&
        d.statusAddr % 8 == 0 then some d
    else none

/-- The requests of reading it, where the context table lies behind a link (R253). -/
def readCtx (s : State) (asid : Nat) : State := s.askLink (s.cxtBase + 64 * asid) 64 .read

/-- Is every queue of the context OFF? -/
def queuesOff (s : State) (asid : Nat) : Bool := s.queues.all fun (_, x) => x.state == .off || x.asid != asid

/-! ### Registers (R296 to R299) -/

/-- Fields of QCTL that a write sets: all while OFF, and the interrupt and its vector in every state. -/
def writeCtl (x : Queue) (v : DWord) : Queue :=
  if x.state = .off then { x with ctl := v &&& 0x0000FFFF00FFF79F }
  else { x with ctl := (x.ctl &&& ~~~0xFFF000#64) ||| (v &&& 0xFFF000#64) }

/-- Enters FAULT: the packet at the cursor is fetched again later, and the queue's vector is raised (R307). -/
def queueFault (s : State) (q cause : Nat) : State :=
  let s : State := s.modQueue q fun x => { x with state := .fault, cause := cause, held := none, parkedWord := none, retrying := false, test := none }
  let x := s.queue q
  s.raiseIf (x.ctl.getLsbD 23) (bits 22 12 x.ctl.toNat)

/-- The context of a queue that is being enabled: the first queue reads the descriptor, and a terminated context starts afresh
once all its queues are OFF and the host has rewritten its descriptor, which changes its status word (R320, R321). -/
def attachContext (s : State) (asid : Nat) : Option State :=
  if s.queuesOff asid then
    (s.readDescriptor asid).map fun d =>
      match s.ctx? asid with
      | some c =>
        if c.terminated && !c.renewed then s.readCtx asid
        else if c.terminated then (s.readCtx asid |>.modCtx asid fun _ => ⟨asid, d, false, false, false, false, false, false⟩).writeStatus asid
        else (s.readCtx asid).modCtx asid fun c => { c with desc := d }
      | none => { s.readCtx asid with ctxs := s.ctxs ++ [⟨asid, d, false, false, false, false, false, false⟩] }
  else if (s.ctx? asid).isSome then some s else none

/-- QUEUE_ENABLE: QCTL written with enable 1 (R297). (DEDUCED, log entry 42) -/
def queueEnable (s : State) (q : Nat) (v : DWord) : State :=
  let off := (s.queue q).state == .off
  let s : State := s.modQueue q fun x => writeCtl x v
  if !off then s
  else
    let x := s.queue q
    let log := bits 4 0 x.ctl.toNat
    let refuse : State := s.modQueue q fun x => { x with cause := 6 }
    if log < 4 ∨ 16 < log ∨ x.base.toNat % (64 * x.slots) ≠ 0 then refuse
    else
      match s.attachContext x.asid with
      | none => refuse
      | some s =>
        -- an entry that still waits for a fault of the queue's last run is its last trace
        let s : State := { s with waits := s.waits.map fun w => match w.act with | .word p _ _ => if p = q then { w with act := .report } else w | _ => w }
        let s : State := s.modQueue q fun x =>
          { x with ctl := x.ctl ||| 0x800, rp := 0, wp := 0, state := .idle, cause := 0, cursor := 0, held := none, startCount := 0,
                   dieCount := s.liveDies.length, parkedWord := none, retrying := false, test := none }
        -- a queue of a context that is still terminated enters DEAD (Table 18.6)
        if ((s.ctx? x.asid).map (·.terminated)).getD false then
          (s.modQueue q fun x => { x with state := .dead, cause := 7 }).raiseIf (x.ctl.getLsbD 23) (bits 22 12 x.ctl.toNat)
        else s

/-- Destroy with finish (R319): nothing more is fetched, the unstarted packet is dropped, started packets complete. QCTL[11] reads 1 until the
queue is OFF (DESIGN CHOICE, log entry 42). -/
def finishQueue (s : State) (q : Nat) : State :=
  s.modQueue q fun x => if x.state = .off then x else drained { x with state := .drain, held := none, parkedWord := none, retrying := false, test := none }

/-- QUEUE_DISABLE: QCTL written with enable 0 (R298). -/
def queueDisable (s : State) (q : Nat) (v : DWord) : State :=
  let s : State := s.modQueue q fun x => writeCtl x v
  match (s.queue q).state with
  | .off | .drain => s
  | .dead => s.modQueue q offQueue
  | _ => s.finishQueue q

/-- A doorbell write (R299). -/
def writeQwp (s : State) (q : Nat) (v : Word) : State :=
  match (s.queue q).state with
  | .off => s
  | st =>
    let s : State := s.modQueue q fun x => { x with wp := v }
    let tested := st == .idle || st == .fetch || st == .order || st == .block
    if tested && (s.queue q).overrun then s.queueFault q 4 else s

/-- QRESUME (Table 18.6). -/
def resumeQueue (s : State) (q : Nat) (v : DWord) : State :=
  if v.getLsbD 0 && (s.queue q).state == .fault then
    s.modQueue q fun x => if x.overrun then { x with cause := 4 } else { x with state := .fetch, cause := 0 }
  else s

/-! ### Destroy commands (R319) -/

def destroyOk (cmd : List DWord) : Bool :=
  decide ((cmd.getD 0 0).toNat < 2) && (List.range 7).all fun i => cmd.getD (i + 1) 0 == 0#64

/-- The first bytes that a COPY of n bytes writes: those of the destination that overlap its source are undefined (R303). -/
def copyData (s : State) (src dst n : Nat) (bs : List Byte) : List Byte :=
  ((List.range bs.length).zip bs).map fun (i, b) => if src ≤ dst + i ∧ dst + i < src + n then (s.freeVal 20 i).setWidth 8 else b

/-- Copies the first k of n bytes page by page, as far as its pages can be reached. -/
def copyPrefix (s : State) (q src dst n k : Nat) : State :=
  let d := s.medlar q
  let asid := (s.queue q).asid
  match s.readSpan d asid src .read .frontEnd (k / 2 ^ 16 + 2) k with
  | .ok bs => (s.writeSpan d asid dst .frontEnd (k / 2 ^ 16 + 2) (s.copyData src dst n bs)).1
  | .error _ => s

/-- A killed COPY stops at some chunk boundary. (DEDUCED, log entry 43) -/
def killCopy (s : State) (q : Nat) (p : Started) : State :=
  match p.kind with
  | .copy src dst len =>
    let s : State := if p.parked.isSome then s else (s.copyPrefix q src dst len (min len (4096 * s.choice (len / 4096 + 2)))).drawn
    s.completePacket q p.id
  | _ => s

/-- Destroy with kill. -/
def killQueue (s : State) (q : Nat) : State :=
  if (s.queue q).state = .off then s
  else
    let s : State := { s with
      grids := s.grids.map fun g => if g.queue = q then { g with killed := true } else g
      teams := s.teams.map fun t => if t.queue = q ∧ t.res ≠ .retired then { t with stopping := true } else t
      colls := s.colls.map fun c => if c.queue = q ∧ c.ending.isNone then { c with ending := some (3, 7, none) } else c }
    let s : State := (s.queue q).started.foldl (fun s p => s.killCopy q p) s
    let s : State := s.modQueue q fun x => { x with state := .dead, cause := 8, held := none, parkedWord := none, retrying := false, test := none }
    let x := s.queue q
    s.raiseIf (x.ctl.getLsbD 23) (bits 22 12 x.ctl.toNat)

/-! ### Fetch (R301, R317) -/

/-- Does the walker of a queue work: its context serves and is not suspended, its front end is not frozen, and no fault of it waits to be
recorded (R327, R329, R364)? An access that a replay lets go on is made again whatever suspends or freezes (R329, R365). -/
def walks? (s : State) (q : Nat) : Bool :=
  let x := s.queue q
  (x.retrying || !s.enginesFrozen x.asid) && !(s.faultWaits fun w => match w with | .word p _ _ => p == q | _ => false) &&
  (match s.ctx? x.asid with | some c => (x.retrying || (!c.suspended && !c.suspending)) && !c.terminated && !c.terminating | none => false)

/-- Queue cause of a fault (Table 18.2). -/
def queueCause (c : Byte) : Nat := if c = 0x06 then 1 else if c = 0x07 then 2 else 5

/-- Records a fault of a queue, whose outcome waits with its entry (R327). -/
def recordQueue (s : State) (q : Nat) (c : Byte) (addr access token : Nat) (act : WaitAct) : State × Bool :=
  s.record (s.medlar q) (fbEntry addr (s.queue q).asid c 3 (token != 0) (some access) 0xFFFF 0 0 0 q token) act

/-- The outcome of a fault at a queue's cursor (R317, R318): it parks, or the queue enters FAULT; a data error marks the context failed
(R321). A queue that has left its packet meanwhile takes none. -/
def wordOutcome (s : State) (q : Nat) (c : Byte) (token : Nat) : State :=
  match (s.queue q).state with
  | .fetch | .order | .block =>
    if token ≠ 0 then s.modQueue q fun x => { x with parkedWord := some (token, queueCause c), retrying := false }
    else (if c = 0x09 then s.markFailed (s.queue q).asid else s).queueFault q (queueCause c)
  | _ => s

/-- An address in each page of a span. -/
def spanAddrs (va n : Nat) : List Nat := (stretches va n).map (·.1)

/-- A queue's accesses to these addresses, once they may be translated. -/
def queueWalks (s : State) (q : Nat) (vas : List Nat) (f : State → State) : State := s.withWalks (s.medlar q) (s.queue q).asid vas f

/-- PACKET_FETCH: IDLE with work goes to FETCH; in FETCH the packet or node at the cursor is read whole. -/
def packetFetch (s : State) (q : Nat) : State :=
  let x := s.queue q
  if !s.walks? q then s
  else
    match x.state with
    | .idle => if x.inGraph || x.rp != x.wp then s.setQueue q { x with state := .fetch } else s
    | .fetch =>
      let va := if x.inGraph then x.cursor else x.slotAddr
      let n := if x.inGraph then 128 else 64
      s.queueWalks q [va] fun s =>
      match s.readVirt (s.medlar q) x.asid va n .read .frontEnd with
      | .error c =>
        let (s, ok) := s.recordQueue q c va 0 0 (.word q c 0)
        if ok then s.wordOutcome q c 0 else s
      | .ok bs =>
        let s : State := s.agentRead (s.medlar q) x.asid va n .read .frontEnd
        let d := (List.range (if x.inGraph then 16 else 8)).map fun i => BitVec.ofNat 64 (ofBytes ((bs.drop (8 * i)).take 8))
        if packetOk d x.inGraph then
          let (n, s) := s.fresh
          s.setQueue q { x with state := .order, held := some d, orderStamp := n }
        else s.queueFault q 3
    | _ => s

/-! ### Start (R306) -/

/-- May the held packet, of this kind, start? -/
def mayStart (s : State) (q kind : Nat) : Bool :=
  let x := s.queue q
  s.walks? q && x.state == .order && x.parkedWord.isNone && x.kind == kind && x.held.isSome && decide (x.started.length < 16) &&
  (x.async || x.started.isEmpty)

/-- A fault on an access of a WAITV, COND, WHILE or SIGNAL (R318): it parks, or the queue enters FAULT. -/
def wordFault (s : State) (q : Nat) (c : Byte) (addr access : Nat) : State :=
  let s : State := s.modQueue q fun x => { x with retrying := false }
  let (token, s) := s.parkToken (s.queue q).asid c
  let (s, ok) := s.recordQueue q c addr access token (.word q c token)
  if ok then s.wordOutcome q c token else s

/-- Reads the word of WAITV, COND or WHILE and evaluates the test (R302). -/
def evalTest (s : State) (q : Nat) : Except Byte Bool :=
  let x := s.queue q
  match s.readVirt (s.medlar q) x.asid (x.dw 1) 8 .read .frontEnd with
  | .ok bs => .ok (testWord (bits 24 22 (x.dw 0)) (BitVec.ofNat 64 (ofBytes bs)) (BitVec.ofNat 64 (x.dw 2)) (BitVec.ofNat 64 (x.dw 3)))
  | .error c => .error c

/-- The test word's read has been made. -/
def testRead (s : State) (q : Nat) : State := s.agentRead (s.medlar q) (s.queue q).asid ((s.queue q).dw 1) 8 .read .frontEnd

def startNop (s : State) (q : Nat) : State :=
  if s.mayStart q 0 then s.modQueue q fun x => x.counted.advance x.next else s

/-- SIGNAL: the release write, then the vector (R303). -/
def startSignal (s : State) (q : Nat) : State :=
  if !s.mayStart q 4 then s
  else
    let x := s.queue q
    let done (s : State) : State :=
      let s : State := s.modQueue q fun x => x.counted.advance x.next
      match x.irq with | some v => s.raise v | none => s
    if x.dw 1 = 0 then done s
    else
      s.queueWalks q [x.dw 1] fun s =>
      match s.writable (s.medlar q) x.asid (x.dw 1) .frontEnd with
      | .ok pa => done ((s.agentWrite pa (toBytes 8 (x.dw 2))).cacheWalks (s.medlar q) x.asid .write .frontEnd [x.dw 1])
      | .error c => s.wordFault q c (x.dw 1) 1

/-- WAITV holds the queue in BLOCK. -/
def startWaitv (s : State) (q : Nat) : State :=
  if s.mayStart q 5 then s.modQueue q fun x => { x with state := .block } else s

/-- WAITV_WAKE: the word is read again; a true test lets the queue advance. -/
def waitvWake (s : State) (q : Nat) : State :=
  let x := s.queue q
  if !s.walks? q || x.state != .block || x.parkedWord.isSome then s
  else s.queueWalks q [x.dw 1] fun s =>
    match s.evalTest q with
    | .ok true => (s.testRead q).setQueue q (x.counted.advance x.next)
    | .ok false => (s.testRead q).modQueue q fun x => { x with retrying := false }
    | .error c => s.wordFault q c (x.dw 1) 0

/-- Dies with a core that holds no team (R314). -/
def freeDies (s : State) : Nat :=
  (s.liveDies.filter fun d => (List.range 1024).any fun c => !(s.teams.any fun t => t.core == 1024 * d + c && t.res == .resident)).length

/-- STEP (R314). -/
def startStep (s : State) (q : Nat) : State :=
  if !s.mayStart q 6 then s
  else
    let x := s.queue q
    let n := bits 23 22 (x.dw 0)
    let go (s : State) (count : Nat) : State := s.modQueue q fun x => { x.counted with dieCount := count }.advance x.next
    if n ≠ 0 then go s (min n s.liveDies.length)
    else if x.level ≠ 0 then go s x.dieCount
    else
      let start := (x.startCount + 1).toNat
      match s.verdict x.asid q 3 start with
      | .diverge => s.divergence x.asid (s.medlar q)
      | .impose e => go (s.logDecision x.asid e) e.value
      | .free =>
        let count := max 1 s.freeDies
        go (s.logDecision x.asid ⟨3, q, s.medlar q, start, count⟩) count

/-- GRAPH: the cursor moves to the entry node; QRP stays (R299). -/
def startGraph (s : State) (q : Nat) : State :=
  if s.mayStart q 7 then
    s.modQueue q fun x => { x.counted with state := .idle, held := none, cursor := x.dw 1 }
  else s

/-- The outcome of a COND or WHILE meets the decision log: it is recorded, or it has diverged (R377, R378). -/
def decide? (s : State) (q kind : Nat) (outcome : Bool) : Option State :=
  let x := s.queue q
  let start := (x.startCount + 1).toNat
  let e : LogEntry := ⟨kind, q, s.medlar q, start, x.cursor + b2n outcome⟩
  match s.verdict x.asid q kind start with
  | .diverge => none
  | .impose l => if bit 0 l.value = outcome then some (s.logDecision x.asid e) else none
  | .free => some (s.logDecision x.asid e)

/-- COND (R305). -/
def startCond (s : State) (q : Nat) : State :=
  if !s.mayStart q 8 then s
  else s.queueWalks q [(s.queue q).dw 1] fun s =>
    let x := s.queue q
    match s.evalTest q with
    | .error c => s.wordFault q c (x.dw 1) 0
    | .ok b =>
      match (s.testRead q).decide? q 4 b with
      | none => s.divergence x.asid (s.medlar q)
      | some s => s.modQueue q fun x => x.counted.advance (if b then x.dw 4 else x.next)

/-- The read of a WHILE's test, and its outcome; where the write of the visit word has parked, the read stands and is not made again (R318). -/
def whileTest (s : State) (q : Nat) : State × Except Byte Bool :=
  match (s.queue q).test with
  | some b => (s, .ok b)
  | none =>
    match s.evalTest q with
    | .error c => (s, .error c)
    | .ok b => (s.testRead q, .ok b)

/-- WHILE (R305). -/
def startWhile (s : State) (q : Nat) : State :=
  if !s.mayStart q 9 then s
  else s.queueWalks q ((if (s.queue q).test.isSome then [] else [(s.queue q).dw 1]) ++ [(s.queue q).cursor + 72]) fun s =>
    let x := s.queue q
    match s.whileTest q with
    | (s, .error c) => s.wordFault q c (x.dw 1) 0
    | (s, .ok b) =>
      let n := x.dw 9 % 2 ^ 32
      let limit := x.dw 5 % 2 ^ 32
      let body := b && (limit == 0 || decide (n < limit))
      match s.writable (s.medlar q) x.asid (x.cursor + 72) .frontEnd with
      | .error c => (s.modQueue q fun x => { x with test := some b }).wordFault q c (x.cursor + 72) 1
      | .ok pa =>
        match s.decide? q 5 body with
        | none => s.divergence x.asid (s.medlar q)
        | some s =>
          ((s.agentWrite pa (toBytes 8 (if body then n + 1 else 0))).cacheWalks (s.medlar q) x.asid .write .frontEnd [x.cursor + 72]).modQueue q fun x =>
            x.counted.advance (if body then x.dw 4 else x.next)

/-! ### LAUNCH and COPY -/

/-- A started packet of a queue, and the queue past it. -/
def pushStarted (s : State) (q id : Nat) (k : StartedKind) : State :=
  s.modQueue q fun x =>
    let p : Started := ⟨id, k, x.irq, none, (x.startCount + 1).toNat⟩
    { x.counted with started := x.started ++ [p] }.advance x.next

/-- LAUNCH: a refused launch completes with 2; an accepted one starts its grid (R308, R309, R314). -/
def startLaunch (s : State) (q : Nat) : State :=
  if !s.mayStart q 1 then s
  else
    let x := s.queue q
    let l := packetLaunch ((x.held.getD []).take 8)
    let start := (x.startCount + 1).toNat
    let count := min (max x.dieCount l.minDies) l.maxDies
    let verdict := s.verdict x.asid q 2 start
    let logged := match verdict with | .impose _ => s.loggedDie x.asid q start | _ => none
    let dies := s.launchDies x.level (match verdict with | .impose e => e.value | _ => count) s.nextId logged
    let go (s₀ : State) (count : Nat) : State :=
      let (id, s) := s₀.fresh
      let dies := s.launchDies x.level count id logged
      let g := s.newGrid id q x.asid l none id start dies
      let s : State := s.pushStarted q id (.launch id)
      if s.refused l x.asid x.level dies none then
        ({ s with grids := s.grids ++ [g] }).retireGridWith id 2
      else ({ s with grids := s.grids ++ [g] }).startGrid id
    s.queueWalks q (if s.refused l x.asid x.level dies none then [] else spanAddrs l.paramAddr l.paramSize) fun s =>
    match verdict with
    | .diverge => s.divergence x.asid (s.medlar q)
    | .impose e => go (s.logDecision x.asid e) e.value
    | .free =>
      go (s.logDecision x.asid ⟨2, q, s.medlar q, start, count⟩) count

/-- COPY starts; a length of zero completes at once. -/
def startCopy (s : State) (q : Nat) : State :=
  if !s.mayStart q 3 then s
  else
    let x := s.queue q
    let (id, s) := s.fresh
    let s : State := s.pushStarted q id (.copy (x.dw 1) (x.dw 2) (x.dw 3 % 2 ^ 40))
    if x.dw 3 % 2 ^ 40 = 0 then s.completePacket q id else s

/-- A fault of a COPY (R318): it parks, or the packet completes with status 1 and the context is failed. -/
def copyOutcome (s : State) (q id : Nat) (token : Nat) : State :=
  if !((s.queue q).started.any fun p => p.id == id) then s
  else if token ≠ 0 then s.modQueue q fun x => { x with started := x.started.map fun y => if y.id = id then { y with parked := some token } else y }
  else (s.markFailed (s.queue q).asid).completePacket q id

/-- Such a fault is recorded, and has its outcome. -/
def copyFault (s : State) (q id : Nat) (c : Byte) (addr access : Nat) : State :=
  let (token, s) := s.parkToken (s.queue q).asid c
  let (s, ok) := s.recordQueue q c addr access token (.copy q id c token)
  if ok then s.copyOutcome q id token else s

/-- COPY_PACKET_COMPLETE: the reads and writes are performed and the packet completes. -/
def copyPacketComplete (s : State) (q id : Nat) : State :=
  let x := s.queue q
  match x.started.find? fun p => p.id == id with
  | none => s
  | some p =>
    match p.kind with
    | .copy src dst len =>
      if p.parked.isSome || s.enginesFrozen x.asid || (s.faultWaits fun w => match w with | .copy r i _ _ => r == q && i == id | _ => false) then s
      else s.queueWalks q (spanAddrs src len ++ spanAddrs dst len) fun s =>
        let d := s.medlar q
        let fuel := len / 2 ^ 16 + 2
        match s.readSpan d x.asid src .read .frontEnd fuel len with
        | .error (c, a) => s.copyFault q id c a 0
        | .ok bs =>
          match (s.spanRead d x.asid src len .read .frontEnd).writeSpan d x.asid dst .frontEnd fuel (s.copyData src dst len bs) with
          | (s', none) => s'.drawn.completePacket q id
          | (s', some (c, a)) => s'.drawn.copyFault q id c a 1
    | _ => s

end State

/-! ### Meanings -/

/-- QUEUE_ENABLE (R297). -/
def execQueueEnable (q : Nat) (v : DWord) (s : State) : Result := .next (s.inService fun s => s.queueEnable q v)
/-- QUEUE_DISABLE (R298). -/
def execQueueDisable (q : Nat) (v : DWord) (s : State) : Result := .next (s.inService fun s => s.queueDisable q v)
/-- QWP (R299). -/
def execQwp (q : Nat) (v : Word) (s : State) : Result := .next (s.inService fun s => s.writeQwp q v)
/-- QRESUME (R307). -/
def execQresume (q : Nat) (v : DWord) (s : State) : Result := .next (s.inService fun s => s.resumeQueue q v)
/-- DESTROY_FINISH (R319): a command with a nonzero reserved bit or dword is ignored. -/
def execDestroyFinish (q : Nat) (cmd : List DWord) (s : State) : Result :=
  .next (if State.destroyOk cmd && !((cmd.getD 0 0).getLsbD 0) then s.inService fun s => s.finishQueue q else s)
/-- DESTROY_KILL (R319). -/
def execDestroyKill (q : Nat) (cmd : List DWord) (s : State) : Result :=
  .next (if State.destroyOk cmd && (cmd.getD 0 0).getLsbD 0 then s.inService fun s => s.killQueue q else s)
/-- PACKET_FETCH (R301, R317). -/
def execPacketFetch (q : Nat) (s : State) : Result := .next (s.packetFetch q)
/-- NOP_PACKET (R303). -/
def execNopPacket (q : Nat) (s : State) : Result := .next (s.startNop q)
/-- LAUNCH (R303, R308). -/
def execLaunch (q : Nat) (s : State) : Result := .next (s.startLaunch q)
/-- COPY_PACKET (R303). -/
def execCopyPacket (q : Nat) (s : State) : Result := .next (s.startCopy q)
/-- COPY_PACKET_COMPLETE (R303). -/
def execCopyPacketComplete (q id : Nat) (s : State) : Result := .next (s.copyPacketComplete q id)
/-- SIGNAL (R303). -/
def execSignalPacket (q : Nat) (s : State) : Result := .next (s.startSignal q)
/-- WAITV (R303). -/
def execWaitv (q : Nat) (s : State) : Result := .next (s.startWaitv q)
/-- WAITV_WAKE (R303). -/
def execWaitvWake (q : Nat) (s : State) : Result := .next (s.waitvWake q)
/-- STEP_PACKET (R314). -/
def execStepPacket (q : Nat) (s : State) : Result := .next (s.startStep q)
/-- GRAPH (R303). -/
def execGraph (q : Nat) (s : State) : Result := .next (s.startGraph q)
/-- COND (R305). -/
def execCond (q : Nat) (s : State) : Result := .next (s.startCond q)
/-- WHILE (R305). -/
def execWhileNode (q : Nat) (s : State) : Result := .next (s.startWhile q)

end Sys2Proof.Machine
end

