-- ==== Sys2Proof/Machine/Collective.lean ====
section
/-! DEFINITION. Collectives (R341 to R357): step programs, messages, combining, completion records, regulators. -/

namespace Sys2Proof.Machine

/-! ### Steps and regions (Tables 20.5, 20.6) -/

/-- A step: its two dwords. -/
abbrev CStep := DWord × DWord

namespace CStep

def lo (x : CStep) : Nat := x.1.toNat
def op (x : CStep) : Nat := bits 7 0 x.lo
def send (x : CStep) : Bool := bit 8 x.lo
def ctr (x : CStep) : Nat := bits 10 9 x.lo
def xorMode (x : CStep) : Bool := bit 11 x.lo
def inDelta (x : CStep) : Int := sextNat 8 (bits 23 16 x.lo)
def outDelta (x : CStep) : Int := sextNat 8 (bits 31 24 x.lo)
def src (x : CStep) : Nat := bits 47 32 x.lo
def dst (x : CStep) : Nat := bits 63 48 x.lo
def literal (x : CStep) : Nat := bits 15 0 x.2.toNat
def countMode (x : CStep) : Nat := bits 17 16 x.2.toNat
def stop (x : CStep) : Nat := bits 25 18 x.2.toNat
/-- Iterations of a LOOP in a group of g. -/
def count (x : CStep) (g : Nat) : Nat :=
  match x.countMode with | 0 => x.literal | 1 => g - 1 | 2 => g - 2 | _ => g.log2
def isData (x : CStep) : Bool := decide (1 ≤ x.op) && decide (x.op ≤ 4)
/-- Is the in-peer used; is the out-peer? -/
def usesIn (x : CStep) : Bool := x.op == 2 || x.op == 3
def usesOut (x : CStep) : Bool := x.op == 1 || ((x.op == 2 || x.op == 3) && x.send)

end CStep

/-- A coefficient of a region. -/
def coef (n : Nat) : Int := match n with | 1 => 1 | 3 => -1 | _ => 0

/-- Reserved fields of a region are zero: in a whole region the chunk's fields are unused (R343). -/
def regionOk (r : Nat) : Bool := bits 15 14 r == 0 && bits 5 4 r != 2 && bits 3 2 r != 2 && (bit 1 r || r / 4 == 0)

def isChunk (r : Nat) : Bool := bit 1 r

namespace Coll

def w (c : Coll) (i : Nat) : Nat := (c.dwords.getD i 0).toNat
def rank (c : Coll) : Nat := bits 31 0 (c.w 2)
def size (c : Coll) : Nat := bits 63 32 (c.w 2)
def elems (c : Coll) : Nat := c.w 5
def fmt (c : Coll) : Nat := bits 7 0 (c.w 6)
def red (c : Coll) : Nat := bits 15 8 (c.w 6)
def esize (c : Coll) : Nat := codeBytes c.fmt
def step (c : Coll) : CStep := c.steps.getD c.pc (0, 0)
def iter (c : Coll) (n : Nat) : Nat := (c.ctrs.getD n LoopCtr.idle).iter

/-- First element and number of elements of a region (R344). -/
def region (c : Coll) (r : Nat) : Nat × Nat :=
  if isChunk r then
    let chunk := ceilDiv c.elems c.size
    let j := ((coef (bits 3 2 r) * c.rank + coef (bits 5 4 r) * c.iter c.step.ctr + sextNat 8 (bits 13 6 r)) % c.size).toNat
    (j * chunk, min ((j + 1) * chunk) c.elems - j * chunk)
  else (0, c.elems)

/-- Base of the buffer of a region. -/
def buffer (c : Coll) (r : Nat) : Nat := if bit 0 r then c.w 4 else c.w 3

/-- Address of a region's first byte, and its bytes. -/
def span (c : Coll) (r : Nat) : Nat × Nat := ((c.buffer r + (c.region r).1 * c.esize) % 2 ^ 64, (c.region r).2 * c.esize)

/-- A peer of the step in hand (R344). -/
def peer (c : Coll) (delta : Int) : Nat :=
  if c.step.xorMode then c.rank ^^^ 2 ^ c.iter c.step.ctr else ((c.rank + delta) % c.size).toNat
def inPeer (c : Coll) : Nat := c.peer c.step.inDelta
def outPeer (c : Coll) : Nat := c.peer c.step.outDelta

def peer? (c : Coll) (r : Nat) : Option PeerRec := c.peers.find? fun p => p.rank == r
def modPeer (c : Coll) (r : Nat) (f : PeerRec → PeerRec) : Coll := { c with peers := c.peers.map fun p => if p.rank = r then f p else p }

/-- The exchange of data step q with a peer has completed (R351). -/
def exchanged (c : Coll) (r q : Nat) : Coll := c.modPeer r fun p => { p with lastSeq := some (max q (p.lastSeq.getD q)) }

end Coll

/-! ### Validation (R342, R345) -/

/-- The innermost LOOP on counter c that encloses step i: its index and itself. -/
def loopOver (steps : List CStep) (i c : Nat) : Option (Nat × CStep) :=
  ((List.range i).reverse.filterMap fun j =>
    match steps[j]? with
    | some x => if x.op = 6 ∧ x.ctr = c ∧ i < x.stop then some (j, x) else none
    | none => none).head?

/-- Does the LOOP at j run another LOOP on its own counter inside its body? That one takes the counter, which is inactive when it ends,
so that the LOOP at j runs its body once (R346). -/
def loopTaken (steps : List CStep) (g j : Nat) (l : CStep) : Bool :=
  (List.range l.stop).any fun k =>
    decide (j < k) &&
    (match steps[k]? with
     | some m =>
       m.op == 6 && m.ctr == l.ctr && m.count g != 0 &&
       !((List.range k).any fun h => decide (j < h) &&
         (match steps[h]? with | some y => y.op == 6 && decide (k < y.stop) && y.count g == 0 | none => false))
     | none => false)

/-- The values of iter(c) with which step i may run (R344, R346); in xor mode more than twelve are never all valid. -/
def iters (steps : List CStep) (g i c : Nat) : List Nat :=
  match loopOver steps i c with
  | some (j, l) => if loopTaken steps g j l then [0] else List.range (min (l.count g) 12)
  | none => [0]

/-- Peers that step i names: in-peers and out-peers, over every iteration. -/
def stepPeers (steps : List CStep) (g rank i : Nat) (x : CStep) (isIn : Bool) : List Nat :=
  if !(if isIn then x.usesIn else x.usesOut) then []
  else if x.xorMode then (iters steps g i x.ctr).map fun n => rank ^^^ 2 ^ n
  else [((rank + (if isIn then x.inDelta else x.outDelta)) % (g : Int)).toNat]

def allPeers (steps : List CStep) (g rank : Nat) (isIn : Bool) : List Nat :=
  ((List.range steps.length).map fun i => stepPeers steps g rank i (steps.getD i (0, 0)) isIn).flatten

/-- The peers that a program names, ascending. -/
def namedPeers (steps : List CStep) (g rank : Nat) : List Nat :=
  let ps := allPeers steps g rank true ++ allPeers steps g rank false
  (List.range g).filter fun r => ps.contains r

/-- The shape of one step (R343, R345). -/
def stepOk (steps : List CStep) (g red i : Nat) (x : CStep) : Bool :=
  let deltas (useIn useOut : Bool) : Bool :=
    ((useIn && !x.xorMode) || x.inDelta == 0) && ((useOut && !x.xorMode) || x.outDelta == 0)
  bits 15 12 x.lo == 0 && bits 63 26 x.2.toNat == 0 && (x.op == 6 || x.2 == 0) &&
  (match x.op with
   | 0 | 5 => x.lo == x.op
   | 1 => regionOk x.src && x.dst == 0 && !x.send && deltas false true
   | 2 => regionOk x.dst && x.src == 0 && deltas true x.send
   | 3 => regionOk x.src && regionOk x.dst && isChunk x.src == isChunk x.dst && deltas true x.send && red != 0
   | 4 => regionOk x.src && regionOk x.dst && isChunk x.src == isChunk x.dst && !x.send && !x.xorMode && deltas false false
   | 6 =>
     bits 63 11 x.lo == 0 && !x.send && (x.countMode == 0 || x.literal == 0) && (x.countMode != 3 || g == 2 ^ g.log2) &&
     decide (i < x.stop) && decide (x.stop ≤ steps.length) &&
     ((List.range i).all fun j =>
       match steps[j]? with | some l => !(l.op == 6 && decide (i < l.stop)) || decide (x.stop < l.stop) | none => true)
   | _ => false)

/-- Is END reached before the step count? Counted loops never skip it, but one of no iterations skips its body. -/
def reachesEnd (steps : List CStep) (g : Nat) : (fuel pc : Nat) → Bool
  | 0, _ => false
  | fuel + 1, pc =>
    match steps[pc]? with
    | none => false
    | some x =>
      if x.op = 0 then true
      else if x.op = 6 ∧ x.count g = 0 then reachesEnd steps g fuel x.stop
      else reachesEnd steps g fuel (pc + 1)

def programOk (steps : List CStep) (g rank red : Nat) : Bool :=
  let ps := allPeers steps g rank true ++ allPeers steps g rank false
  ((List.range steps.length).all fun i => stepOk steps g red i (steps.getD i (0, 0))) &&
  reachesEnd steps g (steps.length + 1) 0 && ps.all (fun p => p != rank && decide (p < g)) &&
  decide ((namedPeers steps g rank).length ≤ 64) && (g != 1 || steps.all fun x => !(x.op == 1 || x.op == 2 || x.op == 3))

/-! ### Combining (R348) and the histogram (R352) -/

/-- `combine` on raw element codes. (DEDUCED, log entry 48) -/
def combine (fmt red rank seq e a b : Nat) : Nat :=
  match fmtOf fmt with
  | some f =>
    if red = 1 then
      convert f .sr false (srgen (BitVec.ofNat 32 rank) (BitVec.ofNat 32 seq) (BitVec.ofNat 32 (e / 2 ^ 32)) (BitVec.ofNat 32 e)).toNat
        (FVal.add false (decodeF f a) (decodeF f b))
    else minMaxCode f (red == 2) a b
  | none =>
    let n := if fmt = 3 then 32 else 8
    let less (x y : Nat) : Bool := if fmt = 5 then decide (x < y) else decide (sextNat n x < sextNat n y)
    match red with
    | 1 => (a + b) % 2 ^ n
    | 2 => if less b a then b else a
    | 3 => if less a b then b else a
    | 4 => a &&& b
    | 5 => a ||| b
    | _ => a ^^^ b

/-- Bin of an element. -/
def binOf (fmt raw : Nat) : Nat :=
  match fmtOf fmt with
  | some f =>
    match decodeF f raw with
    | .nan | .inf _ => 63
    | .fin _ n d =>
      if n = 0 then 0
      else
        let x := floorLog2 n d + 32
        if x < 1 then 1 else if 62 < x then 62 else x.toNat
  | none =>
    let v : Int := if fmt = 3 then sextNat 32 raw else if fmt = 4 then sextNat 8 raw else raw
    if v.natAbs = 0 then 0 else v.natAbs.log2 + 1

/-- Elements of a stretch of bytes. -/
def elemsOf (size : Nat) (bs : List Byte) : List Nat := (groupsOf (bs.length + 1) size bs).map ofBytes

/-- 64 saturating counts. -/
def histogram (fmt size : Nat) (bs : List Byte) : List Nat :=
  let es := (elemsOf size bs).map (binOf fmt)
  (List.range 64).map fun b => min (es.filter fun e => e == b).length (2 ^ 32 - 1)

/-! ### The completion record (Table 20.7) -/

def collRecord (c : Coll) (status reason : Nat) (lost : Option Nat) (now : Nat) (hist : Option (List Nat)) : List Byte :=
  let word := status + 4 * b2n hist.isSome + reason * 256 + (match lost with | some r => r * 2 ^ 16 + 2 ^ 26 | none => 0)
  toBytes 4 word ++ toBytes 4 c.seq ++ toBytes 8 c.started ++ toBytes 8 now ++ toBytes 2 c.peers.length ++ toBytes 38 0 ++
  ((hist.getD (List.replicate 64 0)).map (toBytes 4)).flatten ++
  (((List.range 64).map fun i => match c.peers[i]? with
    | some p => toBytes 4 p.rank ++ toBytes 4 (p.lastSeq.getD (2 ^ 32 - 1))
    | none => toBytes 8 0).flatten)

namespace State

/-! ### Starting (R341, R345, R347) -/

/-- The program of a COLL packet as memory holds it: group id, steps and rank map; the inner none when its header breaks R342. A fault behind
the header comes with the group id. -/
def loadProgram (s : State) (die asid va g : Nat) : Except (Option Word × Byte × Nat) (Word × Option (List CStep × List Nat)) :=
  match s.readSpan die asid va .read .program 2 64 with
  | .error e => .error (none, e)
  | .ok h =>
    let at_ (o n : Nat) : Nat := ofBytes ((h.drop o).take n)
    let group : Word := BitVec.ofNat 32 (at_ 0 4)
    let n := at_ 4 2
    if va % 64 ≠ 0 ∨ n = 0 ∨ 256 < n ∨ at_ 6 2 ≠ 0 ∨ at_ 8 8 % 2 ≠ 0 ∨ (h.drop 16).any (fun b => b != 0) then .ok (group, none)
    else
      match s.readSpan die asid ((va + 64) % 2 ^ 64) .read .program 3 (16 * n), s.readSpan die asid (at_ 8 8) .read .program 3 (2 * g) with
      | .ok ss, .ok rs =>
        let steps := (List.range n).map fun i =>
          (BitVec.ofNat 64 (ofBytes ((ss.drop (16 * i)).take 8)), BitVec.ofNat 64 (ofBytes ((ss.drop (16 * i + 8)).take 8)))
        .ok (group, some (steps, (List.range g).map fun i => ofBytes ((rs.drop (2 * i)).take 2)))
      | .error e, _ => .error (some group, e)
      | _, .error e => .error (some group, e)

/-- Does a collective that runs hold a program's group (R347)? -/
def groupBusy (s : State) (group : Word) : Bool := s.colls.any fun c => c.group == group

/-- Addresses in the pages of a COLL's program: those of its header, and once that may be read those of its steps and rank map. -/
def programAddrs (s : State) (q : Nat) : List Nat :=
  let va := (s.queue q).dw 1
  spanAddrs va 64 ++
  (if (spanAddrs va 64).all (s.canWalk (s.medlar q) (s.queue q).asid) then
    (match s.readSpan (s.medlar q) (s.queue q).asid va .read .program 2 64 with
     | .ok h => spanAddrs ((va + 64) % 2 ^ 64) (16 * ofBytes ((h.drop 4).take 2)) ++ spanAddrs (ofBytes ((h.drop 8).take 8)) (2 * bits 63 32 ((s.queue q).dw 2))
     | .error _ => [])
   else [])

/-- Could the COLL held by a queue start but for the limit of sixteen? -/
def collWaits (s : State) (q : Nat) : Bool :=
  s.mayStart q 2 &&
  (match s.loadProgram (s.medlar q) (s.queue q).asid ((s.queue q).dw 1) (bits 63 32 ((s.queue q).dw 2)) with
   | .ok (g, _) => !s.groupBusy g
   | .error (g, _) => !g.any s.groupBusy)

/-- It starts in its turn: the one that reached ORDER first. -/
def collTurn (s : State) (q : Nat) : Bool :=
  s.collWaits q && decide (s.colls.length < 16) &&
  s.queues.all fun (r, x) => !s.collWaits r || decide ((s.queue q).orderStamp ≤ x.orderStamp)

def sendTo (s : State) (c : Coll) (rank : Nat) (m : Nat → OutMsg) : State := s.emit (m (c.ranks.getD rank 0))

/-- Receives a chunk for a running collective. -/
def putChunk (c : Coll) (src seq first total : Nat) (data : List Byte) : Coll :=
  let o := first * c.esize
  let place (m : InMsg) : InMsg :=
    { m with got := m.got + data.length,
             data := m.data.take o ++ List.replicate (o - m.data.length) 0 ++ data ++ m.data.drop (o + data.length) }
  if c.inbox.any fun m => m.src == src && m.seq == seq then
    { c with inbox := c.inbox.map fun m => if m.src = src ∧ m.seq = seq then place m else m }
  else { c with inbox := c.inbox ++ [place ⟨src, seq, total, 0, []⟩] }

/-- The regulator slot of a context on a die (R353). -/
def cregOf (s : State) (die asid : Nat) : Option (Nat × CReg) :=
  (s.die die).cregs.find? fun (_, r) => r.word.getLsbD 63 && bits 15 0 r.word.toNat == asid

/-- Takes the bytes of one access from a context's bucket, if it holds them all. -/
def payAll (s : State) (die asid n : Nat) : Option State :=
  match s.cregOf die asid with
  | none => some s
  | some (i, r) =>
    if n ≤ r.tokens then some (s.modDie die fun x => { x with cregs := tabSet i { r with tokens := r.tokens - n } x.cregs }) else none

/-- The running collective of a group (R347). (DEDUCED, log entry 46) -/
def byGroup (s : State) (group : Word) : Option Coll := s.colls.find? fun c => c.group == group && !c.peers.isEmpty

def putCredit (c : Coll) (src seq : Nat) : Coll := c.modPeer src fun p => { p with grantedBy := max p.grantedBy seq }

/-- The number that a message carries: the collective of its group, and the number within it (PRESUMED, log entry 45). -/
def wire (c : Coll) (n : Nat) : Nat := c.round * 2 ^ 32 + n
def wireRound (n : Nat) : Nat := n / 2 ^ 32
def wireSeq (n : Nat) : Nat := n % 2 ^ 32

/-- The credits that a collective has granted, sent to the peers that it receives from. -/
def sendCredits (s : State) (id : Nat) : State :=
  match s.coll? id with
  | none => s
  | some c => c.peers.foldl (fun s p => if p.grantedTo = 0 then s else s.sendTo c p.rank fun a => .credit a c.group c.rank (wire c p.grantedTo)) s

/-- Has a peer's chunk or credit reached the collective? -/
def heardOf (c : Coll) (src : Nat) : Bool :=
  (c.inbox.any fun m => m.src == src) || (c.peer? src).any fun p => p.grantedBy != 0 || p.takes != 0

/-- A collective that has heard nothing of a peer, and now does under a higher number of the group, is one that lost count of its group's, by a
reset or by packets that named no program: it takes that number and sends its credits under it (PRESUMED, log entry 45). -/
def catchUp (s : State) (c : Coll) (m : EarlyMsg) : State :=
  let n := wireRound m.seq
  if n ≤ c.round ∨ (c.peer? m.src).isNone ∨ heardOf c m.src then s
  else
    (({ s with ual := { s.ual with rounds := tabPut 0 c.group.toNat (n + 1) s.ual.rounds } } : State).modColl c.id fun c =>
      { c with round := n }).sendCredits c.id

/-- Chunks and credits that have arrived go to the collective of their group, once it has started; a chunk is first written to the staging
of the receiver, which the regulator charges, and waits at its port until it can be (R347, R353). One of a later collective of the group is
kept for it, and one of an earlier is dropped. (PRESUMED, log entry 45) -/
def stage (s : State) : State :=
  s.ual.early.foldl (fun s m =>
    let keep (s : State) : State := { s with ual := { s.ual with early := s.ual.early ++ [m] } }
    let s : State := match s.byGroup m.group with | some c => s.catchUp c m | none => s
    match s.byGroup m.group with
    | none => keep s
    | some c =>
      if c.round < wireRound m.seq then keep s
      else if wireRound m.seq < c.round then s
      else match m.chunk with
      | none => s.modColl c.id fun c => putCredit c m.src (wireSeq m.seq)
      | some (first, total, bs) =>
        match s.payAll (s.medlar c.queue) c.asid bs.length with
        | none => keep s
        | some s => s.modColl c.id fun c => putChunk c m.src (wireSeq m.seq) first total bs) { s with ual := { s.ual with early := [] } }

/-- The outcome of a translation or permission fault of a collective (R345, R356): the program of one that has not run is refused; another
parks, or ends with reason 2. -/
def collOutcome (s : State) (id token : Nat) : State :=
  s.modColl id fun c =>
    if c.ending.isSome then c
    else if c.steps.isEmpty then { c with ending := some (2, 4, none) }
    else if token ≠ 0 then { c with parked := some token }
    else { c with ending := some (1, 2, none) }

/-- Records such a fault with source 4. -/
def collRecordFault (s : State) (id : Nat) (cause : Byte) (addr access token : Nat) : State :=
  match s.coll? id with
  | none => s
  | some c =>
    let (s, ok) := s.record (s.medlar c.queue) (fbEntry addr c.asid cause 4 (token != 0) (some access) 0xFFFF 0 0 0 c.queue token)
      (.coll id cause token)
    if ok then s.collOutcome id token else s

/-- A program has been read: its translations, and its requests to a link (R253, R325). -/
def programRead (s : State) (die asid va steps g : Nat) : State :=
  let u : State := s.spanRead die asid va (64 + 16 * steps) .read .program
  match s.readSpan die asid va .read .program 2 64 with
  | .ok h => u.spanRead die asid (ofBytes ((h.drop 8).take 8)) (2 * g) .read .program
  | .error _ => u

/-- COLL starts: the program is validated; a refused one sends nothing and ends with status 2, reason 4. (DEDUCED, log entry 44) -/
def startColl (s : State) (q : Nat) : State :=
  if !s.collTurn q then s
  else s.queueWalks q (s.programAddrs q) fun s =>
    let x := s.queue q
    let d := s.medlar q
    let g := bits 63 32 (x.dw 2)
    let rank := bits 31 0 (x.dw 2)
    let (id, s₁) := s.fresh
    let base : Coll := ⟨id, q, x.asid, id, (x.held.getD []).take 8, 0, [], [], 0, 0, List.replicate 4 LoopCtr.idle, s.refTime, [], [], [],
      none, none, x.rp.toNat, false, false, 0, 0⟩
    let s₁ : State := s₁.pushStarted q id (.coll id)
    let add (s : State) (c : Coll) : State := { s with colls := s.colls ++ [c] }
    -- the next collective of its group
    let of (group : Word) (s : State) (c : Coll) : State :=
      let n := tabGet 0 group.toNat s.ual.rounds
      add { s with ual := { s.ual with rounds := tabPut 0 group.toNat (n + 1) s.ual.rounds } } { c with group := group, round := n }
    match s.loadProgram d x.asid (x.dw 1) g with
    | .error (group, c, a) =>
      let s : State := if c = 0x09 then s₁.markFailed x.asid else s₁
      -- behind the header the collective counts as one of its group's
      (match group with | some group => of group s base | none => add s base).collRecordFault id c a 0 0
    | .ok (group, none) => of group s₁ { base with ending := some (2, 4, none) }
    | .ok (group, some (steps, ranks)) =>
      let red := bits 15 8 (x.dw 6)
      let fmt := bits 7 0 (x.dw 6)
      let mapOk := ranks.all (fun r => decide (r < 1024)) && decide ranks.Nodup && ranks.getD rank 1024 == s.ual.uaid
      let portable := x.level == 3 && red == 1 && fmt != 3
      if !mapOk || portable || !programOk steps g rank red then of group s₁ { base with ending := some (2, 4, none) }
      else
        let ins := allPeers steps g rank true
        let peers := (namedPeers steps g rank).map fun r => ⟨r, 0, 0, if ins.contains r then 8 else 0, 0, 0, 0, none, 0⟩
        let c : Coll := { base with group := group, steps := steps, ranks := ranks, peers := peers, round := tabGet 0 group.toNat s₁.ual.rounds }
        let s : State := s₁.programRead d x.asid (x.dw 1) steps.length g
        ((of group s c).stage).sendCredits id

/-! ### Running (R346, R350, R353) -/

/-- Does the engine work on this collective? -/
def collRuns (s : State) (c : Coll) : Bool :=
  !s.enginesFrozen c.asid && c.parked.isNone && c.ending.isNone &&
    !(s.faultWaits fun w => match w with | .coll i _ _ => i == c.id | _ => false)

/-- Takes bytes from the context's bucket; the step goes on once all of them are paid. -/
def payFor (s : State) (c : Coll) (need : Nat) : State × Bool :=
  let d := s.medlar c.queue
  match s.cregOf d c.asid with
  | none => (s, true)
  | some (i, r) =>
    let t := min r.tokens (need - c.paid)
    let s : State := s.modDie d fun x => { x with cregs := tabSet i { r with tokens := r.tokens - t } x.cregs }
    if need ≤ c.paid + t then (s.modColl c.id fun c => { c with paid := 0 }, true)
    else (s.modColl c.id fun c => { c with paid := c.paid + t }, false)

/-- The collective's own end of a data fault (R356): it parks, or ends with reason 2 or 3. -/
def collFault (s : State) (c : Coll) (cause : Byte) (addr access : Nat) : State :=
  if cause = 0x09 then (s.markFailed c.asid).modColl c.id fun c => { c with ending := some (1, 3, none) }
  else
    let (token, s) := s.parkToken c.asid cause
    s.collRecordFault c.id cause addr access token

/-- After a step that does not transfer: the loops that end here go round or end, innermost first. -/
def loopBack (c : Coll) : (fuel : Nat) → Coll
  | 0 => c
  | fuel + 1 =>
    let here := (List.range 4).filter fun i => (c.ctrs.getD i LoopCtr.idle).active && (c.ctrs.getD i LoopCtr.idle).stop == c.pc
    match here.find? fun i => here.all fun j => decide ((c.ctrs.getD j LoopCtr.idle).start ≤ (c.ctrs.getD i LoopCtr.idle).start) with
    | none => c
    | some i =>
      let l := c.ctrs.getD i LoopCtr.idle
      if l.iter + 1 < l.count then { c with pc := l.start, ctrs := listSet i { l with iter := l.iter + 1 } c.ctrs }
      else loopBack { c with ctrs := listSet i { l with active := false, iter := 0 } c.ctrs } fuel

/-- LOOP (R346). -/
def runLoop (c : Coll) : Coll :=
  let n := c.step.count c.size
  if n = 0 then { c with pc := c.step.stop }
  else loopBack { c with ctrs := listSet c.step.ctr ⟨true, 0, c.pc + 1, c.step.stop, n⟩ c.ctrs, pc := c.pc + 1 } 4

/-- Behind a data step that has returned. -/
def pastData (c : Coll) : Coll := loopBack { c with pc := c.pc + 1, seq := c.seq + 1, begun := false, half := false } 4

/-- A record of a collective's step in the trace (R374). -/
def traceStep (s : State) (c : Coll) (kind : Nat) : State :=
  s.trace c.asid kind c.queue (2 * 2048) (c.qrpAtStart * 2 ^ 32 + c.seq) c.seq 0

/-- A data step has returned. -/
def stepReturn (s : State) (id : Nat) : State :=
  match s.coll? id with
  | none => s
  | some c =>
    (s.traceStep c 8).modColl id pastData

/-- Hands over the chunks of the step's message for which there is credit; the step returns when all have gone. -/
def pump (s : State) (id dst : Nat) : (fuel : Nat) → State
  | 0 => s
  | fuel + 1 =>
    match s.coll? id with
    | none => s
    | some c =>
      match c.outbox.find? fun p => p.seq == c.seq && p.dst == dst, c.peer? dst with
      | some p, some r =>
        if p.posted then s.stepReturn id
        else if r.grantedBy ≤ r.sentTo then s
        else
          let bs := (p.data.drop p.sent).take 4096
          let s : State := s.sendTo c dst fun a => .chunk a c.group c.rank (wire c p.no) (p.sent / c.esize) (p.data.length / c.esize) bs
          let s : State := s.modColl id fun c =>
            { (c.modPeer dst fun r => { r with sentTo := r.sentTo + 1 }) with
              outbox := c.outbox.map fun y => if y.seq = p.seq ∧ y.dst = dst then
                { y with sent := y.sent + bs.length, posted := decide (y.data.length ≤ y.sent + bs.length) } else y }
          pump s id dst fuel
      | _, _ => s

def pumpAll (s : State) (c : Coll) : State :=
  match c.outbox.find? fun p => p.seq == c.seq with
  | some p => s.pump c.id p.dst (p.data.length / 4096 + 3)
  | none => s

/-- Posts the step's message. -/
def post (s : State) (c : Coll) (data : List Byte) : State :=
  let no := ((c.peer? c.outPeer).map (·.posts)).getD 0
  let s : State := s.modColl c.id fun c =>
    { (c.modPeer c.outPeer fun p => { p with posts := p.posts + 1 }) with
      half := true
      outbox := c.outbox ++ [⟨c.outPeer, c.seq, no, data, 0, false⟩] }
  match s.coll? c.id with
  | some c => s.pumpAll c
  | none => s

def readRegion (s : State) (c : Coll) (r : Nat) : Except (Byte × Nat) (List Byte) :=
  let (a, n) := c.span r
  s.readSpan (s.medlar c.queue) c.asid a .read .program (n / 2 ^ 16 + 2) n

/-- A region has been read: its translations, and its requests to a link (R253, R325). -/
def regionRead (s : State) (c : Coll) (r : Nat) : State :=
  s.spanRead (s.medlar c.queue) c.asid (c.span r).1 (c.span r).2 .read .program

/-- Addresses in the pages of a region. -/
def regionAddrs (c : Coll) (r : Nat) : List Nat := spanAddrs (c.span r).1 (c.span r).2

/-- Does element e of R overlap S, which R is not? Such elements are undefined (R341). -/
def overlaps (c : Coll) (e : Nat) : Bool :=
  let lo := c.w 4 + e * c.esize
  c.w 3 != c.w 4 && decide (lo < c.w 3 + c.elems * c.esize) && decide (c.w 3 < lo + c.esize)

/-- Is the byte at an address one of such an element? -/
def overlapByte (c : Coll) (a : Nat) : Bool :=
  decide (c.w 4 ≤ a) && decide (a < c.w 4 + c.elems * c.esize) && overlaps c ((a - c.w 4) / c.esize)

/-- Addresses of the bytes of elements of R. -/
def elemBytes (c : Coll) (es : List Nat) : List Nat := (es.map fun e => (List.range c.esize).map fun j => (c.w 4 + e * c.esize + j) % 2 ^ 64).flatten

/-- The overlapping elements are undefined at the end, whatever the program wrote of them (R341). -/
def spoilOverlap (s : State) (c : Coll) : State :=
  if c.w 3 = c.w 4 ∨ c.w 3 + c.elems * c.esize ≤ c.w 4 ∨ c.w 4 + c.elems * c.esize ≤ c.w 3 then s
  else s.spoilBytes (s.medlar c.queue) c.asid .program (elemBytes c ((List.range c.elems).filter (overlaps c)))

/-- Writes a region, or, if it cannot all be written, nothing of it, so that a replayed step combines no element twice (R356). Elements of R
that overlap S otherwise than by being S are undefined, whichever region names their bytes (R341). -/
def writeRegion (s : State) (c : Coll) (r : Nat) (bs : List Byte) : State × Option (Byte × Nat) :=
  let (a, n) := c.span r
  let bs := ((List.range bs.length).zip bs).map fun (i, b) => if overlapByte c (a + i) then (s.freeVal 21 i).setWidth 8 else b
  match s.writeSpan (s.medlar c.queue) c.asid a .program (n / 2 ^ 16 + 2) bs with
  | (s', none) => (s'.drawn, none)
  | (_, some f) => (s, some f)

/-- The engine comes to the data step at the program counter. -/
def enterStep (s : State) (c : Coll) : State := (s.traceStep c 7).modColl c.id fun c => { c with begun := true }

/-- The next message of a peer: the one behind those that steps have taken, whichever arrives first (R347, R349). -/
def nextMsg (c : Coll) (src : Nat) : Option InMsg :=
  c.inbox.find? fun m => m.src == src && m.seq == ((c.peer? src).map (·.takes)).getD 0
def msgDone (c : Coll) (m : InMsg) : Bool := decide (m.total * c.esize ≤ m.got)
/-- Chunks of a message. -/
def chunksOf (n : Nat) : Nat := max 1 (ceilDiv n 4096)

/-- Grants a peer credit up to eight chunks ahead of what has been taken from it (R347). -/
def grant (s : State) (c : Coll) (src progress : Nat) : State :=
  match c.peer? src with
  | none => s
  | some p =>
    if p.takenFrom + progress + 8 ≤ p.grantedTo then s
    else
      (s.sendTo c src fun a => .credit a c.group c.rank (wire c (p.takenFrom + progress + 8))).modColl c.id
        fun c => c.modPeer src fun p => { p with grantedTo := p.takenFrom + progress + 8 }

/-- Takes a message: it is acknowledged, and its place is free (R346, R347). -/
def takeMsg (s : State) (c : Coll) (m : InMsg) : State :=
  let s : State := s.sendTo c m.src fun a => .collAck a c.group c.rank (wire c m.seq)
  let s : State := s.modColl c.id fun c =>
    (c.modPeer m.src fun p => { p with takenFrom := p.takenFrom + chunksOf (m.total * c.esize), takes := p.takes + 1 }).exchanged m.src c.seq
  let s : State := s.modColl c.id fun c => { c with inbox := c.inbox.filter fun y => !(y.src == m.src && y.seq == m.seq) }
  match s.coll? c.id with
  | some c => s.grant c m.src 0
  | none => s

/-- SEND (R346). -/
def collSend (s : State) (id : Nat) : State :=
  match s.coll? id with
  | none => s
  | some c =>
    if !s.collRuns c || c.step.op != 1 then s
    else if !c.begun then s.enterStep c
    else if c.half then s.pumpAll c
    else s.queueWalks c.queue (regionAddrs c c.step.src) fun s =>
      let (s, ok) := s.payFor c (c.span c.step.src).2
      if !ok then s
      else
        match s.readRegion c c.step.src with
        | .error (f, a) => s.collFault c f a 0
        | .ok bs => (s.regionRead c c.step.src).post c bs

/-- RECV and RRS (R346, R348). -/
def collTake (s : State) (id : Nat) (rrs : Bool) : State :=
  match s.coll? id with
  | none => s
  | some c =>
    if !s.collRuns c || c.step.op != (if rrs then 3 else 2) then s
    else if !c.begun then s.enterStep c
    else if c.half then s.pumpAll c
    else
      match nextMsg c c.inPeer with
      | none => s
      | some m =>
        if m.total ≠ (c.region c.step.dst).2 then s.modColl id fun c => { c with ending := some (1, 5, none) }
        else if !msgDone c m then s.grant c m.src (m.got / 4096)
        else s.queueWalks c.queue (regionAddrs c c.step.dst ++ if rrs then regionAddrs c c.step.src else []) fun s =>
          let n := (c.span c.step.dst).2
          let (s, ok) := s.payFor c (if rrs then 3 * n else 2 * n)
          if !ok then s
          else
            let first := (c.region c.step.dst).1
            let data : Except (Byte × Nat) (List Byte) :=
              if rrs then
                (s.readRegion c c.step.src).map fun bs =>
                  (((elemsOf c.esize bs).zip (elemsOf c.esize m.data)).zip (List.range m.total)).map (fun ((a, b), i) =>
                    toBytes c.esize (combine c.fmt c.red c.rank c.seq (first + i) a b)) |>.flatten
              else .ok m.data
            match data with
            | .error (f, a) => s.collFault c f a 0
            | .ok bs =>
              match (if rrs then s.regionRead c c.step.src else s).writeRegion c c.step.dst bs with
              | (s, some (f, a)) => s.collFault c f a 1
              | (s, none) =>
                let s : State := s.takeMsg c m
                if c.step.send then s.post c bs else s.stepReturn id

/-- COPY (R346). -/
def collCopy (s : State) (id : Nat) : State :=
  match s.coll? id with
  | none => s
  | some c =>
    if !s.collRuns c || c.step.op != 4 then s
    else if !c.begun then s.enterStep c
    else s.queueWalks c.queue (regionAddrs c c.step.src ++ regionAddrs c c.step.dst) fun s =>
      let (s, ok) := s.payFor c (2 * (c.span c.step.dst).2)
      if !ok then s
      else
        match s.readRegion c c.step.src with
        | .error (f, a) => s.collFault c f a 0
        | .ok bs =>
          match (s.regionRead c c.step.src).writeRegion c c.step.dst (bs.take (c.span c.step.dst).2) with
          | (s, some (f, a)) => s.collFault c f a 1
          | (s, none) => s.stepReturn id

/-- WAIT (R346): every message posted has been acknowledged. -/
def collWait (s : State) (id : Nat) : State :=
  match s.coll? id with
  | none => s
  | some c =>
    if !s.collRuns c || c.step.op != 5 || !c.outbox.isEmpty then s
    else s.modColl id fun c => loopBack { c with pc := c.pc + 1 } 4

/-- LOOP (R346). -/
def collLoop (s : State) (id : Nat) : State :=
  match s.coll? id with
  | none => s
  | some c =>
    if !s.collRuns c || c.step.op != 6 then s else s.modColl id runLoop

/-! ### Ending (R350, R351, R354, R356, R405) -/

/-- Writes the record in the context's ASID; a fault drops it and is recorded. -/
def writeRecord (s : State) (c : Coll) (bs : List Byte) : State :=
  let d := s.medlar c.queue
  let va := c.w 7
  let check (a : Nat) : Option (Byte × Nat) := match s.writable d c.asid a .frontEnd with | .ok _ => none | .error f => some (f, a)
  match (check va).orElse fun _ => check ((va + 831) % 2 ^ 64) with
  | some (f, a) => (s.record d (fbEntry a c.asid f 4 false (some 1) 0xFFFF 0 0 0 c.queue 0) .report).1
  | none => (s.writeSpan d c.asid va .frontEnd 3 bs).1

/-- Elements of R, as first and number, that the data steps write from where a collective stands; where S is R those of S are (R341). -/
def laterWrites : (fuel : Nat) → Coll → List (Nat × Nat)
  | 0, _ => []
  | fuel + 1, c =>
    match c.step.op with
    | 0 => []
    | 5 => laterWrites fuel (loopBack { c with pc := c.pc + 1 } 4)
    | 6 => laterWrites fuel (runLoop c)
    | op => (if op != 1 && (bit 0 c.step.dst || c.w 3 == c.w 4) then [c.region c.step.dst] else []) ++ laterWrites fuel (pastData c)

/-- More steps than a program of 256 with its four counters can run. -/
def stepBound : Nat := 2 ^ 80

def inRegions (rs : List (Nat × Nat)) (e : Nat) : Bool := rs.any fun (first, n) => decide (first ≤ e) && decide (e < first + n)

/-- The elements of R that a partial collective leaves undefined: those whose last write of the program it has not completed (R355). -/
def openElems (c : Coll) : List Nat :=
  let all := laterWrites stepBound { c with pc := 0, seq := 0, ctrs := List.replicate 4 LoopCtr.idle }
  let left := laterWrites stepBound (if c.half then pastData c else c)
  (List.range c.elems).filter fun e => !inRegions all e || inRegions left e

/-- A collective ends: aborts to its peers unless it is complete or refused, the record, and the packet's completion. -/
def endColl (s : State) (c : Coll) (status reason : Nat) (lost : Option Nat) (hist : Option (List Nat)) : State :=
  let s : State := if status = 0 ∨ status = 2 then s
    else c.peers.foldl (fun s p => s.sendTo c p.rank fun a => .abort a c.group c.rank reason) s
  let s : State := if status ≠ 1 then s
    else s.spoilBytes (s.medlar c.queue) c.asid .program (elemBytes c (openElems c))
  let s : State := if status = 1 ∨ status = 3 then s.spoilOverlap c else s
  let s : State := s.writeRecord c (collRecord c status reason lost s.refTime hist)
  let s : State := { s with
    colls := s.colls.filter fun x => x.id != c.id
    ual := { s.ual with early := s.ual.early.filter fun m => m.group != c.group || decide (c.round < wireRound m.seq) } }
  s.completePacket c.queue c.packet

/-- Is the context gone, so that a freeze does not hold the end (R365)? -/
def ctxGone (s : State) (asid : Nat) : Bool :=
  match s.ctx? asid with | some c => c.terminated || c.terminating | none => true

/-- END, and the end of a collective that has failed, been killed or refused. -/
def collEnd (s : State) (id : Nat) : State :=
  match s.coll? id with
  | none => s
  | some c =>
    match c.ending with
    | some (status, reason, lost) =>
      if s.enginesFrozen c.asid && !s.ctxGone c.asid then s else s.endColl c status reason lost none
    | none =>
      if !s.collRuns c || c.step.op != 0 || !c.outbox.isEmpty then s
      else s.queueWalks c.queue (spanAddrs (c.w 4) (c.elems * c.esize)) fun s =>
        let n := c.elems * c.esize
        let (s, ok) := s.payFor c n
        if !ok then s
        else
          let s : State := s.spoilOverlap c
          match s.readSpan (s.medlar c.queue) c.asid (c.w 4) .read .program (n / 2 ^ 16 + 2) n with
          | .error (f, a) => s.collFault c f a 0
          | .ok bs => (s.spanRead (s.medlar c.queue) c.asid (c.w 4) n .read .program).endColl c 0 0 none (some (histogram c.fmt c.esize bs))

/-! ### Messages of peers (R340, R347, R354) -/

/-- A chunk or credit arrives; one of a group that has not started is kept (DEDUCED, log entry 46). -/
def arrive (s : State) (m : EarlyMsg) : State := { s with ual := { s.ual with early := s.ual.early ++ [m] } }.stage

/-- Does the step in hand wait for a message of a peer? -/
def awaitsMsg (c : Coll) (src : Nat) : Bool :=
  c.step.usesIn && c.begun && !c.half && c.inPeer == src && (match nextMsg c src with | some m => !msgDone c m | none => true)

/-- Does it wait for a credit of a peer? -/
def awaitsCredit (c : Coll) (src : Nat) : Bool := c.half && c.outPeer == src && (c.peer? src).any fun p => decide (p.grantedBy ≤ p.sentTo)

/-- COLLECTIVE_CHUNK: staged for the collective, or kept until it starts. (PRESUMED, log entry 45.) A chunk of the message that is awaited starts
the time of its peer anew (log entry 47). -/
def takeChunk (s : State) (group : Word) (src seq first total : Nat) (data : List Byte) : State :=
  let s : State := match s.byGroup group with
    | some c => if wireRound seq = c.round ∧ awaitsMsg c src then s.modColl c.id fun c => c.modPeer src fun p => { p with waited := 0 } else s
    | none => s
  s.arrive ⟨group, src, seq, some (first, total, data)⟩

/-- COLLECTIVE_CREDIT. -/
def takeCredit (s : State) (group : Word) (src seq : Nat) : State := s.arrive ⟨group, src, seq, none⟩

/-- COLLECTIVE_ABORT: a member of the group ends the same way, with reason 6. -/
def takeAbort (s : State) (group : Word) : State :=
  match s.byGroup group with
  | some c => s.modColl c.id fun c => if c.ending.isNone then { c with ending := some (1, 6, none) } else c
  | none => s

/-- COLLECTIVE_ACKNOWLEDGEMENT: a posted message has been written at its receiver. -/
def takeAck (s : State) (group : Word) (src seq : Nat) : State :=
  match s.byGroup group with
  | some c =>
    let mine (p : OutPost) : Bool := p.dst == src && wire c p.no == seq && p.posted
    match c.outbox.find? mine with
    | some p => s.modColl c.id fun c =>
        { c.exchanged src p.seq with outbox := c.outbox.filter fun p => !mine p }
    | none => s
  | none => s

/-- Has a chunk of a peer come that waits at its port for tokens (R353)? The peer has done its part. -/
def atPort (s : State) (c : Coll) (src : Nat) : Bool :=
  s.ual.early.any fun m => m.group == c.group && m.src == src && wireRound m.seq == c.round && m.chunk.isSome

/-- Peers that the collective waits for now (R354): for credit, for the message of the step, for acknowledgements. -/
def awaited (s : State) (c : Coll) : List Nat :=
  if c.ending.isSome || c.parked.isSome then []
  else
    match c.step.op with
    | 0 | 5 => c.outbox.map (·.dst)
    | 1 | 2 | 3 => ([c.outPeer].filter (awaitsCredit c)) ++ [c.inPeer].filter fun p => awaitsMsg c p && !s.atPort c p
    | _ => []

/-- Unfrozen time passes for the peers that are waited for. (DEDUCED, log entry 47) -/
def waitOn (s : State) (ticks : Nat) : State :=
  { s with colls := s.colls.map fun c =>
      if s.enginesFrozen c.asid then c
      else
        let a := s.awaited c
        { c with peers := c.peers.map fun p => { p with waited := if a.contains p.rank then p.waited + ticks else 0 } } }

/-- PEER_LOSS_TIMEOUT: what was awaited from a peer has not come within 2 ms. -/
def peerLoss (s : State) (id rank : Nat) : State :=
  match s.coll? id with
  | none => s
  | some c =>
    match c.peer? rank with
    | some p =>
      if c.ending.isNone ∧ Config.lossTimer ≤ p.waited ∧ (s.awaited c).contains rank ∧ !s.enginesFrozen c.asid then
        s.modColl id fun c => { c with ending := some (1, 1, some rank) }
      else s
    | none => s

/-- PEER_UNREACHABLE: no route is left to an accelerator; every collective that names it has lost it. -/
def peerGone (s : State) (peer : Nat) : State :=
  { s with colls := s.colls.map fun c =>
      match c.peers.find? fun p => c.ranks.getD p.rank 1024 == peer with
      | some p => if c.ending.isNone then { c with ending := some (1, 1, some p.rank) } else c
      | none => c }

/-- TOKEN_BUCKET_FILL: the bucket fills at its rate up to its burst, and chunks that wait for it are staged (R353). (DEDUCED, log entry 60) -/
def fillBucket (s : State) (die slot : Nat) : State :=
  stage <| s.modDie die fun d =>
    match tabFind slot d.cregs with
    | none => d
    | some r =>
      let rate := bits 31 16 r.word.toNat
      let burst := 1024 * max 4 (bits 47 32 r.word.toNat)
      { d with cregs := tabSet slot { r with tokens := min burst (r.tokens + rate * (s.now - r.filled)), filled := s.now } d.cregs }

/-! ### Peer requests (R339) -/

def addUaErr (s : State) : State := { s with ual := { s.ual with uaErr := min (s.ual.uaErr + 1) (2 ^ 32 - 1) } }

/-- Entry of the export table for an offset: base, ASID and rights. -/
def exportEntry (s : State) (off : Nat) : Option (Nat × DWord) :=
  let pa := s.ual.exBase + 16 * (off % 2 ^ 40 / 2 ^ 31)
  if !s.ual.exCtl ∨ s.region pa = .nowhere ∨ (s.poisoned pa 16).isSome then none
  else
    let w1 : DWord := BitVec.ofNat 64 (s.natAt (pa + 8) 8)
    if w1.getLsbD 19 && w1.toNat / 2 ^ 20 == 0 && s.natAt pa 8 % 2 ^ 21 == 0 then some (s.natAt pa 8, w1) else none

/-- The translation and the request to a link that a peer's access makes, and that of its entry's read (R253, R325, R339). -/
def peerAsks (s : State) (off n : Nat) (u : Use) (op : LinkOp) (pa : Nat) : State :=
  let s : State := s.askLink (s.ual.exBase + 16 * (off % 2 ^ 40 / 2 ^ 31)) 16 .read
  match s.exportEntry off with
  | some (base, w1) => (s.cacheWalks 0 (bits 15 0 w1.toNat) u .program [(base + off % 2 ^ 31) % 2 ^ 64]).askLink pa n op
  | none => s

/-- Where a peer's access lands, if its entry allows it. -/
def exported (s : State) (off : Nat) (right : Nat) (u : Use) : Option Nat :=
  match s.exportEntry off with
  | none => none
  | some (base, w1) =>
    if !w1.getLsbD right then none
    else
      match s.translate 0 (bits 15 0 w1.toNat) ((base + off % 2 ^ 31) % 2 ^ 64) u .program with
      | .ok pa => some pa
      | .error _ => none

/-- Is a port there: one of the six of a die in service (R11)? -/
def portLive (s : State) (port : Nat) : Bool := decide (port < 12) && (s.die (port / 6)).live

/-- A peer's request where it lands. -/
def servePeer (s : State) (port : Nat) (r : PeerReq) (pa : Nat) (refuse : State) : State :=
  match r with
  | .read off len =>
    if (s.poisoned pa len).isSome then refuse else (s.peerAsks off len .read .read pa).emit (.completion port (s.bytesAt pa len))
  | .write off data => ((s.peerAsks off data.length .write .write pa).homeWrite pa data none).emit (.completion port [])
  | .atom off op wide v cmp =>
    let n := if wide then 8 else 4
    if op = .fadd ∨ (s.poisoned pa n).isSome then refuse
    else
      let old := s.natAt pa n
      ((s.peerAsks off n .write .atomic pa).homeWrite pa
        (toBytes n (atomNew op (8 * n) old (v.toNat % 2 ^ (8 * n)) (cmp.toNat % 2 ^ (8 * n)))) none).emit (.completion port (toBytes n old))

/-- Offset of a request, and the right and the use that it needs. -/
def peerNeeds : PeerReq → Nat × Nat × Use
  | .read off _ => (off, 16, .read)
  | .write off _ => (off, 17, .write)
  | .atom off .. => (off, 18, .write)

/-- PEER_REQUEST: performed, or answered with a completer error; a port that is not there brings none, and one to a row that is being copied
waits in front of the other inputs (R401). -/
def peerRequest (s : State) (port : Nat) (r : PeerReq) : State :=
  let (off, right, u) := peerNeeds r
  let refuse : State := (s.addUaErr).emit (.completerError port)
  if !s.portLive port then s
  else
    match s.exported off right u with
    | none => refuse
    | some pa => if s.rowHeld pa then { s with inputs := .peerRequest port r :: s.inputs } else s.servePeer port r pa refuse

/-- A port comes up with its lanes, unless its peer reports this part's own id (R338). -/
def portUp (s : State) (port lanes : Nat) (peer : Option Nat) : State :=
  let up := decide (0 < lanes) && peer.isSome && peer != some s.ual.uaid
  let lanes := if 4 ≤ lanes then 4 else if 2 ≤ lanes then 2 else lanes
  if !s.portLive port then s else { s with ual := { s.ual with ports := tabSet port ⟨lanes, up, peer⟩ s.ual.ports } }

/-- A port degrades to x2 and then x1; with no lane left it is down. -/
def laneFailure (s : State) (port lanes : Nat) : State :=
  match tabFind port s.ual.ports with
  | none => s
  | some p =>
    let left := p.lanes - lanes
    let w := if 4 ≤ left then 4 else if 2 ≤ left then 2 else left
    { s with ual := { s.ual with ports := tabSet port { p with lanes := w, up := p.up && decide (0 < w) } s.ual.ports } }

end State

/-! ### Meanings -/

/-- COLL (R341, R345). -/
def execColl (q : Nat) (s : State) : Result := .next (s.startColl q)
/-- SEND (R346). -/
def execCollSend (c : Nat) (s : State) : Result := .next (s.collSend c)
/-- RECV (R346). -/
def execCollRecv (c : Nat) (s : State) : Result := .next (s.collTake c false)
/-- RRS (R346, R348). -/
def execCollRrs (c : Nat) (s : State) : Result := .next (s.collTake c true)
/-- COPY step (R346). -/
def execCollCopy (c : Nat) (s : State) : Result := .next (s.collCopy c)
/-- WAIT step (R346). -/
def execCollWait (c : Nat) (s : State) : Result := .next (s.collWait c)
/-- LOOP step (R346). -/
def execCollLoop (c : Nat) (s : State) : Result := .next (s.collLoop c)
/-- END step (R351). -/
def execCollEnd (c : Nat) (s : State) : Result := .next (s.collEnd c)
/-- COLLECTIVE_CHUNK (R347). -/
def execCollectiveChunk (group : Word) (src seq first total : Nat) (data : List Byte) (s : State) : Result :=
  .next (s.takeChunk group src seq first total data)
/-- COLLECTIVE_CREDIT (R347). -/
def execCollectiveCredit (group : Word) (src seq : Nat) (s : State) : Result := .next (s.takeCredit group src seq)
/-- COLLECTIVE_ABORT (R354): source rank and the sender's reason change nothing in the record of this member. -/
def execCollectiveAbort (group : Word) (_src _reason : Nat) (s : State) : Result := .next (s.takeAbort group)
/-- COLLECTIVE_ACKNOWLEDGEMENT (R346). -/
def execCollectiveAcknowledgement (group : Word) (src seq : Nat) (s : State) : Result := .next (s.takeAck group src seq)
/-- PEER_LOSS_TIMEOUT (R354). -/
def execPeerLossTimeout (c rank : Nat) (s : State) : Result := .next (s.peerLoss c rank)
/-- PEER_UNREACHABLE (R354). -/
def execPeerUnreachable (peer : Nat) (s : State) : Result := .next (s.peerGone peer)
/-- TOKEN_BUCKET_FILL (R353). -/
def execTokenBucketFill (die slot : Nat) (s : State) : Result := .next (s.fillBucket die slot)
/-- PEER_REQUEST (R339). -/
def execPeerRequest (port : Nat) (r : PeerReq) (s : State) : Result := .next (s.peerRequest port r)
/-- UNLISTED_MESSAGE (R340). -/
def execUnlistedMessage (_type : Byte) (s : State) : Result := .next s.addUaErr
/-- UALINK_LANE_FAILURE (R338). -/
def execUalinkLaneFailure (port lanes : Nat) (s : State) : Result := .next (s.laneFailure port lanes)
/-- PORT_TRAINING (R338). -/
def execPortTraining (port lanes : Nat) (peer : Option Nat) (s : State) : Result := .next (s.portUp port lanes peer)

end Sys2Proof.Machine
end

