-- ==== Sys2Proof/Machine/Contexts.lean ====
section
/-! DEFINITION. Context commands (R329, Table 19.6), the fault buffer's consumer side (R327), the memory aperture (R391). -/

namespace Sys2Proof.Machine

namespace State

/-! ### Commands -/

def cmdDw (cmd : List DWord) (i : Nat) : Nat := (cmd.getD i 0).toNat
def cmdAsid (cmd : List DWord) : Nat := bits 31 16 (cmdDw cmd 0)
def cmdCode (cmd : List DWord) : Nat := bits 7 0 (cmdDw cmd 0)

/-- Reserved fields are zero and the ASID names a context; otherwise the command has no effect. -/
def cmdOk (s : State) (cmd : List DWord) : Bool :=
  let c := cmdCode cmd
  bits 15 8 (cmdDw cmd 0) == 0 && bits 63 32 (cmdDw cmd 0) == 0 && decide (1 ≤ c) && decide (c ≤ 6) &&
  (c == 1 || cmdDw cmd 1 == 0) && (decide (c ≤ 3) || cmdDw cmd 2 == 0) && cmdDw cmd 3 == 0 &&
  cmdAsid cmd != 0 && (s.ctx? (cmdAsid cmd)).isSome

/-- Drops the cached translations of [start, start + length), or of the whole ASID, and the instruction words kept from those pages; an
ASID-wide invalidation of every L1 follows, which wakes MWAIT sleepers (R257, R325, R329). (DEDUCED, log entry 67) -/
def invalidate (s : State) (asid start len : Nat) : State :=
  let lo := start % 2 ^ 57 / 65536 * 65536
  let hi := (lo + len + 65535) / 65536 * 65536
  let meets (base size : Nat) : Bool := len == 0 || (decide (base < hi) && decide (lo < base + size))
  let hit (base size : Nat) : Bool := meets base size || meets (base + 2 ^ 57) size
  { s with
    tlb := s.tlb.filter fun e => !(e.asid == asid && hit e.base e.size)
    icache := s.icache.filter fun w => !(w.asid == asid && hit (w.addr % 2 ^ 57 / 65536 * 65536) 65536) }.l1Invalidate asid

/-- Does a token name a parked access? -/
def named (token : Nat) (p : Option Nat) : Bool := match p with | some n => token == 0 || token == n | none => false

/-- A thread access is retried: its pages are translated again, by walks that join those of the die (R326). -/
def retryAcc (s : State) (a : Access) : State := s.modAcc a.id fun y => { y with parked := none, bad := none }

/-- Every parked access of the context that the token names: it is retried (command 2). -/
def replayToken (s : State) (asid token : Nat) : State :=
  let s : State := (s.accs.filter fun a => a.asid == asid && named token a.parked).foldl (fun s a => s.retryAcc a) s
  let s : State := { s with
    engs := s.engs.map fun e => if e.asid = asid ∧ named token e.parked then { e with parked := none } else e
    colls := s.colls.map fun c => if c.asid = asid ∧ named token c.parked then { c with parked := none } else c
    queues := s.queues.map fun (q, x) =>
      if x.asid = asid then
        (q, { x with
          parkedWord := (if named token (x.parkedWord.map (·.1)) then none else x.parkedWord)
          retrying := x.retrying || named token (x.parkedWord.map (·.1))
          started := x.started.map fun p => if named token p.parked then { p with parked := none } else p })
      else (q, x) }
  (s.grids.filter fun g => g.asid == asid && (match g.state with | .parked n => named token (some n) | _ => false)).foldl
    (fun s g => s.startGrid g.id) s

/-- What a replay's token names, as it stands once it is no longer parked. -/
def retriesOf (s : State) (asid token : Nat) : List Retry :=
  ((s.accs.filter fun a => a.asid == asid && named token a.parked).map fun a => .acc a.id) ++
  ((s.engs.filter fun e => e.asid == asid && named token e.parked).map fun e => .eng { e with parked := none }) ++
  ((s.colls.filter fun c => c.asid == asid && named token c.parked).map fun c => .coll { c with parked := none }) ++
  ((s.queues.filter fun p => p.2.asid == asid).map fun (q, x) =>
    (if named token (x.parkedWord.map (·.1)) then [Retry.word q { x with parkedWord := none, retrying := true }] else []) ++
    (x.started.filter fun p => named token p.parked).map fun p => Retry.copy q p.id).flatten

/-- Has it been retried: it has gone on, ended, or parked again? -/
def retried (s : State) : Retry → Bool
  | .eng e => match s.eng? e.id with | some x => x.parked.isSome || x.seen != e.seen || x.moved != e.moved || x.kind != e.kind || x.parts != e.parts | none => true
  | .acc id => match s.acc? id with | some a => a.parked.isSome || a.bad.isSome || (s.accPhys a).isSome | none => true
  | .word q _ => !(s.queue q).retrying
  | .copy q id => (s.queue q).started.all fun p => p.id != id || p.parked.isSome
  | .coll c => match s.coll? c.id with | some x => x.parked.isSome || x.ending.isSome || x.pc != c.pc || x.half != c.half || x.outbox != c.outbox | none => true

/-- Every parked access of the context that the token names takes its fatal-mode outcome (command 3). -/
def cancelToken (s : State) (asid token : Nat) : State :=
  let s : State := (s.accs.filter fun a => a.asid == asid && named token a.parked).foldl
    (fun s a => if (s.acc? a.id).isSome then s.lateFatal a (a.bad.getD 0x06) else s) s
  let s : State := (s.engs.filter fun e => e.asid == asid && named token e.parked).foldl
    (fun s e => s.engOutcome e.id 0x06 0) s
  let s : State := { s with colls := s.colls.map fun c =>
    if c.asid = asid ∧ named token c.parked then { c with parked := none, ending := some (1, 2, none) } else c }
  let s : State := (s.queues.filter fun p => p.2.asid == asid).foldl (fun (s : State) (p : Nat × Queue) =>
    let s : State := (p.2.started.filter fun x => named token x.parked).foldl (fun s x => (s.markFailed asid).completePacket p.1 x.id) s
    match p.2.parkedWord with
    | some (n, cause) => if named token (some n) && (s.queue p.1).parkedWord.isSome then s.queueFault p.1 cause else s
    | none => s) s
  (s.grids.filter fun g => g.asid == asid && (match g.state with | .parked n => named token (some n) | _ => false)).foldl
    (fun s g => (s.modGrid g.id fun g => { g with faulted := true }).retireGridWith g.id 1) s

/-- Command 4: with a free save slot for every resident team the context begins to suspend; otherwise nothing is saved (R332). -/
def beginSuspend (s : State) (asid : Nat) : State :=
  let n := (s.teams.filter fun t => t.asid == asid && t.res == .resident).length
  match s.ctx? asid with
  | some c =>
    if c.suspended || c.terminated || c.terminating || decide ((s.freeSaves asid).length < n) then s
    else s.modCtx asid fun c => { c with suspending := true }
  | none => s

/-- A command's effect; the descriptor is read again, and an unusable one leaves the command without effect (R320). -/
def actCmd (s : State) (cmd : List DWord) : State :=
  let asid := cmdAsid cmd
  if !s.cmdOk cmd then s
  else
    match s.readDescriptor asid with
    | none => s.readCtx asid
    | some d =>
      let s : State := (s.readCtx asid).modCtx asid fun c => { c with desc := d }
      match cmdCode cmd with
      | 1 => s.invalidate asid (cmdDw cmd 1) (cmdDw cmd 2)
      | 2 => s.replayToken asid (cmdDw cmd 2)
      | 3 => s.cancelToken asid (cmdDw cmd 2)
      | 4 => s.beginSuspend asid
      | 5 =>
        match s.ctx? asid with
        | some c => if c.suspended then (s.modCtx asid fun c => { c with suspended := false }).writeStatus asid else s
        | none => s
      | _ => s.terminateContext asid

/-- Has a command that acted reached its completion: a replay, once each access that it named has been retried? -/
def cmdDone (s : State) (c : CxtCmd) : Bool :=
  (match s.ctx? (cmdAsid c.dwords) with
   | some x => (cmdCode c.dwords != 4 || !x.suspending) && (cmdCode c.dwords != 6 || !x.terminating)
   | none => true) && c.retries.all s.retried

/-- The retries that a command will wait for. -/
def cmdRetries (s : State) (cmd : List DWord) : List Retry :=
  if s.cmdOk cmd && cmdCode cmd == 2 && (s.readDescriptor (cmdAsid cmd)).isSome then s.retriesOf (cmdAsid cmd) (cmdDw cmd 2) else []

/-- A suspension is complete once every team is saved and every collective has ended, the job not being frozen (R356, R365). -/
def settleSuspend (s : State) : State :=
  (s.ctxs.filter fun c => c.suspending && s.suspendDone c.asid && !(s.colls.any fun x => x.asid == c.asid) && !s.frozen c.asid).foldl
    (fun s c => (s.modCtx c.asid fun c => { c with suspending := false, suspended := true }).writeStatus c.asid) s

/-- Commands complete in order; suspend and resume also act in order, the others when they are written. -/
def settleCmds : (fuel : Nat) → State → State
  | 0, s => s
  | fuel + 1, s =>
    match s.cmds with
    | [] => s
    | c :: cs =>
      let s : State := if c.acted then s else s.actCmd c.dwords
      let s : State := s.settleSuspend
      if s.cmdDone c then settleCmds fuel { s with cmds := cs, cxDone := s.cxDone + 1 }
      else { s with cmds := { c with acted := true } :: cs }

/-- A context command arrives. (DEDUCED, log entry 51) -/
def contextCmd (s : State) (cmd : List DWord) : State :=
  let now := s.cmds.isEmpty || (cmdCode cmd != 4 && cmdCode cmd != 5)
  let rs := s.cmdRetries cmd
  let s : State := if now then s.actCmd cmd else s
  (settleCmds (s.cmds.length + 2) { s with cmds := s.cmds ++ [⟨cmd, now, rs⟩] }).settle

/-! ### The consumer of a fault buffer (R327) -/

/-- The outcome that waits with an entry. -/
def actOf (s : State) : WaitAct → State
  | .thread team tid c => s.afterR65 team tid c
  | .late a c token => s.lateOutcome a c token
  | .eng e c token => s.engOutcome e c token
  | .word q c token => s.wordOutcome q c token
  | .copy q id _ token => s.copyOutcome q id token
  | .grid g c token => s.gridFault g c token
  | .coll c _ token => s.collOutcome c token
  | .report => s

/-- Writes the entries that wait, oldest first, as room allows; the outcome of each fault follows its entry. -/
def flushWaits : (fuel : Nat) → State → Nat → State
  | 0, s, _ => s
  | fuel + 1, s, d =>
    match s.waits.find? fun w => w.die == d with
    | none => s
    | some w =>
      if !s.fbReady d then s
      else
        flushWaits fuel (((({ s with waits := s.waits.erase w } : State).fbWrite d w.entry)).actOf w.act) d

/-- FBRP written. -/
def writeFbrp (s : State) (d : Nat) (v : DWord) : State :=
  let s : State := s.modDie d fun x => { x with fb := { x.fb with rp := bits 13 0 v.toNat } }
  flushWaits s.waits.length s d

/-! ### The memory aperture (R391, R397) -/

/-- The host has rewritten the descriptor of a terminated context all of whose queues are OFF (R321). -/
def renew (s : State) (pa n : Nat) : State :=
  { s with ctxs := s.ctxs.map fun c =>
      if c.terminated ∧ s.queuesOff c.asid ∧ pa < s.cxtBase + 64 * c.asid + 64 ∧ s.cxtBase + 64 * c.asid < pa + n then { c with renewed := true }
      else c }

/-- A host access through BAR 2: a read of `len` bytes, or a write; none arrives while the link is down (R390), and one to a row that is being
copied waits in front of the other inputs (R401). -/
def hostAccess (s : State) (off : Nat) (data : Option (List Byte)) (len : Nat) : State :=
  let n := match data with | some bs => bs.length | none => len
  let refuse : State := { s with svc := { s.svc with hostErr := min (s.svc.hostErr + 1) (2 ^ 32 - 1) } }.emit .unsupportedRequest
  if n = 0 ∨ 2 ^ s.link.bar2Log2 < off + n ∨ !s.link.up then s
  else if s.svc.recovery then
    if Config.recoveryWindow < off + n then refuse
    else
      match data with
      | some bs =>
        { s with svc := { s.svc with window := (bs.foldl (fun (p : Nat × Tab Byte) b => (p.1 + 1, tabPut 0 p.1 b p.2)) (off, s.svc.window)).2 } }
      | none => s.emit (.hostCompletion ((List.range n).map fun i => tabGet 0 (off + i) s.svc.window))
  else
    let pa := s.svc.apBase + off
    if s.region pa = .nowhere ∨ s.region (pa + n - 1) = .nowhere then refuse
    else if s.rowHeld pa ∨ s.rowHeld (pa + n - 1) then { s with inputs := .hostApertureAccess off data len :: s.inputs }
    else
      match data with
      | some bs => (s.agentWrite pa bs).renew pa n
      | none =>
        ((s.askLink pa n .read).emit (.hostCompletion ((List.range n).map fun i =>
          if s.poison.contains ((pa + i) / 8) then (s.freeVal 22 i).setWidth 8 else s.byteAt (pa + i)))).drawn

end State

/-! ### Meanings -/

/-- INVALIDATE_TRANSLATIONS (R325, R329). -/
def execInvalidateTranslations (cmd : List DWord) (s : State) : Result := .next (if State.cmdCode cmd = 1 then s.inService fun s => s.contextCmd cmd else s)
/-- REPLAY (R329). -/
def execReplay (cmd : List DWord) (s : State) : Result := .next (if State.cmdCode cmd = 2 then s.inService fun s => s.contextCmd cmd else s)
/-- CANCEL (R329). -/
def execCancel (cmd : List DWord) (s : State) : Result := .next (if State.cmdCode cmd = 3 then s.inService fun s => s.contextCmd cmd else s)
/-- SUSPEND (R329, R332). -/
def execSuspend (cmd : List DWord) (s : State) : Result := .next (if State.cmdCode cmd = 4 then s.inService fun s => s.contextCmd cmd else s)
/-- CONTEXT_RESUME (R329). -/
def execContextResume (cmd : List DWord) (s : State) : Result := .next (if State.cmdCode cmd = 5 then s.inService fun s => s.contextCmd cmd else s)
/-- TERMINATE (R330). -/
def execTerminate (cmd : List DWord) (s : State) : Result := .next (if State.cmdCode cmd = 6 then s.inService fun s => s.contextCmd cmd else s)
/-- FBRP (R327). -/
def execFbrp (die : Nat) (v : DWord) (s : State) : Result := .next (s.inService fun s => s.writeFbrp die v)
/-- HOST_APERTURE_ACCESS (R391). -/
def execHostApertureAccess (off : Nat) (data : Option (List Byte)) (len : Nat) (s : State) : Result := .next (s.hostAccess off data len)

end Sys2Proof.Machine
end

