-- ==== Sys2Proof/Machine/Debug.lean ====
section
/-! DEFINITION. Debug commands (R358 to R360, R369 to R372, R376), capabilities, and the messages of the halt wave (R363, R373). -/

namespace Sys2Proof.Machine

namespace State

/-! ### Command pages (R360) -/

/-- A command's result: status and cause, data, and one command more completed. -/
def report (s : State) (slot status cause : Nat) (data : Option DWord) : State :=
  s.modPage slot fun p =>
    { p with res := BitVec.ofNat 64 (status + 256 * cause), data := data.getD p.data, done := p.done + 1, busy := false }

/-- The right that a command needs, and whether it is legal only while the job is frozen (Table 21.2). -/
def cmdRight : Nat → Nat
  | 4 => 1 | 5 => 2 | 6 => 4 | _ => 0
def needsFrozen (code : Nat) : Bool := code == 2 || code == 3 || code == 4 || code == 5

/-- Reserved fields and fields with a stated range (Tables 21.2, 21.4). -/
def debugFieldsOk (cmd : List DWord) : Bool :=
  let w (i : Nat) : Nat := cmdDw cmd i
  let c := w 0
  decide (1 ≤ c) && decide (c ≤ 6) && w 4 == 0 && w 5 == 0 && w 6 == 0 && w 7 == 0 &&
  (match c with
   | 1 => w 2 == 0 && w 3 == 0
   | 2 => bits 31 25 (w 2) == 0 && w 3 == 0
   | 3 => w 2 == 0 && decide (1000 ≤ w 3) && decide (w 3 ≤ 10 ^ 9)
   | 4 => !bit 24 (w 2) && w 3 == 0
   | 5 => !bit 24 (w 2)
   | _ => w 2 == 0 && decide (w 3 < 256))

/-- Why a command is turned away (Table 21.3): handle or slot, right, fields, frozen. -/
def debugStatus (s : State) (slot : Nat) (cmd : List DWord) : Option Nat :=
  let c := s.cap slot
  let code := cmdDw cmd 0 % 256
  if !capValid c || cmd.getD 1 0 != c.handle then some 3
  else if decide (1 ≤ code) && decide (code ≤ 6) && !capRight c (cmdRight code) then some 2
  else if !debugFieldsOk cmd then some 7
  else if needsFrozen code && !s.frozenJob (capJob c) then some 1
  else none

/-- Runs a command that is not turned away; a page with a command in hand answers busy. (DEDUCED, log entry 50) -/
def debugCmd (s : State) (slot : Nat) (cmd : List DWord) (go : State → CapSlot → State) : State :=
  if (s.page slot).busy then s.modPage slot fun p => { p with res := 8 }
  else
    match s.debugStatus slot cmd with
    | some st => s.report slot st 0 none
    | none => go s (s.cap slot)

/-! ### Stopping and resuming threads (R217, R372) -/

/-- A stopped thread runs again from its resume index; after a BPT or a breakpoint its window is reloaded from its frame as RETT reloads it
(R64, R217). From a frame that can no longer be read nothing is reloaded, and the thread goes on with the window it has (DESIGN CHOICE, log
entry 76). -/
def unstop (s : State) (t : Team) (x : Thread) : State :=
  match x.run with
  | .stopped reload =>
    let s : State :=
      if !reload then s.modThread t.id x.tid fun x => { x with run := .active, stamp := none }
      else
        match s.privRead t x.tid x.sfault.toNat 192 with
        | .ok fr => (s.askPriv t x.tid x.sfault.toNat 192).modThread t.id x.tid fun x =>
            let w := reloadSlots x fr x.clause x.idx x.words
            s.scramble [] (s.showFlips { (reloadRegs x.words x.idx w x) with
              window := w
              run := .active
              stamp := none })
        | .error _ => s.modThread t.id x.tid fun x => { x with run := .active, stamp := none }
    if t.res = .resident then s.reenter t.id x.tid else s
  | _ => s

def unstopTeam (s : State) (t : Team) : State := t.threads.foldl (fun s x => s.unstop t x) s

/-- A job resumes: at R0 its engines and front ends, and the cause block is clear (R367, R372). -/
def engines (s : State) (job : Word) : State :=
  if s.dbg.frozen.any fun f => f.job == job && f.engines && (match f.resumeAt with | some a => decide (a ≤ s.now) | none => false) then
    let s : State := { s with dbg :=
      { s.dbg with
        frozen := s.dbg.frozen.map fun f => if f.job = job then { f with engines := false } else f
        causes := [], causeOvf := 0 } }
    (s.dbg.caps.filterMap fun (n, c) => if capValid c && capRight c 4 && capJob c == job then some n else none).foldl
      (fun s n => s.traceOn n (toBytes 8 s.refTime ++ [11] ++ toBytes 1 0 ++ toBytes 2 (3 * 2048) ++ toBytes 20 0)) s
  else s

/-- At R0 + 250 ns its cores issue again; ready threads keep the relative order of their stamps. Threads of a saved team are no longer stopped either:
they enter their clauses again once it is restored. -/
def cores (s : State) (job : Word) : State :=
  match s.dbg.frozen.find? fun f => f.job == job && !f.engines with
  | some f =>
    match f.resumeAt with
    | some a =>
      if s.now < a + 250 then s
      else
        let s : State := { s with dbg := { s.dbg with frozen := s.dbg.frozen.filter fun g => g.job != job } }
        let mine := s.teams.filter fun t => f.asids.contains t.asid && t.res != .retired
        let s : State := mine.foldl (fun s t => s.unstopTeam t) s
        { s with teams := s.teams.map fun t =>
            if f.asids.contains t.asid ∧ t.res = .resident then
              let all := ((s.teams.filter fun u => f.asids.contains u.asid && u.core == t.core && u.res == .resident).map stampsOf).flatten
              { t with threads := t.threads.map (rebase all (s.cycles t.core)) }
            else t }
    | none => s
  | none => s

/-- The resume of a job arrives: R0 is Δ away. -/
def resumeIn (s : State) (job : Word) (delta : Nat) : State :=
  { s with dbg := { s.dbg with frozen := s.dbg.frozen.map fun f =>
      if f.job = job ∧ f.resumeAt = none then { f with resumeAt := some (s.now + delta) } else f } }

def sendResume (s : State) (job : Word) (slot : Option CapSlot) (delta : Nat) : State :=
  s.sendPeers slot fun p => .sloeResume p (toBytes 4 job.toNat ++ toBytes 2 s.ual.uaid ++ toBytes 8 s.refTime ++ toBytes 4 delta)

/-! ### HALT, RESUME, TRIGGER -/

/-- The waves of the origins that a job's contexts have met so far. -/
def startJob (s : State) (job : Word) : State :=
  let mine (r : Reached) : Bool := (s.jobAsids job).contains r.asid
  (s.dbg.reached.filter mine).foldl takeOrigin { s with dbg := { s.dbg with reached := s.dbg.reached.filter fun r => !mine r } }

/-- HALT: an origin like any other, its t0 the write of the command; on a job already frozen, or freezing under an earlier origin, it starts no
wave (R360, R361, R363). -/
def haltCmd (s : State) (slot : Nat) (cmd : List DWord) : State :=
  s.debugCmd slot cmd fun s c =>
    ((s.startJob (capJob c)).waveOf (capJob c) ⟨none, 0, none, 0, 1, 0, 0, false⟩ s.now).report slot 0 0 none

def resumeCmd (s : State) (slot : Nat) (cmd : List DWord) : State :=
  s.debugCmd slot cmd fun s c =>
    let job := capJob c
    ((s.sendResume job (s.jobSlot job) (cmdDw cmd 3)).resumeIn job (cmdDw cmd 3)).report slot 0 0 none

/-- TRIGGER (R376): the record of kind 9 here, and a trigger message to the peers of the slot it came through. -/
def triggerCmd (s : State) (slot : Nat) (cmd : List DWord) : State :=
  s.debugCmd slot cmd fun s c =>
    let job := capJob c
    let s : State := s.traceTrigger job 9 s.refTime
    (s.sendPeers (some c) fun p =>
      .triggerMsg p (toBytes 4 job.toNat ++ toBytes 2 s.ual.uaid ++ toBytes 1 (cmdDw cmd 3) ++ toBytes 8 s.refTime)).report slot 0 0 none

/-! ### Targets (Table 21.4) -/

structure Target where
  kind : Nat
  index : Nat
  single : Bool
  lane : Nat
  crew : Nat
  slot : Nat
  core : Nat
deriving DecidableEq, Repr

def targetOf (w : Nat) : Target := ⟨bits 31 25 w, bits 63 32 w, bit 24 w, bits 23 19 w, bits 18 14 w, bits 13 11 w, bits 10 0 w⟩

def targetTeam (s : State) (asid : Nat) (g : Target) : Option Team :=
  s.teams.find? fun t => t.res == .resident && t.asid == asid && t.core == g.core && t.slot == g.slot

def targetThread (t : Team) (g : Target) : Option Thread := t.threads.find? fun x => x.crew == g.crew && x.lane == g.lane

/-- A pending destination reads as the old value or as the one its load would return (R55): the load may return first. -/
def settlePending (s : State) (team tid : Nat) (code : Nat) : State :=
  match s.thread? team tid with
  | none => s
  | some x =>
    match x.pend.find? fun p => p.code == code && !p.written with
    | some p => if s.freeBit 23 code then s.drawn.loadReturn p.acc else s.drawn
    | none => s

/-- What READ answers; none for an invalid target (status 7). A tile is undefined while an operation on it is pending, and then read as it
stands, covered or not (R379). -/
def readTarget (s : State) (asid : Nat) (g : Target) : State × Option DWord :=
  match s.targetTeam asid g with
  | none => (s, none)
  | some t =>
    let word (w : Option Word) : Option DWord := w.map fun w => w.setWidth 64
    match g.kind with
    | 0 =>
      match targetThread t g with
      | none => (s, none)
      | some x =>
        if 192 ≤ g.index ∨ !holds (t.crewOf x) (BitVec.ofNat 8 g.index) then (s, none)
        else
          let s : State := s.settlePending t.id x.tid g.index
          match s.team? t.id, s.thread? t.id x.tid with
          | some t, some x => (s, some ((readReg x (t.crewOf x) (BitVec.ofNat 8 g.index)).setWidth 64))
          | _, _ => (s, none)
    | 1 => (s, if 63 ≤ g.index then none else word ((t.crew? g.crew).map fun c => tabGet 0#32 g.index c.kregs))
    | 2 => (s, (targetThread t g).map fun x => x.preds.setWidth 64)
    | 3 =>
      (s, match g.index with
        | 0 => (targetThread t g).map fun x => BitVec.ofNat 64 x.clause
        | 1 => (targetThread t g).map fun x => BitVec.ofNat 64 (x.idx % 16 + 65536 * x.callDepth.toNat)
        | 2 => some (BitVec.ofNat 64 t.privBase)
        | 3 => some (BitVec.ofNat 64 t.spillBase)
        | _ => none)
    | 4 =>
      (s, match targetThread t g, decodeSReg g.index with
        | some x, some r => some (s.sregValue t x r)
        | _, _ => none)
    | 5 =>
      (s, match t.tiles[g.index / 4096]? with
        | some z =>
          some ((if s.tilePending z then s.freeVal 24 g.index else z.get (g.index / 64 % 64) (g.index % 64)).setWidth 64)
        | none => none)
    | 6 =>
      (s, match t.tiles[g.index / 4]? with
        | some z => some ((if s.tilePending z then s.freeVal 24 g.index else z.record.getD (g.index % 4) 0).setWidth 64)
        | none => none)
    | 7 => (s, (targetThread t g).map fun x => BitVec.ofNat 64 (x.ld % 64 + 256 * (x.st % 64) + 65536 * (t.cp % 64) + 2 ^ 24 * (t.tl % 64)))
    | _ => (s, none)

/-- READ. -/
def readCmd (s : State) (slot : Nat) (cmd : List DWord) : State :=
  s.debugCmd slot cmd fun s c =>
    let (s, v) := s.readTarget (capAsid c) (targetOf (cmdDw cmd 2))
    match v with
    | some v => (s.report slot 0 0 (some v)).drawn
    | none => s.report slot 7 0 none

/-- What WRITE does; none for an invalid target. -/
def writeTarget (s : State) (asid : Nat) (g : Target) (v : DWord) : Option State :=
  match s.targetTeam asid g with
  | none => none
  | some t =>
    match g.kind with
    | 0 =>
      match targetThread t g with
      | some x =>
        if 192 ≤ g.index ∨ !holds (t.crewOf x) (BitVec.ofNat 8 g.index) then none
        else some (s.writeRegs t.id x.tid false x.idx [(BitVec.ofNat 8 g.index, loWord v)])
      | none => none
    | 1 =>
      if 63 ≤ g.index then none
      else (t.crew? g.crew).map fun _ => s.modTeam t.id fun t => t.modCrew g.crew fun c => { c with kregs := tabPut 0#32 g.index (loWord v) c.kregs }
    | 2 => (targetThread t g).map fun x => s.modThread t.id x.tid fun x => { x with preds := v.setWidth 7 }
    | 5 =>
      if g.index / 4096 < t.tiles.length then
        some (s.modTile t.id (g.index / 4096) fun z => z.put (g.index / 64 % 64) (g.index % 64) (loWord v))
      else none
    | 6 =>
      if g.index / 4 < t.tiles.length then
        some (s.modTile t.id (g.index / 4) fun z => { z with record := listSet (g.index % 4) (loWord v) z.record })
      else none
    | _ => none

/-- WRITE. -/
def writeCmd (s : State) (slot : Nat) (cmd : List DWord) : State :=
  s.debugCmd slot cmd fun s c =>
    match s.writeTarget (capAsid c) (targetOf (cmdDw cmd 2)) (cmd.getD 3 0) with
    | some s => s.report slot 0 0 none
    | none => s.report slot 7 0 none

/-! ### STEP (R369 to R371) -/

/-- Threads that stand for a debugger have left the cycle of their last selection. -/
def rested (s : State) (team : Nat) (p : Thread → Bool) : State :=
  s.modTeam team fun t => { t with threads := t.threads.map fun x => if p x then { x with issued := none } else x }

/-- A STEP that may run: the group of the crew runs the rest of its clause; the report follows it. -/
def runStep (s : State) (slot : Nat) (cmd : List DWord) : State :=
  let c := s.cap slot
  let g := targetOf (cmdDw cmd 2)
  match s.targetTeam (capAsid c) g with
  | none => s.report slot 7 0 none
  | some t =>
    if (t.crew? g.crew).isNone ∨ (g.single ∧ (targetThread t g).isNone) then s.report slot 7 0 none
    else
      let mine (x : Thread) : Bool := x.crew == g.crew && (!g.single || x.lane == g.lane)
      let awake : State := (((t.threads.filter mine).foldl (fun s x => s.unstop t x) s).rested t.id mine).restamp
      match awake.team? t.id with
      | none => s.report slot 7 0 none
      | some u =>
        let bound := g.single && (match targetThread u g with
          | some x => x.run == .active && awake.crewBound u x (clauseBody x)
          | none => false)
        if bound then s.report slot 6 0 none
        else
          match topRanked (awake.candidates true g.core fun v x => v.id == t.id && mine x) with
          | [] => s.report slot 4 0 none
          | k :: _ =>
            match u.thread? k.tid with
            | none => s.report slot 4 0 none
            | some x =>
              let group := awake.groupOf true u x mine
              let tids := group.map (·.tid)
              -- only the group's threads leave their stop
              let s : State := (((t.threads.filter fun y => tids.contains y.tid).foldl (fun s y => s.unstop t y) s).rested t.id fun y => tids.contains y.tid).restamp
              let s : State := s.modPage slot fun p => { p with busy := true }
              let s : State := { s with dbg := { s.dbg with steps := s.dbg.steps ++ [⟨slot, t.id, tids, s.nextId, false, [], 0, 0⟩] } }
              match s.team? t.id with
              | some t => s.fillSlot t x group (some slot)
              | none => s

/-- Does a STEP wait: for the clause in the issue slot, or for the core's clock, which stands in a relock (R310)? -/
def stepHeld (s : State) (slot : Nat) (cmd : List DWord) : Bool :=
  s.issue.isSome || (match s.targetTeam (capAsid (s.cap slot)) (targetOf (cmdDw cmd 2)) with | some t => s.clockStopped t.core | none => false)

/-- STEP: one that must wait keeps its page busy (R360); it has been accepted, and a revocation does not turn it away. -/
def stepCmd (s : State) (slot : Nat) (cmd : List DWord) : State :=
  s.debugCmd slot cmd fun s _ =>
    if s.stepHeld slot cmd then s.modPage slot fun p => { p with busy := true, held := some cmd } else s.runStep slot cmd

/-- A stepped clause has left the issue slot: the operations it issued, and the earlier ones of the team ahead of them in the same
engine, run to completion while the job stands; those that a drain waiting for its ticket holds back do so once its ticket comes (R208,
R370). -/
def leaveStep (s : State) (slot : Nat) : State :=
  match s.dbg.steps.find? fun w => w.slot == slot with
  | none => s
  | some w =>
    let new (k : Nat) : Bool := s.engs.any fun e => e.team == w.team && decide (w.first ≤ e.id) && engKind e == k
    let es := s.engs.filter fun e => e.team == w.team && new (engKind e) && e.parked.isNone
    let ops := es.map (·.id)
    let s : State := (es.filter fun e => !s.heldBack e).foldl (fun s e => s.beginOp e.id) s
    { s with dbg := { s.dbg with steps := s.dbg.steps.map fun y => if y.slot = slot then { y with left := true, ops := ops } else y } }

/-- Does the record of a fault of a step's threads wait for room in a fault buffer (R327)? Its cause is the step's (R371). -/
def stepFaultWaits (s : State) (w : StepWait) : Bool :=
  s.faultWaits fun a => match a with
    | .thread tm tid _ => tm == w.team && w.tids.contains tid
    | .late i _ _ => (s.acc? i).any fun a => w.tids.any fun tid => a.ofThread w.team tid
    | _ => false

/-- STEP_REPORT: a command that waited runs now, if its job is still frozen; one whose clause and operations are done is answered. -/
def stepReport (s : State) (slot : Nat) : State :=
  match (s.page slot).held with
  | some cmd =>
    if s.stepHeld slot cmd then s
    else
      let s : State := s.modPage slot fun p => { p with held := none }
      if s.frozenJob (capJob (s.cap slot)) then s.runStep slot cmd else s.report slot 1 0 none
  | none =>
  match s.dbg.steps.find? fun w => w.slot == slot with
  | none => s
  | some w =>
    if !w.left || w.ops.any (fun i => s.engs.any fun e => e.id == i && e.parked.isNone && !s.heldBack e) || s.stepFaultWaits w then s
    else
      ({ s with dbg := { s.dbg with steps := s.dbg.steps.filter fun y => y.slot != slot } }).report slot w.status w.cause none

/-! ### Capabilities (R359) -/

/-- Slots that descend from a slot. -/
def descends (s : State) (root : Nat) : (fuel n : Nat) → Bool
  | 0, _ => false
  | fuel + 1, n =>
    n == root || ((s.cap n).word8.getLsbD 7 && descends s root fuel (bits 15 8 (s.cap n).word8.toNat))

/-- CAPABILITY_REVOKE: the valid bits of a slot and its descendants are cleared; a frozen job without a slot left resumes. -/
def revoke (s : State) (slot : Nat) : State :=
  let jobs := (s.dbg.frozen.map (·.job)).map fun j => (j, s.jobSlot j)
  let caps := s.dbg.caps.map fun (n, c) =>
    if s.descends slot 257 n then (n, { c with word8 := c.word8 &&& ~~~0x40#64 }) else (n, c)
  let s : State := { s with dbg := { s.dbg with caps := caps } }
  jobs.foldl (fun s (j, slot) =>
    if (s.jobAsids j).isEmpty then (s.sendResume j slot 2000).resumeIn j 2000 else s) s

/-! ### Messages (R363, R373, R376) -/

def holdsJob (s : State) (job : Word) : Bool := !(s.jobAsids job).isEmpty

/-- A Sloe halt: the job freezes, if this device holds it; the origin is recorded either way (R363). -/
def sloeHalt (s : State) (job seq : Word) (cause : List Byte) (ref : DWord) : State :=
  if !s.holdsJob job then s
  else
    let s : State := s.addCause (toBytes 4 seq.toNat ++ cause.take 12 ++ toBytes 8 ref.toNat)
    if s.frozenJob job then s else (s.freezeJob job).traceTrigger job 10 ref.toNat

def sloeResume (s : State) (job : Word) (delta : Word) : State := s.resumeIn job delta.toNat

def sloeCause (s : State) (job : Word) (entry : List Byte) : State := if s.holdsJob job then s.addCause (entry.take 24) else s

/-- TRACE_WINDOW_END: a ring in window mode stops at arrival + post. -/
def windowEnd (s : State) (slot : Nat) : State :=
  match (s.page slot).trEnd with
  | some e => if e ≤ s.now then s.modPage slot fun p => { p with trStopped := true, trEnd := none } else s
  | none => s

end State

/-! ### Meanings -/

/-- HALT (R360, R361). -/
def execHalt (slot : Nat) (cmd : List DWord) (s : State) : Result := .next (if State.cmdDw cmd 0 = 1 then s.inService fun s => s.haltCmd slot cmd else s)
/-- STEP (R369). -/
def execStepCmd (slot : Nat) (cmd : List DWord) (s : State) : Result := .next (if State.cmdDw cmd 0 = 2 then s.inService fun s => s.stepCmd slot cmd else s)
/-- STEP_REPORT (R370). -/
def execStepReport (slot : Nat) (s : State) : Result := .next (s.stepReport slot)
/-- RESUME (R372). -/
def execResume (slot : Nat) (cmd : List DWord) (s : State) : Result := .next (if State.cmdDw cmd 0 = 3 then s.inService fun s => s.resumeCmd slot cmd else s)
/-- RESUME_ENGINES (R372). -/
def execResumeEngines (job : Word) (s : State) : Result := .next (s.engines job).settle
/-- RESUME_CORES (R372). -/
def execResumeCores (job : Word) (s : State) : Result := .next (s.cores job)
/-- READ (R360). -/
def execReadCmd (slot : Nat) (cmd : List DWord) (s : State) : Result := .next (if State.cmdDw cmd 0 = 4 then s.inService fun s => s.readCmd slot cmd else s)
/-- WRITE (R360). -/
def execWriteCmd (slot : Nat) (cmd : List DWord) (s : State) : Result := .next (if State.cmdDw cmd 0 = 5 then s.inService fun s => s.writeCmd slot cmd else s)
/-- TRIGGER (R376). -/
def execTrigger (slot : Nat) (cmd : List DWord) (s : State) : Result := .next (if State.cmdDw cmd 0 = 6 then s.inService fun s => s.triggerCmd slot cmd else s)
/-- CAPABILITY_REVOKE (R359). -/
def execCapabilityRevoke (slot : Nat) (s : State) : Result := .next (s.inService fun s => s.revoke slot)
/-- SLOE_HALT (R363). -/
def execSloeHalt (job : Word) (_origin : Nat) (seq : Word) (cause : List Byte) (ref : DWord) (s : State) : Result :=
  .next (s.sloeHalt job seq cause ref)
/-- SLOE_RESUME (R372). -/
def execSloeResume (job : Word) (_origin : Nat) (_sent : DWord) (delta : Word) (s : State) : Result := .next (s.sloeResume job delta)
/-- SLOE_CAUSE_REPORT (R363, R367). -/
def execSloeCauseReport (job : Word) (entry : List Byte) (s : State) : Result := .next (s.sloeCause job entry)
/-- TRIGGER_MESSAGE (R376). -/
def execTriggerMessage (job : Word) (_origin _number : Nat) (ref : DWord) (s : State) : Result := .next (s.traceTrigger job 9 ref.toNat)
/-- TRACE_WINDOW_END (R374). -/
def execTraceWindowEnd (slot : Nat) (s : State) : Result := .next (s.windowEnd slot)

end Sys2Proof.Machine
end

