-- ==== Sys2Proof/Machine/Service.lean ====
section
/-! DEFINITION. Clocks (R310, R334, R335), management ownership (R393 to R395), resets and firmware (R396 to R398), errors and repair
(R400, R401), margins (R402), power (R403), loss of a die (R316), SPDM, the PCI Express link and board test (R390, R399, R404). -/

namespace Sys2Proof.Machine

/-- Nanoseconds of an hour. -/
def hourNs : Nat := 3600000000000

/-- Owner code of a master (Table 24.2). -/
def ownerCode : Master → Nat
  | .host => 1
  | .bmc => 2

namespace State

def modSvc (s : State) (f : Service → Service) : State := { s with svc := f s.svc }

/-! ### The service log (R400, Table 24.5) -/

/-- Writes a log entry and raises SVCVEC if enabled. -/
def logEvent (s : State) (kind cls die inst detail value : Nat) : State :=
  let e := toBytes 8 s.refTime ++ toBytes 1 kind ++ toBytes 1 cls ++ toBytes 2 (die * 2 ^ 15 + inst % 2 ^ 11) ++ toBytes 4 detail ++
    toBytes 8 value ++ toBytes 8 0
  let s : State := s.modSvc fun v => { v with log := tabSet (v.slwp.toNat % 256) e v.log, slwp := v.slwp + 1 }
  s.raiseIf (s.svc.svcVec.getLsbD 11) (bits 10 0 s.svc.svcVec.toNat)

/-! ### Clocks (R310, R335) -/

/-- OPERATING_POINT_CHANGE: another point is asked for, and no change of the die is in progress. -/
def pointChange (s : State) (d : Nat) : State :=
  if (s.die d).relock = .none ∧ s.wantedPoint d ≠ (s.die d).hint ∧ (s.die d).live ∧ !s.svc.shutdown then
    s.modDie d fun x => { x with relock := .due (s.wantedPoint d) }
  else s

/-- CLOCK_STOP: the core clock stops for relock; there is none without core power (R403). -/
def clockStop (s : State) (d : Nat) : State :=
  if s.svc.shutdown then s
  else
  match (s.die d).relock with
  | .due h => s.modDie d fun x => { x with relock := .stopped h s.now }
  | _ => s

/-- RELOCK_DONE: the first edge after the stop; `s.ncyc` gains 3 for each tick between the edges (R335). -/
def relockDone (s : State) (d : Nat) : State :=
  if s.svc.shutdown then s
  else
  match (s.die d).relock with
  | .stopped h since =>
    s.modDie d fun x =>
      { x with relock := .settling h, hint := h, cyc := x.cyc + 1, ncyc := x.ncyc + 3 * (s.now - since) * 2 ^ 16, frac := 0 }
  | _ => s

/-- OPERATING_POINT_STABLE. -/
def pointSettled (s : State) (d : Nat) : State :=
  if s.svc.shutdown then s
  else
  match (s.die d).relock with
  | .settling _ => s.modDie d fun x => { x with relock := .none }
  | _ => s

/-- Are the readings over a limit: power over PWRCAP, a junction or an HBM stack above its throttle point (R403, Table 24.7)? -/
def overLimit (s : State) (watts tempJ tempHbm : Nat) : Bool :=
  decide (s.svc.pwrCap < watts) || decide ((Config.junctionThrottle : Int) < sextNat 16 tempJ) || decide ((Config.hbmThrottle : Int) < sextNat 16 tempHbm)

/-- The point that a die is held to after some readings: over a limit a lower one than it ran at, down to `point`; within the limits `point`,
which never lowers it further (R13, R403; which point: DESIGN CHOICE, log entry 77). -/
def throttlePoint (s : State) (d point watts tempJ tempHbm : Nat) : Nat :=
  let x := s.die d
  if s.overLimit watts tempJ tempHbm then max (point % 8) (min 7 (max x.hint x.throttle + 1)) else min (point % 8) x.throttle

/-- THROTTLE: the readings of Table 24.3, and the point that they hold a die to. -/
def throttleTo (s : State) (d point watts tempJ tempHbm : Nat) : State :=
  let p := s.throttlePoint d point watts tempJ tempHbm
  let s : State := s.modSvc fun v => { v with pwrNow := watts, tempJ := tempJ, tempHbm := tempHbm }
  if (s.die d).throttle = p then s
  else
    (s.modDie d fun x =>
      { x with throttle := p, byPower := if x.throttle < p then decide (s.svc.pwrCap < watts) else x.byPower && p != 0 }).logEvent 10 0xFF d 0 0 tempJ

/-- Critical junction temperature, in 1/16 °C (Table 24.7). -/
def criticalTemp : Nat := 115 * 16

/-- CRITICAL_SHUTDOWN: every context is terminated and core power goes until a fundamental reset (R403). -/
def shutdown (s : State) (temp : Nat) : State :=
  if sextNat 16 temp < (criticalTemp : Int) ∨ s.svc.shutdown then s
  else
    let s : State := s.modSvc fun v => { v with tempJ := temp, shutdown := true }
    let s : State := (s.ctxs.map (·.asid)).foldl (fun s a => s.terminateContext a) s
    s.logEvent 11 0xFF 0 0 0 temp

/-! ### Margins (R402) -/

/-- One sample and what follows: each further result is that of the sample repeated; results not given met the guard. -/
def replan (s : State) (d : Nat) : List Bool → State
  | [] => s
  | true :: _ => s
  | false :: rest =>
    let x := s.die d
    if x.voffset < 10 then
      replan ((s.modDie d fun x => { x with voffset := x.voffset + 1 }).logEvent 7 0xFF d 0 0 (5 * (x.voffset + 1))) d rest
    else if x.removed < 7 then (s.modDie d fun x => { x with removed := x.removed + 1 }).logEvent 8 0xFF d 0 0 (x.removed + 1)
    else if x.fenceMark then s
    else (s.modDie d fun x => { x with fenceMark := true }).logEvent 5 0xFF d 0 0 0

def sample (s : State) (d : Nat) (ok : List Bool) : State :=
  (s.modDie d fun x => { x with lastSample := s.now, idle := 0 }).replan d ok

/-- AGEING_SAMPLE: the die has been idle for 1 s. -/
def ageingSample (s : State) (d : Nat) (ok : List Bool) : State :=
  if (s.die d).live ∧ !s.svc.shutdown ∧ 1000000000 ≤ (s.die d).idle then s.sample d ok else s

/-- Does a group of 64 cores of a die hold no team? -/
def groupIdle (s : State) (d g : Nat) : Bool := !(s.teams.any fun t => t.res == .resident && t.core / 64 == 16 * d + g)

/-- FORCED_AGEING_SAMPLE: no sample for 7 days. Placement is held on each group of 64 cores in turn until the group is idle, and the sample is
taken with the last. (DEDUCED, log entry 52) -/
def forcedSample (s : State) (d : Nat) (ok : List Bool) : State :=
  if !(s.die d).live || s.svc.shutdown then s
  else
    match (s.die d).forcing with
    | none => if 168 * hourNs ≤ s.now - (s.die d).lastSample then s.modDie d fun x => { x with forcing := some 0 } else s
    | some g =>
      if !s.groupIdle d g then s
      else if g < 15 then s.modDie d fun x => { x with forcing := some (g + 1) }
      else (s.modDie d fun x => { x with forcing := none }).sample d ok

/-! ### Errors and repair (R400, R401, Table 24.4) -/

/-- Threshold and window, in hours, of a class. -/
def sethrOf (s : State) (k : Nat) : Nat × Nat := tabGet (3, 24) k s.svc.sethr

/-- A core is written to flash as one to remap at the next reset. -/
def markRemap (s : State) (e : ErrInst) : State :=
  (s.modSvc fun v => { v with remaps := if v.remaps.contains e.unit then v.remaps else v.remaps ++ [e.unit] }).logEvent 5 e.cls e.die e.unit
    e.detail 0

/-- HBM rows of a stack already taken to a spare or on the way. -/
def rowsUsed (s : State) (e : ErrInst) : Nat :=
  (s.svc.errs.filter fun r => r.inst.cls == 0 && r.inst.die == e.die && r.inst.unit == e.unit && r.lasting).length

/-- The repair of an instance that has become lasting. (DESIGN CHOICE, log entry 65) -/
def repair (s : State) (e : ErrInst) : State :=
  match e.cls with
  | 0 =>
    if s.rowsUsed e ≤ Config.spareRows e.die e.unit then s.modSvc fun v => { v with rowCopies := v.rowCopies ++ [e] }
    else s.logEvent 6 0 e.die e.unit e.detail 0
  | 1 => s.logEvent 4 1 e.die e.unit e.detail 0
  | 2 =>
    if s.svc.spareBanks.contains e.unit || s.svc.bankWaits.any (fun b => b.unit == e.unit) then s.markRemap e
    else s.modSvc fun v => { v with bankWaits := v.bankWaits ++ [e] }
  | 5 => (s.modSvc fun v => { v with fenced := if v.fenced.contains e.die then v.fenced else v.fenced ++ [e.die] }).logEvent 5 5 e.die e.unit e.detail 0
  | _ => s.markRemap e

/-- Do two errors lie in one instance: one HBM row, L2 slice, scratchpad bank, core's register file and accumulators, core's L1 and instruction
cache, or die-level structure (R400)? -/
def sameInst (a b : ErrInst) : Bool :=
  a.cls == b.cls && a.die == b.die && a.unit == b.unit && (a.cls == 1 || a.cls == 3 || a.cls == 4 || a.detail == b.detail)

/-- The record of an instance. -/
def errRec (s : State) (e : ErrInst) : ErrRec := (s.svc.errs.find? fun r => sameInst r.inst e).getD ⟨e, [], false, false⟩
def setErr (s : State) (r : ErrRec) : State := s.modSvc fun v => { v with errs := v.errs.filter (fun x => !sameInst x.inst r.inst) ++ [r] }

/-- The instance becomes lasting: the decision is logged and its repair begins. -/
def makeLasting (s : State) (e : ErrInst) : State :=
  if (s.errRec e).lasting then s
  else ((s.setErr { s.errRec e with lasting := true }).logEvent 3 e.cls e.die e.unit e.detail (s.errRec e).times.length).repair e

/-- CORRECTED_ERROR (R400): errors older than the window no longer count. -/
def correctedError (s : State) (e : ErrInst) : State :=
  let (threshold, window) := s.sethrOf e.cls
  let times := ((s.errRec e).times.filter fun t => decide (s.now ≤ t + window * hourNs)) ++ [s.now]
  let s : State := (s.setErr { s.errRec e with times := times }).logEvent 1 e.cls e.die e.unit e.detail times.length
  if threshold ≤ times.length then s.makeLasting e else s

/-- The units that an uncorrectable error leaves in error: physical 8-byte units of the stack it names (class 0) or of lines of the slice it
names (1), where 2^60 + 2^14 × grid + unit is one of the dispatcher's copy of a parameter area; units of a share as 65536 × team slot + unit
(2), registers as 2^18 × team slot + 256 × `s.tid` + code (3), physical units of a core's L1 (4), where a sector of a parameter area has the
numbers of `paramPhys`. (DEDUCED, log entry 54) -/
def strike (s : State) (e : ErrInst) (units : List Nat) : State :=
  let onSlot (size : Nat) (t : Team) : List Nat :=
    if t.core = e.unit ∧ t.res = .resident then (units.filter fun u => u / size == t.slot).map fun u => u % size else []
  match e.cls with
  | 0 => { s with poison := s.poison ++ units.filter fun u => !s.poison.contains u && regionOf (8 * u) == .hbm e.die && stackOf (8 * u) == e.unit }
  | 1 =>
    { s with
      sliceErrs := s.sliceErrs ++ units.filter fun u => decide (u < 2 ^ 60) && !s.sliceErrs.contains u && s.sliceOf (u / 16) == 256 * e.die + e.unit
      poison := s.poison ++ units.filter fun u => decide (u < 2 ^ 60) && !s.poison.contains u && s.sliceOf (u / 16) == 256 * e.die + e.unit
      grids := s.grids.map fun g =>
        { g with paramErrs := g.paramErrs ++ (units.filter fun u => decide (2 ^ 60 ≤ u) && (u - 2 ^ 60) / 2 ^ 14 == g.id).map fun u => (u - 2 ^ 60) % 2 ^ 14 } }
  | 2 => { s with teams := s.teams.map fun t => { t with scratchPoison := t.scratchPoison ++ onSlot 65536 t } }
  | 3 => { s with teams := s.teams.map fun t => { t with regErrs := t.regErrs ++ onSlot (2 ^ 18) t } }
  | 4 => { s with l1 := s.l1.map fun x =>
      if x.core = e.unit then { x with bad := x.bad ++ (units.filter fun u => x.phys / 32 == u / 4).map fun u => u % 4 } else x }
  | _ => s

/-- UNCORRECTABLE_ERROR: the units are in error, and one such error makes the instance lasting. -/
def uncorrectable (s : State) (e : ErrInst) (units : List Nat) : State :=
  ((s.strike e units).logEvent 2 e.cls e.die e.unit e.detail 0).makeLasting e

/-- SCRATCHPAD_BANK_SPARE: the core holds no team and swaps the bank (R401). -/
def bankSpare (s : State) (core : Nat) : State :=
  match s.svc.bankWaits.find? fun b => b.unit == core with
  | none => s
  | some b =>
    if s.teams.any fun t => t.core == core && t.res == .resident then s
    else
      -- the spare takes the place of the bank that waited, and its errors count anew
      let s : State := s.setErr { s.errRec b with times := [], lasting := false, repaired := true }
      (s.modSvc fun v => { v with bankWaits := v.bankWaits.erase b, spareBanks := v.spareBanks ++ [core] }).logEvent 4 2 b.die core b.detail 0

/-- ROW_SPARING: the copy of the row completes; error states and contents stay as they were (R401). -/
def rowSparing (s : State) (d row : Nat) : State :=
  match s.svc.rowCopies.find? fun e => e.die == d && e.detail == row with
  | none => s
  | some e =>
    ((s.modSvc fun v => { v with rowCopies := v.rowCopies.erase e }).setErr { s.errRec e with repaired := true }).logEvent 4 0 d e.unit row 0

/-! ### Loss of a die (R316) -/

/-- DIE_LOSS: contexts with a team resident on it are terminated; every other launch goes on with the surviving die in its place. (PRESUMED, log entry 49) -/
def dieLoss (s : State) (d : Nat) : State :=
  if !(s.die d).live then s
  else
    let gone := ((s.teams.filter fun t => t.die == d && t.res == .resident).map (·.asid)).eraseDups
    let s : State := gone.foldl (fun s a => s.terminateContext a) s
    let s : State := s.modDie d fun x => { x with live := false, relock := .none, forcing := none }
    let first := 6 * d
    { s with
      grids := s.grids.map fun g =>
        let lost := match tabFind d g.claims with | some (a, b) => if a < b then some (a, b) else none | none => none
        { g with
          dies := g.dies.map fun x => if x = d then 1 - d else x
          claims := match lost with | some r => leaveRange r (tabErase d g.claims) | none => g.claims }
      tlb := s.tlb.filter fun e => e.die != d
      walks := s.walks.filter fun w => w.die != d
      ual := { s.ual with ports := s.ual.ports.map fun (i, p) => if first ≤ i ∧ i < first + 6 then (i, { p with up := false }) else (i, p) } }

/-! ### Ownership (R393, R394) -/

def reject (s : State) : State := s.modSvc fun v => { v with mgRej := min (v.mgRej + 1) (2 ^ 32 - 1) }
def owns (s : State) (m : Master) : Bool := s.svc.mgOwn == ownerCode m

def setOwner (s : State) (n : Nat) : State :=
  (s.modSvc fun v => { v with mgOwn := n, mgHand := 0, offerEnd := none, lastBeat := s.now }).logEvent 9 0xFF 0 0 0 n

/-- CLAIM: the first while there is no owner, or the offered master's during the offer. -/
def claimBy (s : State) (m : Master) : State :=
  if s.svc.mgOwn = 0 then s.setOwner (ownerCode m)
  else
    match s.svc.offerEnd with
    | some e => if s.svc.mgHand = ownerCode m ∧ s.now < e ∧ !s.owns m then s.setOwner (ownerCode m) else s
    | none => s

/-- RELEASE: by the owner. -/
def releaseBy (s : State) (m : Master) : State := if s.owns m then s.setOwner 0 else s

/-- MGHAND: the owner offers the other master for 5 s; in recovery it does not act (R397). -/
def handTo (s : State) (m : Master) (v : DWord) : State :=
  if s.svc.recovery then s
  else if !s.owns m then s.reject
  else
    let n := bits 1 0 v.toNat
    if n = 3 - ownerCode m then s.modSvc fun x => { x with mgHand := n, offerEnd := some (s.now + Config.offerLapse) } else s

def offerLapse (s : State) : State :=
  match s.svc.offerEnd with
  | some e => if e ≤ s.now then s.modSvc fun v => { v with mgHand := 0, offerEnd := none } else s
  | none => s

/-- MGBEAT; in recovery it does not act (R397). -/
def beat (s : State) (m : Master) : State := if s.svc.recovery then s else if s.owns m then s.modSvc fun v => { v with lastBeat := s.now } else s.reject

/-- OWNERSHIP_LAPSE: no beat for 30 s. -/
def ownerLapse (s : State) : State :=
  if s.svc.mgOwn ≠ 0 ∧ Config.ownerLapse ≤ s.now - s.svc.lastBeat then s.setOwner 0 else s

/-! ### Firmware (R397, R398) -/

/-- The image that FWCMD 1 stages: in recovery the window, with FWSRC 0; in service host memory at FWSRC. -/
def imageOf (s : State) : Tab Byte :=
  if s.svc.recovery then s.svc.window
  else
    let base := 2 ^ 51 + s.svc.fwSrc.toNat
    s.mem.filterMap fun c => if base ≤ c.1 ∧ c.1 < base + Config.recoveryWindow then some (c.1 - base, c.2) else none

/-- FWCMD 1: an image is read for verification. -/
def stageImage (s : State) (m : Master) : State :=
  if !s.owns m then s.reject
  else if s.svc.fwStat = 1 ∨ s.svc.fwStat = 2 ∨ (s.svc.recovery ∧ s.svc.fwSrc ≠ 0) then s
  else s.modSvc fun v => { v with fwStat := 1, image := s.imageOf }

/-- FWCMD 2: aborts while FWSTAT is 1. -/
def abortStage (s : State) (m : Master) : State :=
  if !s.owns m then s.reject else if s.svc.fwStat = 1 then s.modSvc fun v => { v with fwStat := 0, image := [] } else s

/-! ### Resets (R395, R396) -/

/-- The dies that a reset fences: those on record, named in FENCE, marked by ageing, or without a spare core for a remap. -/
def fencedAt (s : State) (d : Nat) : Bool :=
  s.svc.fenced.contains d || bit d s.svc.fence || (s.die d).fenceMark ||
  decide ((s.die d).spares < (s.svc.remaps.filter fun c => c / 1024 == d).length)

/-- What flash and fuses keep of a die; it starts at its highest remaining point (R402). -/
def dieAfter (s : State) (d : Nat) : Die :=
  let n := (s.svc.remaps.filter fun c => c / 1024 == d).length
  let x := s.die d
  { Die.reset with live := !s.fencedAt d, hint := x.removed, voffset := x.voffset, removed := x.removed, fenceMark := x.fenceMark, spares := x.spares - n,
                   lastSample := s.now }

/-- Memory that a reset does not reach: host and peers. -/
def outside (s : State) : List Host.Cell :=
  s.mem.filter fun c => match regionOf c.1 with | .hbm _ => false | _ => true

/-- The state that a power-on leaves before the boot ROM judges the firmware; the model's own counters go on. (DESIGN CHOICE, log entry 66) -/
def powerUp (s : State) : State :=
  { State.reset with
    mem := s.outside
    die0 := s.dieAfter 0
    die1 := s.dieAfter 1
    svc := { Service.reset with
      fenced := (List.range 2).filter fun d => s.fencedAt d
      remapped := s.svc.remapped ++ s.svc.remaps.filter fun c => !s.svc.remapped.contains c
      fenceState := b2n (s.fencedAt 0) + 2 * b2n (s.fencedAt 1)
      flash := s.svc.flash
      minVersion := s.svc.minVersion
      staged := s.svc.staged
      flashOk := s.svc.flashOk }
    now := s.now, nextAcc := s.nextAcc, nextId := s.nextId, inputs := s.inputs, out := s.out, draws := s.draws }

/-- Signature of the image in flash, and a security version (R397). -/
def flashGood (s : State) : Bool := s.svc.flashOk && Config.signed s.svc.flash
def versionOf (image : Tab Byte) : Nat := Config.imageVersion image % 64

/-- FUNDAMENTAL_RESET: repairs and fences are applied, and the image in flash is verified; a failed check enters recovery. It then runs, and
one staged since the last reset raises the fused minimum. (DESIGN CHOICE, log entry 53) -/
def boot (s : State) : State :=
  let p := s.powerUp
  let good := s.flashGood
  if good && decide (s.svc.minVersion ≤ versionOf s.svc.flash) then
    p.modSvc fun v =>
      { v with
        firmware := v.flash
        staged := none
        minVersion := match v.staged with | some n => max v.minVersion n | none => v.minVersion }
  else p.modSvc fun v => { v with recovery := true, fwStat := if good then 5 else 4 }

/-- The part while it is held in fundamental reset: what is not in flash is gone, and no die works. The repair records of R401 are in
flash. (DEDUCED, log entry 56) -/
def inReset (s : State) (flashOk : Bool) : State :=
  let keep := s.svc
  { s.powerUp with
    die0 := { Die.reset with voffset := s.die0.voffset, removed := s.die0.removed, fenceMark := s.die0.fenceMark, spares := s.die0.spares, live := false }
    die1 := { Die.reset with voffset := s.die1.voffset, removed := s.die1.removed, fenceMark := s.die1.fenceMark, spares := s.die1.spares, live := false }
    svc := { Service.reset with
      fenced := keep.fenced
      remaps := keep.remaps
      remapped := keep.remapped
      flash := keep.flash
      minVersion := keep.minVersion
      staged := keep.staged
      fence := keep.fence
      flashOk := flashOk
      shutdown := true }
    jtag := { s.jtag with held := true } }

/-- POWER_LOSS: the part is in reset, and flash that was being written fails verification (R398). (DEDUCED, log entry 56) -/
def powerLoss (s : State) : State := s.inReset (s.svc.flashOk && s.svc.fwStat != 2)

/-- FUNDAMENTAL_RESET of either kind (R396), power-on or PERST#: the part boots, unless PERST# stays asserted and holds it (R404). -/
def fundamentalReset (s : State) (powerOn held : Bool) : State :=
  let s : State := if powerOn then s.powerLoss else s
  if held then s.inReset s.svc.flashOk else s.boot

/-- Flash after a write that failed: the new image's bytes from first on and below last, the old ones elsewhere. -/
def mixedFlash (old new : Tab Byte) (first last : Nat) : Tab Byte :=
  (old.filter fun c => decide (c.1 < first)) ++ (new.filter fun c => decide (first ≤ c.1 ∧ c.1 < last)) ++
    (old.filter fun c => decide (first ≤ c.1 ∧ last ≤ c.1))

/-- FIRMWARE_STAGED: verification of the staged image ends as at boot, and then the writing of flash, which may fail. An image that host
memory does not deliver fails its verification; one that the window holds is always read. In recovery a written image ends in a fundamental
reset. (DESIGN CHOICE, log entry 53) -/
def firmwareStep (s : State) (readOk writeOk : Bool) (first last : Nat) : State :=
  let version := versionOf s.svc.image
  match s.svc.fwStat with
  | 1 => s.modSvc fun v => { v with fwStat := if !((readOk || v.recovery) && Config.signed v.image) then 4 else if version < v.minVersion then 5 else 2 }
  | 2 =>
    if !writeOk then s.modSvc fun v => { v with fwStat := 6, flash := mixedFlash v.flash v.image first last }
    else
      let s : State := (s.modSvc fun v => { v with fwStat := 3, staged := some version, flashOk := true, flash := v.image, image := [] }).logEvent
        12 0xFF 0 0 0 version
      if s.svc.recovery then s.boot else s
  | _ => s

/-- FUNCTION_LEVEL_RESET: contexts are terminated, queues turn OFF, BAR 0 registers outside Table 24.2 take their defaults; memory,
ownership, firmware and repairs stay (R396). -/
def functionReset (s : State) : State :=
  let s : State := { s with issue := none }
  let s : State := (s.ctxs.map (·.asid)).foldl (fun s a => s.terminateContext a) s
  let s : State := s.colls.foldl (fun s c => s.endColl c 3 7 none none) s
  -- stores that a core's write path has accepted are performed (R330)
  let finish (s : State) (a : Access) : State := match a.taken with | some k => s.applyStore a k.ps | none => s
  let left := sortKey (fun a => ((a.taken.map (·.stamp)).getD 0)) (s.accs.filter fun a => a.taken.isSome)
  let s : State := left.foldl (fun s a => let s : State := finish s a; match s.acc? a.id with | some b => finish s b | none => s) s
  let clean (x : Die) : Die := { x with fb := FaultBuf.reset, cregs := [], turn := 0 }
  { State.reset with
    mem := s.mem, poison := s.poison, sliceErrs := s.sliceErrs, lines := s.lines, narrow := s.narrow
    ual := { State.reset.ual with ports := s.ual.ports, rounds := s.ual.rounds }
    die0 := clean s.die0, die1 := clean s.die1, svc := s.svc, link := s.link, jtag := s.jtag
    now := s.now, nextAcc := s.nextAcc, nextId := s.nextId, inputs := s.inputs, out := s.out, draws := s.draws }

/-! ### SPDM, the link, board test (R390, R399, R404) -/

/-- Bytes of an answer that lies outside the manual. (DESIGN CHOICE, log entry 16) -/
def answerBytes (kind n : Nat) : List Byte := (List.range n).map fun i => Config.answer kind i

/-- The five measurement blocks of R399: digests of the boot ROM and of the firmware image, the fused version, the repair records (cores
remapped, cores to remap, dies to fence), and the fences in force. -/
def measurements (s : State) : List Byte :=
  answerBytes 16 48 ++ ((List.range 48).map fun i => Config.digest s.svc.firmware i) ++ toBytes 1 s.svc.minVersion ++
    ((s.svc.remapped ++ s.svc.remaps).map (toBytes 2)).flatten ++ (s.svc.fenced.map (toBytes 1)).flatten ++ toBytes 1 s.svc.fenceState

def spdm (s : State) (m : Master) (req : Nat) (data : List Byte) : State := s.emit (.spdm m req data)

/-- Widths and rates of the standard, those of the part at the head; 2 stands for 2.5 GT/s. -/
def linkWidths : List Nat := [16, 8, 4, 2, 1]
def linkRates : List Nat := [64, 32, 16, 8, 5, 2]

/-- The link trains in FLIT mode, to the best width and rate that its partner has; without FLIT mode it stays down (R390). Enumeration then
finds the function, and configures AtomicOp Requester Enable and the size of BAR 2, 2^28 to 2^39 bytes (R391, R392; DESIGN CHOICE, log entry 64). -/
def trainLink (s : State) (flit : Bool) (lanes : LinkSpeed) (config : FnConfig) : State :=
  match flit, linkWidths.find? fun n => decide (n ≤ lanes.width), linkRates.find? fun n => decide (n ≤ lanes.rate) with
  | true, some w, some r =>
    { s with link := { s.link with
        up := true
        width := w
        rate := r
        atomicReq := config.atomicReq
        bar2Log2 := max 28 (min config.bar2 39) } }.emit (.enumerated Config.vendorId Config.deviceId Config.classCode)
  | _, _, _ => { s with link := { s.link with up := false, width := 0, rate := 0 } }

def shiftJtag (s : State) (ir : JtagIr) (data : List Byte) : State :=
  { s with jtag := { s.jtag with ir := ir } }.emit (.jtag ir data)

end State

/-! ### Meanings -/

/-- OPERATING_POINT_CHANGE (R310). -/
def execOperatingPointChange (die : Nat) (s : State) : Result := .next (s.pointChange die)
/-- CLOCK_STOP (R310, R334). -/
def execClockStop (die : Nat) (s : State) : Result := .next (s.clockStop die)
/-- RELOCK_DONE (R335). -/
def execRelockDone (die : Nat) (s : State) : Result := .next (s.relockDone die).settle
/-- OPERATING_POINT_STABLE (R310). -/
def execOperatingPointStable (die : Nat) (s : State) : Result := .next (s.pointSettled die)
/-- THROTTLE (R13, R403). -/
def execThrottle (die point watts tempJ tempHbm : Nat) (s : State) : Result := .next (s.throttleTo die point watts tempJ tempHbm)
/-- CRITICAL_SHUTDOWN (R403). -/
def execCriticalShutdown (temp : Nat) (s : State) : Result := .next (s.shutdown temp)
/-- AGEING_SAMPLE (R402). -/
def execAgeingSample (die : Nat) (ok : List Bool) (s : State) : Result := .next (s.ageingSample die ok)
/-- FORCED_AGEING_SAMPLE (R402). -/
def execForcedAgeingSample (die : Nat) (ok : List Bool) (s : State) : Result := .next (s.forcedSample die ok)
/-- CORRECTED_ERROR (R400). -/
def execCorrectedError (e : ErrInst) (s : State) : Result := .next (s.correctedError e)
/-- UNCORRECTABLE_ERROR (R263, R400). -/
def execUncorrectableError (e : ErrInst) (units : List Nat) (s : State) : Result := .next (s.uncorrectable e units)
/-- SCRATCHPAD_BANK_SPARE (R401). -/
def execScratchpadBankSpare (core : Nat) (s : State) : Result := .next (s.bankSpare core)
/-- ROW_SPARING (R401). -/
def execRowSparing (die row : Nat) (s : State) : Result := .next (s.rowSparing die row)
/-- DIE_LOSS (R316). -/
def execDieLoss (die : Nat) (s : State) : Result := .next (s.dieLoss die)
/-- FUNDAMENTAL_RESET (R395 to R397). -/
def execFundamentalReset (powerOn held : Bool) (s : State) : Result := .next (s.fundamentalReset powerOn held)
/-- FUNCTION_LEVEL_RESET (R396). -/
def execFunctionLevelReset (s : State) : Result := .next s.functionReset
/-- POWER_LOSS (R398). -/
def execPowerLoss (s : State) : Result := .next s.powerLoss
/-- CLAIM (R394). -/
def execClaim (m : Master) (s : State) : Result := .next (s.claimBy m)
/-- RELEASE (R394). -/
def execRelease (m : Master) (s : State) : Result := .next (s.releaseBy m)
/-- MGHAND (R394). -/
def execMghand (m : Master) (v : DWord) (s : State) : Result := .next (s.handTo m v)
/-- HANDOVER_LAPSE (R394). -/
def execHandoverLapse (s : State) : Result := .next s.offerLapse
/-- MGBEAT (R394): any value. -/
def execMgbeat (m : Master) (_v : DWord) (s : State) : Result := .next (s.beat m)
/-- OWNERSHIP_LAPSE (R394). -/
def execOwnershipLapse (s : State) : Result := .next s.ownerLapse
/-- STAGE_IMAGE (R397, R398): the write of FWCMD that does it has 1 in its low byte. -/
def execStageImage (m : Master) (v : DWord) (s : State) : Result := .next (if bits 7 0 v.toNat = 1 then s.stageImage m else s)
/-- ABORT_STAGING (R398). -/
def execAbortStaging (m : Master) (v : DWord) (s : State) : Result := .next (if bits 7 0 v.toNat = 2 then s.abortStage m else s)
/-- FIRMWARE_STAGED (R398). -/
def execFirmwareStaged (readOk writeOk : Bool) (first last : Nat) (s : State) : Result := .next (s.firmwareStep readOk writeOk first last)
/-- GET_VERSION (R399): SPDM 1.2. -/
def execGetVersion (m : Master) (s : State) : Result := .next (s.spdm m 0 [0x12])
/-- GET_CAPABILITIES (R399). -/
def execGetCapabilities (m : Master) (s : State) : Result := .next (s.spdm m 1 (State.answerBytes 1 4))
/-- NEGOTIATE_ALGORITHMS (R399). -/
def execNegotiateAlgorithms (m : Master) (s : State) : Result := .next (s.spdm m 2 (State.answerBytes 2 4))
/-- GET_DIGESTS (R399): a SHA-384 digest. -/
def execGetDigests (m : Master) (s : State) : Result := .next (s.spdm m 3 (State.answerBytes 3 48))
/-- GET_CERTIFICATE (R399). -/
def execGetCertificate (m : Master) (s : State) : Result := .next (s.spdm m 4 (State.answerBytes 4 4))
/-- CHALLENGE (R399): an ECDSA signature on brainpoolP384. -/
def execChallenge (m : Master) (s : State) : Result := .next ((s.spdm m 5 ((List.range 96).map fun i => (s.freeVal 26 i).setWidth 8)).drawn)
/-- GET_MEASUREMENTS (R399). -/
def execGetMeasurements (m : Master) (s : State) : Result := .next (s.spdm m 6 s.measurements)
/-- BYPASS (R404). -/
def execBypass (s : State) : Result := .next (s.shiftJtag .bypass [])
/-- IDCODE (R404). -/
def execIdcode (s : State) : Result := .next (s.shiftJtag .idcode (State.answerBytes 8 4))
/-- SAMPLE/PRELOAD (R404). -/
def execSamplePreload (s : State) : Result := .next (s.shiftJtag .samplePreload ((List.range 4).map fun i => (s.freeVal 27 i).setWidth 8)).drawn
/-- EXTEST (R404): acts only while the part is held in fundamental reset. -/
def execExtest (s : State) : Result := .next (if s.jtag.held then s.shiftJtag .extest [] else s)
/-- PCIE_LINK_TRAINING (R390). -/
def execPcieLinkTraining (flit : Bool) (lanes : LinkSpeed) (config : FnConfig) (s : State) : Result := .next (s.trainLink flit lanes config)

/-- IDE_KM (R390): a stream runs under its key, or is stopped. -/
def execIdeKm (selective : Bool) (key : DWord) (go : Bool) (s : State) : Result :=
  .next { s with link :=
    if selective then { s.link with ideSel := if go then some key else none } else { s.link with ideLink := if go then some key else none } }

end Sys2Proof.Machine
end

