-- ==== Sys2Proof/Machine/Regs.lean ====
section
/-! DEFINITION. The registers of BAR 0 as a master writes and reads them (R4, R391, R393, Tables 18.1, 19.5, 19.6, 20.2, 21.1 to 21.9,
24.1 to 24.3): REGISTER_WRITE, and the value a read gives. An access is one aligned dword of 64 bits. -/

namespace Sys2Proof.Machine

namespace State

/-! ### Writes -/

/-- A write to an owner register: kept from every other master, and counted (R393). -/
def ownerWrite (s : State) (m : Master) (f : Service → Service) : State := if s.owns m then s.modSvc f else s.reject

/-- Management and service registers (Table 24.2); in recovery MGCLAIM, FWCMD and FWSRC alone act (R397). -/
def writeManagement (s : State) (m : Master) (o : Nat) (v : DWord) : State :=
  let n := v.toNat
  if o = 0x008 then (if v.getLsbD 0 then s.claimBy m else s.releaseBy m)
  else if o = 0x058 then (if bits 7 0 n = 1 then s.stageImage m else if bits 7 0 n = 2 then s.abortStage m else if s.owns m then s else s.reject)
  else if o = 0x060 then s.ownerWrite m fun x => { x with fwSrc := v }
  else if s.svc.recovery then s
  else if o = 0x010 then s.handTo m v
  else if o = 0x018 then s.beat m
  else if o = 0x028 then s.ownerWrite m fun x => if 600 ≤ bits 11 0 n ∧ bits 11 0 n ≤ 2400 then { x with pwrCap := bits 11 0 n } else x
  else if o = 0x030 then s.ownerWrite m fun x => { x with svcVec := v &&& 0xFFF }
  else if o = 0x038 then s.ownerWrite m fun x => { x with fence := bits 1 0 n }
  else if o = 0x040 then s.ownerWrite m fun x => { x with apBase := bits 51 28 n * 2 ^ 28 }
  else if 0x100 ≤ o ∧ o < 0x130 then
    s.ownerWrite m fun x =>
      let k := (o - 0x100) / 8
      let (thr, win) := tabGet (3, 24) k x.sethr
      let thr' := bits 7 0 n
      let win' := bits 31 16 n
      if 720 < win' then x
      else { x with sethr := tabPut (3, 24) k (if thr' = 0 then thr else thr', if win' = 0 then win else win') x.sethr }
  else s

/-- Fault-buffer registers of die d (Table 19.5). Enabling lets waiting entries be written. -/
def writeFb (s : State) (d o : Nat) (v : DWord) : State :=
  let f := (s.die d).fb
  if o = 0x00 then
    (if f.ctl.getLsbD 0 then s else s.modDie d fun x => { x with fb := { x.fb with base := bits 51 19 v.toNat * 2 ^ 19 } })
  else if o = 0x08 then
    let s : State := s.modDie d fun x => { x with fb := { x.fb with ctl := v &&& 0x7FF003 } }
    flushWaits s.waits.length s d
  else if o = 0x18 then s.writeFbrp d v
  else s

/-- UALink registers and collective regulators (Table 20.2); a regulator starts with an empty bucket on either die. -/
def writeUalink (s : State) (m : Master) (o : Nat) (v : DWord) : State :=
  if o = 0x00 then (if s.owns m then { s with ual := { s.ual with uaid := bits 9 0 v.toNat } } else s.reject)
  else if o = 0x08 then (if s.ual.exCtl then s else { s with ual := { s.ual with exBase := bits 51 0 v.toNat } })
  else if o = 0x10 then { s with ual := { s.ual with exCtl := v.getLsbD 0 } }
  else if o = 0x18 then (if v = 0 then { s with ual := { s.ual with uaErr := 0 } } else s)
  else if 0x100 ≤ o ∧ o < 0x500 ∧ o % 16 = 0 then
    let r : CReg := ⟨v &&& 0x8000FFFFFFFFFFFF, 0, s.now⟩
    let put (d : Die) : Die := { d with cregs := tabSet ((o - 0x100) / 16) r d.cregs }
    { s with die0 := put s.die0, die1 := put s.die1 }.stage
  else s

/-- Capability slots (Table 21.1); a write that clears the valid bit revokes (R359). -/
def writeCap (s : State) (n o : Nat) (v : DWord) : State :=
  let c := s.cap n
  let put (c : CapSlot) : State := { s with dbg := { s.dbg with caps := tabPut CapSlot.reset n c s.dbg.caps } }
  if o = 0 then put { c with handle := v }
  else if o = 8 then
    if c.word8.getLsbD 6 && !v.getLsbD 6 then
      let s : State := s.revoke n
      { s with dbg := { s.dbg with caps := tabPut CapSlot.reset n { c with word8 := v } s.dbg.caps } }
    else put { c with word8 := v }
  else if o = 16 then put { c with peerList := bits 51 0 v.toNat }
  else put { c with peerCount := bits 10 0 v.toNat }

/-- Queue register block (Table 18.1). The first dword of QDESTROY triggers the command (R319). -/
def writeQueueReg (s : State) (q o : Nat) (v : DWord) : State :=
  if o = 0x000 then s.modQueue q fun x => if x.state = .off then { x with base := v } else x
  else if o = 0x008 then (if v.getLsbD 11 then s.queueEnable q v else s.queueDisable q v)
  else if o = 0x010 then s.writeQwp q (loWord v)
  else if o = 0x030 then s.resumeQueue q v
  else if 0x040 ≤ o ∧ o < 0x080 then
    let s : State := s.modQueue q fun x => { x with destroy := listSet ((o - 0x40) / 8) v x.destroy }
    let cmd := (s.queue q).destroy
    if o ≠ 0x040 ∨ !destroyOk cmd then s
    else if v = 0 then s.finishQueue q else s.killQueue q
  else s

/-- Runs a debug command by its code; a code that is not listed is turned away with its own status (Table 21.2). -/
def runCommand (s : State) (slot : Nat) (cmd : List DWord) : State :=
  match cmdDw cmd 0 with
  | 1 => s.haltCmd slot cmd
  | 2 => s.stepCmd slot cmd
  | 3 => s.resumeCmd slot cmd
  | 4 => s.readCmd slot cmd
  | 5 => s.writeCmd slot cmd
  | 6 => s.triggerCmd slot cmd
  | _ => s.debugCmd slot cmd fun s _ => s.report slot 7 0 none

/-- Command page of a capability slot (R360, R368, R374, R377); each group of registers needs its right. (DEDUCED, log entry 58) -/
def writePage (s : State) (n o : Nat) (v : DWord) : State :=
  let right (r : Nat) : Bool := capValid (s.cap n) && capRight (s.cap n) r
  if o < 0x40 then
    let cmd := listSet (o / 8) v (s.page n).cmd
    let s' : State := if (s.page n).busy then s else s.modPage n fun p => { p with cmd := cmd }
    if o = 0 then s'.runCommand n cmd else s'
  else if 0x400 ≤ o ∧ o < 0x480 then
    if !right 3 then s
    else
      let i := (o - 0x400) / 16
      s.modPage n fun p =>
        let (a, b) := tabGet (0, 0) i p.bpts
        { p with bpts := tabPut (0, 0) i (if o % 16 = 0 then (v &&& ~~~0xF#64, b) else (a, v &&& 0xFFFFFFFF0000003F)) p.bpts }
  else if 0x600 ≤ o ∧ o < 0x620 then
    if !right 4 then s
    else s.modPage n fun p =>
      if o = 0x600 then { p with trBase := v.toNat / 2 ^ 16 * 2 ^ 16 }
      else if o = 0x608 then
        { p with trCtl := v &&& 0xFFF07, samples := [], trEnd := if v.getLsbD 0 then p.trEnd else none, trStopped := v.getLsbD 0 && p.trStopped }
      else if o = 0x610 then { p with trWp := bits 23 0 v.toNat }
      else { p with trWin := v }
  else if 0x700 ≤ o ∧ o < 0x720 then
    if !right 5 then s
    else s.modPage n fun p =>
      if o = 0x700 then { p with dlBase := v.toNat / 2 ^ 12 * 2 ^ 12 }
      else if o = 0x708 then { p with dlCtl := v &&& 0xFF03, dlUsed := [] }
      else if o = 0x710 then { p with dlWp := v.toNat }
      else { p with dlRp := v.toNat, dlUsed := [] }
  else s

/-- MSI-X table: a vector that is unmasked while pending is sent. -/
def writeMsix (s : State) (o : Nat) (v : DWord) : State :=
  let s : State := { s with msix := ((toBytes 8 v.toNat).foldl (fun (p : Nat × Tab Byte) b =>
    (p.1 + 1, tabPut (if p.1 % 16 = 12 then 1 else 0) p.1 b p.2)) (o, s.msix)).2 }
  let n := o / 16
  if s.msixPending.contains n ∧ !(s.msixByte (16 * n + 12)).getLsbD 0 then
    { s with msixPending := s.msixPending.filter fun x => x != n }.emit (.msix n)
  else s

/-- A write of a master to a dword of the register space. The BMC reaches only the first 128 KiB (R393). Offsets that name no
register, and reserved fields, ignore the write (R4, Table 24.1); none of the host arrives while the link is down (R390), and in recovery and
after a critical shutdown the service registers alone act (R397, R403). (DEDUCED, log entry 57) -/
def writeRegister (s : State) (m : Master) (off : Nat) (v : DWord) : State :=
  if off % 8 ≠ 0 ∨ off < 0x10000 ∨ (m = .host ∧ !s.link.up) then s
  else if off < 0x20000 then s.writeManagement m (off - 0x10000) v
  else if m = .bmc ∨ s.svc.recovery ∨ s.svc.shutdown then s
  else if off = 0x20000 then { s with cxtBase := bits 51 22 v.toNat * 2 ^ 22 }
  else if 0x20040 ≤ off ∧ off < 0x20060 then
    let words := listSet ((off - 0x20040) / 8) v s.cxtWords
    let s : State := { s with cxtWords := words }
    if off = 0x20040 then s.contextCmd words else s
  else if 0x30000 ≤ off ∧ off < 0x30200 then s.writeFb ((off - 0x30000) / 0x100) (off % 0x100) v
  else if 0x40000 ≤ off ∧ off < 0x40500 then s.writeUalink m (off - 0x40000) v
  else if 0x50000 ≤ off ∧ off < 0x52000 then s.writeCap ((off - 0x50000) / 32) (off % 32) v
  else if off = 0x52000 then { s with dbg := { s.dbg with wdper := loWord v } }
  else if 0x100000 ≤ off ∧ off < 0x180000 then s.writeQueueReg ((off - 0x100000) / 0x1000) (off % 0x1000) v
  else if 0x600000 ≤ off ∧ off < 0x700000 then s.writePage ((off - 0x600000) / 0x1000) (off % 0x1000) v
  else if 0x800000 ≤ off ∧ off < 0x808000 then s.writeMsix (off - 0x800000) v
  else s

/-! ### Reads -/

def qstateCode : QState → Nat
  | .off => 0 | .idle => 1 | .fetch => 2 | .order => 3 | .block => 4 | .fault => 5 | .drain => 6 | .dead => 7

/-- Removed points and offset of a die, as AGESTAT packs them. -/
def ageNibbles (d : Die) : Nat := d.voffset % 16 + 16 * (d.removed % 8)

/-- A value read from the register space by a master (Tables 18.1, 19.5, 20.2, 21.1 to 21.9, 24.2, 24.3). -/
def readRegister (s : State) (m : Master) (off : Nat) : Nat :=
  let sv := s.svc
  let word (bs : List Byte) (o : Nat) : Nat := ofBytes ((bs.drop o).take 8)
  if off % 8 ≠ 0 ∨ (m = .bmc ∧ 0x20000 ≤ off) then 0
  else if off = 0x0000 then s.liveDies.length + 4 * b2n sv.recovery + 8 * b2n sv.shutdown
  else if off = 0x0008 then sv.pwrNow % 4096
  else if off = 0x0010 then sv.tempJ % 65536 + 65536 * (sv.tempHbm % 65536)
  else if off = 0x0018 then ageNibbles s.die0 + 256 * ageNibbles s.die1
  else if off = 0x0020 then s.die0.spares % 128 + 256 * (s.die1.spares % 128)
  else if off = 0x10000 then sv.mgOwn
  else if off = 0x10010 then sv.mgHand
  else if off = 0x10020 then sv.mgRej
  else if off = 0x10028 then sv.pwrCap
  else if off = 0x10030 then sv.svcVec.toNat
  else if off = 0x10038 then sv.fence
  else if off = 0x10040 then sv.apBase
  else if off = 0x10048 then sv.hostErr
  else if off = 0x10050 then sv.slwp.toNat
  else if off = 0x10060 then sv.fwSrc.toNat
  else if off = 0x10068 then sv.fwStat
  else if 0x10100 ≤ off ∧ off < 0x10130 then
    let (thr, win) := tabGet (3, 24) ((off - 0x10100) / 8) sv.sethr
    thr + 65536 * win
  else if 0x11000 ≤ off ∧ off < 0x13000 then word (tabGet [] ((off - 0x11000) / 32) sv.log) (off % 32)
  else if off = 0x20000 then s.cxtBase
  else if off = 0x20060 then s.cxDone.toNat
  else if 0x30000 ≤ off ∧ off < 0x30200 then
    let f := (s.die ((off - 0x30000) / 0x100)).fb
    match off % 0x100 with
    | 0x00 => f.base | 0x08 => f.ctl.toNat | 0x10 => f.wp | 0x18 => f.rp | _ => 0
  else if off = 0x40000 then s.ual.uaid
  else if off = 0x40008 then s.ual.exBase
  else if off = 0x40010 then b2n s.ual.exCtl
  else if off = 0x40018 then s.ual.uaErr
  else if 0x40100 ≤ off ∧ off < 0x40500 ∧ off % 16 = 0 then (tabGet CReg.reset ((off - 0x40100) / 16) s.die0.cregs).word.toNat
  else if 0x50000 ≤ off ∧ off < 0x52000 then
    let c := s.cap ((off - 0x50000) / 32)
    match off % 32 with
    | 0 => c.handle.toNat | 8 => c.word8.toNat | 16 => c.peerList | _ => c.peerCount
  else if off = 0x52000 then s.dbg.wdper.toNat
  else if 0x100000 ≤ off ∧ off < 0x180000 then
    let x := s.queue ((off - 0x100000) / 0x1000)
    match off % 0x1000 with
    | 0x000 => x.base.toNat | 0x008 => x.ctl.toNat | 0x018 => x.rp.toNat | 0x020 => qstateCode x.state + 256 * x.cause
    | 0x028 => x.cursor | _ => 0
  else if 0x600000 ≤ off ∧ off < 0x700000 then
    let p := s.page ((off - 0x600000) / 0x1000)
    let o := off % 0x1000
    if 0x100 ≤ o ∧ o < 0x300 then word (s.dbg.causes.getD ((o - 0x100) / 32) []) (o % 32)
    else if 0x400 ≤ o ∧ o < 0x480 then
      let (a, b) := tabGet (0, 0) ((o - 0x400) / 16) p.bpts
      if o % 16 = 0 then a.toNat else b.toNat
    else
      match o with
      | 0x040 => p.res.toNat | 0x048 => p.data.toNat | 0x050 => p.done.toNat | 0x058 => s.dbg.causeOvf
      | 0x600 => p.trBase | 0x608 => p.trCtl.toNat | 0x610 => p.trWp | 0x618 => p.trWin.toNat
      | 0x700 => p.dlBase | 0x708 => p.dlCtl.toNat | 0x710 => p.dlWp | 0x718 => p.dlRp | _ => 0
  else if 0x800000 ≤ off ∧ off < 0x808000 then ofBytes ((List.range 8).map fun i => s.msixByte (off - 0x800000 + i))
  else if 0x808000 ≤ off ∧ off < 0x808100 then
    ((s.msixPending.filter fun v => v / 64 == (off - 0x808000) / 8).map fun v => 2 ^ (v % 64)).sum
  else 0

end State

/-! ### Meanings -/

/-- REGISTER_WRITE (R4). -/
def execRegisterWrite (m : Master) (off : Nat) (v : DWord) (s : State) : Result := .next (s.writeRegister m off v)

end Sys2Proof.Machine
end

