-- ==== Sys2Proof/Machine/Dispatch.lean ====
section
/-! DEFINITION. One arm per constructor of `Instr`, each a direct call of that instruction's meaning. -/

namespace Sys2Proof.Machine

def exec (i : Instr) (s : State) : Host.Outcome State Fault Refusal :=
  match i with
  | .issueSelection core => Sys2Proof.Machine.execIssueSelection core s
  | .iadd g t m d a b => Sys2Proof.Machine.execIadd g t m d a b s
  | .isub g t m d a b => Sys2Proof.Machine.execIsub g t m d a b s
  | .imul g t d a b => Sys2Proof.Machine.execImul g t d a b s
  | .imulhi g t sgn d a b => Sys2Proof.Machine.execImulhi g t sgn d a b s
  | .imad g t d a b c => Sys2Proof.Machine.execImad g t d a b c s
  | .imin g t sgn d a b => Sys2Proof.Machine.execImin g t sgn d a b s
  | .imax g t sgn d a b => Sys2Proof.Machine.execImax g t sgn d a b s
  | .iabs g t sat d a => Sys2Proof.Machine.execIabs g t sat d a s
  | .iadd64 g t m d a b => Sys2Proof.Machine.execIadd64 g t m d a b s
  | .lea g t sx sh d a b => Sys2Proof.Machine.execLea g t sx sh d a b s
  | .and g t d a b => Sys2Proof.Machine.execAnd g t d a b s
  | .or g t d a b => Sys2Proof.Machine.execOr g t d a b s
  | .xor g t d a b => Sys2Proof.Machine.execXor g t d a b s
  | .andn g t d a b => Sys2Proof.Machine.execAndn g t d a b s
  | .shl g t d a b => Sys2Proof.Machine.execShl g t d a b s
  | .shr g t d a b => Sys2Proof.Machine.execShr g t d a b s
  | .sar g t d a b => Sys2Proof.Machine.execSar g t d a b s
  | .rotl g t d a b => Sys2Proof.Machine.execRotl g t d a b s
  | .clz g t d a => Sys2Proof.Machine.execClz g t d a s
  | .popc g t d a => Sys2Proof.Machine.execPopc g t d a s
  | .brev g t d a => Sys2Proof.Machine.execBrev g t d a s
  | .bfx g t sx d a b => Sys2Proof.Machine.execBfx g t sx d a b s
  | .bfi g t d a b c => Sys2Proof.Machine.execBfi g t d a b c s
  | .prmt g t d a b c => Sys2Proof.Machine.execPrmt g t d a b c s
  | .sel g t neg p d a b => Sys2Proof.Machine.execSel g t neg p d a b s
  | .iset g uns m d a b => Sys2Proof.Machine.execIset g uns m d a b s
  | .plop g tt d x y => Sys2Proof.Machine.execPlop g tt d x y s
  | .mov g t b64 d a => Sys2Proof.Machine.execMov g t b64 d a s
  | .movp g t toPred r => Sys2Proof.Machine.execMovp g t toPred r s
  | .movi g m d imm => Sys2Proof.Machine.execMovi g m d imm s
  | .iaddImm g d a imm => Sys2Proof.Machine.execIaddImm g d a imm s
  | .imulImm g d a imm => Sys2Proof.Machine.execImulImm g d a imm s
  | .andImm g d a imm => Sys2Proof.Machine.execAndImm g d a imm s
  | .orImm g d a imm => Sys2Proof.Machine.execOrImm g d a imm s
  | .xorImm g d a imm => Sys2Proof.Machine.execXorImm g d a imm s
  | .andnImm g d a imm => Sys2Proof.Machine.execAndnImm g d a imm s
  | .shlImm g d a imm => Sys2Proof.Machine.execShlImm g d a imm s
  | .shrImm g d a imm => Sys2Proof.Machine.execShrImm g d a imm s
  | .sarImm g d a imm => Sys2Proof.Machine.execSarImm g d a imm s
  | .rotlImm g d a imm => Sys2Proof.Machine.execRotlImm g d a imm s
  | .iminImm g uns d a imm => Sys2Proof.Machine.execIminImm g uns d a imm s
  | .imaxImm g uns d a imm => Sys2Proof.Machine.execImaxImm g uns d a imm s
  | .iadd64Imm g d a imm => Sys2Proof.Machine.execIadd64Imm g d a imm s
  | .fadd g t rnd d a b => Sys2Proof.Machine.execFadd g t rnd d a b s
  | .fsub g t rnd d a b => Sys2Proof.Machine.execFsub g t rnd d a b s
  | .fmul g t rnd d a b => Sys2Proof.Machine.execFmul g t rnd d a b s
  | .ffma g t rnd d a b c => Sys2Proof.Machine.execFfma g t rnd d a b c s
  | .fmin g t d a b => Sys2Proof.Machine.execFmin g t d a b s
  | .fmax g t d a b => Sys2Proof.Machine.execFmax g t d a b s
  | .fset g m d a b => Sys2Proof.Machine.execFset g m d a b s
  | .fclass g t d a => Sys2Proof.Machine.execFclass g t d a s
  | .fscale g t rnd d a b => Sys2Proof.Machine.execFscale g t rnd d a b s
  | .frnd g t rnd d a => Sys2Proof.Machine.execFrnd g t rnd d a s
  | .hadd2 g t bf rnd d a b => Sys2Proof.Machine.execHadd2 g t bf rnd d a b s
  | .hmul2 g t bf rnd d a b => Sys2Proof.Machine.execHmul2 g t bf rnd d a b s
  | .hfma2 g t bf rnd d a b c => Sys2Proof.Machine.execHfma2 g t bf rnd d a b c s
  | .frcp g t ax d a => Sys2Proof.Machine.execFrcp g t ax d a s
  | .frsq g t ax d a => Sys2Proof.Machine.execFrsq g t ax d a s
  | .fsqrt g t ax rnd d a => Sys2Proof.Machine.execFsqrt g t ax rnd d a s
  | .fdiv g t ax rnd d a b => Sys2Proof.Machine.execFdiv g t ax rnd d a b s
  | .fexp2 g t ax d a => Sys2Proof.Machine.execFexp2 g t ax d a s
  | .flog2 g t ax d a => Sys2Proof.Machine.execFlog2 g t ax d a s
  | .fsin g t ax d a => Sys2Proof.Machine.execFsin g t ax d a s
  | .fcos g t ax d a => Sys2Proof.Machine.execFcos g t ax d a s
  | .f2i g t m rnd d a => Sys2Proof.Machine.execF2i g t m rnd d a s
  | .i2f g t uns rnd d a => Sys2Proof.Machine.execI2f g t uns rnd d a s
  | .fcvt g t sat src dst rnd d a c => Sys2Proof.Machine.execFcvt g t sat src dst rnd d a c s
  | .qcvt g t sat sr code d a b c => Sys2Proof.Machine.execQcvt g t sat sr code d a b c s
  | .dqcvt g t code d a => Sys2Proof.Machine.execDqcvt g t code d a s
  | .mxq g t sr d a b => Sys2Proof.Machine.execMxq g t sr d a b s
  | .rng g t d a b => Sys2Proof.Machine.execRng g t d a b s
  | .rngf g t d a b => Sys2Proof.Machine.execRngf g t d a b s
  | .ld g sx m r base => Sys2Proof.Machine.execLd g sx m r base s
  | .st g m r base => Sys2Proof.Machine.execSt g m r base s
  | .lds g sx m r base => Sys2Proof.Machine.execLds g sx m r base s
  | .sts g m r base => Sys2Proof.Machine.execSts g m r base s
  | .ldp g size off r base => Sys2Proof.Machine.execLdp g size off r base s
  | .pref g hint off base => Sys2Proof.Machine.execPref g hint off base s
  | .atom g op m d r base => Sys2Proof.Machine.execAtom g op m d r base s
  | .atoms g op m d r base => Sys2Proof.Machine.execAtoms g op m d r base s
  | .red g op m r base => Sys2Proof.Machine.execRed g op m r base s
  | .fence g order scope => Sys2Proof.Machine.execFence g order scope s
  | .mwait g size off base => Sys2Proof.Machine.execMwait g size off base s
  | .spill g hint off r base => Sys2Proof.Machine.execSpill g hint off r base s
  | .fill g hint off r base => Sys2Proof.Machine.execFill g hint off r base s
  | .shfl g t m w d a b c => Sys2Proof.Machine.execShfl g t m w d a b c s
  | .vote g t m src d => Sys2Proof.Machine.execVote g t m src d s
  | .matchLanes g t b64 m d a => Sys2Proof.Machine.execMatchLanes g t b64 m d a s
  | .credux g t op d a => Sys2Proof.Machine.execCredux g t op d a s
  | .elect g d => Sys2Proof.Machine.execElect g d s
  | .bar g op level index => Sys2Proof.Machine.execBar g op level index s
  | .barrierPhaseComplete b => Sys2Proof.Machine.execBarrierPhaseComplete b s
  | .tkwait g n d => Sys2Proof.Machine.execTkwait g n d s
  | .tkpass g n => Sys2Proof.Machine.execTkpass g n s
  | .regroup g pack key d => Sys2Proof.Machine.execRegroup g pack key d s
  | .regroupStep team => Sys2Proof.Machine.execRegroupStep team s
  | .reggrow g m n d => Sys2Proof.Machine.execReggrow g m n d s
  | .granuleGrant core => Sys2Proof.Machine.execGranuleGrant core s
  | .regshrink g n => Sys2Proof.Machine.execRegshrink g n s
  | .waitc g ld st cp tl => Sys2Proof.Machine.execWaitc g ld st cp tl s
  | .cpy g e tag a b c => Sys2Proof.Machine.execCpy g e tag a b c s
  | .cpym g e tag d a b c => Sys2Proof.Machine.execCpym g e tag d a b c s
  | .cpyo g e tag a b c => Sys2Proof.Machine.execCpyo g e tag a b c s
  | .cpyx g e tag a b c => Sys2Proof.Machine.execCpyx g e tag a b c s
  | .copyComplete op => Sys2Proof.Machine.execCopyComplete op s
  | .tgwany g a => Sys2Proof.Machine.execTgwany g a s
  | .tgwall g a => Sys2Proof.Machine.execTgwall g a s
  | .tgff g t clr d a => Sys2Proof.Machine.execTgff g t clr d a s
  | .tgclr g a => Sys2Proof.Machine.execTgclr g a s
  | .mfence g => Sys2Proof.Machine.execMfence g s
  | .missue g win a b c => Sys2Proof.Machine.execMissue g win a b c s
  | .mgang g win a b c => Sys2Proof.Machine.execMgang g win a b c s
  | .tileOpComplete op => Sys2Proof.Machine.execTileOpComplete op s
  | .gangPartEnd op rank => Sys2Proof.Machine.execGangPartEnd op rank s
  | .twait g d => Sys2Proof.Machine.execTwait g d s
  | .mzero g tile => Sys2Proof.Machine.execMzero g tile s
  | .mload g tile a => Sys2Proof.Machine.execMload g tile a s
  | .mread g t hi col tile d => Sys2Proof.Machine.execMread g t hi col tile d s
  | .mwrite g hi col tile a => Sys2Proof.Machine.execMwrite g hi col tile a s
  | .mswr g t clr tile d => Sys2Proof.Machine.execMswr g t clr tile d s
  | .mdrain g x => Sys2Proof.Machine.execMdrain g x s
  | .tkDrainStart op => Sys2Proof.Machine.execTkDrainStart op s
  | .bra g imm => Sys2Proof.Machine.execBra g imm s
  | .brx g a => Sys2Proof.Machine.execBrx g a s
  | .call g d imm => Sys2Proof.Machine.execCall g d imm s
  | .callx g d a entry => Sys2Proof.Machine.execCallx g d a entry s
  | .ret g a => Sys2Proof.Machine.execRet g a s
  | .exit g => Sys2Proof.Machine.execExit g s
  | .nop g => Sys2Proof.Machine.execNop g s
  | .yield g => Sys2Proof.Machine.execYield g s
  | .yieldHoldExpiry team tid => Sys2Proof.Machine.execYieldHoldExpiry team tid s
  | .sread g t sel d => Sys2Proof.Machine.execSread g t sel d s
  | .swrite g sel a => Sys2Proof.Machine.execSwrite g sel a s
  | .claunch g a => Sys2Proof.Machine.execClaunch g a s
  | .cjoin g => Sys2Proof.Machine.execCjoin g s
  | .trap g code => Sys2Proof.Machine.execTrap g code s
  | .bpt g => Sys2Proof.Machine.execBpt g s
  | .icsync g scope => Sys2Proof.Machine.execIcsync g scope s
  | .rett g => Sys2Proof.Machine.execRett g s
  | .loadReturn acc => Sys2Proof.Machine.execLoadReturn acc s
  | .storeAccept acc => Sys2Proof.Machine.execStoreAccept acc s
  | .lateFault acc => Sys2Proof.Machine.execLateFault acc s
  | .translationWalk die => Sys2Proof.Machine.execTranslationWalk die s
  | .mwaitWake line => Sys2Proof.Machine.execMwaitWake line s
  | .waveOpen team => Sys2Proof.Machine.execWaveOpen team s
  | .teamRetire team => Sys2Proof.Machine.execTeamRetire team s
  | .gridRetire grid => Sys2Proof.Machine.execGridRetire grid s
  | .watchdogFire team => Sys2Proof.Machine.execWatchdogFire team s
  | .clusterPlacement grid die x y => Sys2Proof.Machine.execClusterPlacement grid die x y s
  | .preemption cluster => Sys2Proof.Machine.execPreemption cluster s
  | .restore cluster die x y => Sys2Proof.Machine.execRestore cluster die x y s
  | .queueEnable q v => Sys2Proof.Machine.execQueueEnable q v s
  | .queueDisable q v => Sys2Proof.Machine.execQueueDisable q v s
  | .qwp q v => Sys2Proof.Machine.execQwp q v s
  | .qresume q v => Sys2Proof.Machine.execQresume q v s
  | .destroyFinish q cmd => Sys2Proof.Machine.execDestroyFinish q cmd s
  | .destroyKill q cmd => Sys2Proof.Machine.execDestroyKill q cmd s
  | .packetFetch q => Sys2Proof.Machine.execPacketFetch q s
  | .nopPacket q => Sys2Proof.Machine.execNopPacket q s
  | .launch q => Sys2Proof.Machine.execLaunch q s
  | .coll q => Sys2Proof.Machine.execColl q s
  | .copyPacket q => Sys2Proof.Machine.execCopyPacket q s
  | .copyPacketComplete q id => Sys2Proof.Machine.execCopyPacketComplete q id s
  | .signalPacket q => Sys2Proof.Machine.execSignalPacket q s
  | .waitv q => Sys2Proof.Machine.execWaitv q s
  | .waitvWake q => Sys2Proof.Machine.execWaitvWake q s
  | .stepPacket q => Sys2Proof.Machine.execStepPacket q s
  | .graph q => Sys2Proof.Machine.execGraph q s
  | .cond q => Sys2Proof.Machine.execCond q s
  | .whileNode q => Sys2Proof.Machine.execWhileNode q s
  | .collSend c => Sys2Proof.Machine.execCollSend c s
  | .collRecv c => Sys2Proof.Machine.execCollRecv c s
  | .collRrs c => Sys2Proof.Machine.execCollRrs c s
  | .collCopy c => Sys2Proof.Machine.execCollCopy c s
  | .collWait c => Sys2Proof.Machine.execCollWait c s
  | .collLoop c => Sys2Proof.Machine.execCollLoop c s
  | .collEnd c => Sys2Proof.Machine.execCollEnd c s
  | .collectiveChunk group src seq first total data => Sys2Proof.Machine.execCollectiveChunk group src seq first total data s
  | .collectiveCredit group src seq => Sys2Proof.Machine.execCollectiveCredit group src seq s
  | .collectiveAbort group src reason => Sys2Proof.Machine.execCollectiveAbort group src reason s
  | .peerLossTimeout c rank => Sys2Proof.Machine.execPeerLossTimeout c rank s
  | .peerRequest port r => Sys2Proof.Machine.execPeerRequest port r s
  | .unlistedMessage type => Sys2Proof.Machine.execUnlistedMessage type s
  | .ualinkLaneFailure port lanes => Sys2Proof.Machine.execUalinkLaneFailure port lanes s
  | .hostApertureAccess off data len => Sys2Proof.Machine.execHostApertureAccess off data len s
  | .invalidateTranslations cmd => Sys2Proof.Machine.execInvalidateTranslations cmd s
  | .replay cmd => Sys2Proof.Machine.execReplay cmd s
  | .cancel cmd => Sys2Proof.Machine.execCancel cmd s
  | .suspend cmd => Sys2Proof.Machine.execSuspend cmd s
  | .contextResume cmd => Sys2Proof.Machine.execContextResume cmd s
  | .terminate cmd => Sys2Proof.Machine.execTerminate cmd s
  | .fbrp die v => Sys2Proof.Machine.execFbrp die v s
  | .halt slot cmd => Sys2Proof.Machine.execHalt slot cmd s
  | .stepCmd slot cmd => Sys2Proof.Machine.execStepCmd slot cmd s
  | .stepReport slot => Sys2Proof.Machine.execStepReport slot s
  | .resume slot cmd => Sys2Proof.Machine.execResume slot cmd s
  | .resumeEngines job => Sys2Proof.Machine.execResumeEngines job s
  | .resumeCores job => Sys2Proof.Machine.execResumeCores job s
  | .readCmd slot cmd => Sys2Proof.Machine.execReadCmd slot cmd s
  | .writeCmd slot cmd => Sys2Proof.Machine.execWriteCmd slot cmd s
  | .trigger slot cmd => Sys2Proof.Machine.execTrigger slot cmd s
  | .capabilityRevoke slot => Sys2Proof.Machine.execCapabilityRevoke slot s
  | .sloeHalt job origin seq cause ref => Sys2Proof.Machine.execSloeHalt job origin seq cause ref s
  | .sloeResume job origin sent delta => Sys2Proof.Machine.execSloeResume job origin sent delta s
  | .sloeCauseReport job entry => Sys2Proof.Machine.execSloeCauseReport job entry s
  | .triggerMessage job origin number ref => Sys2Proof.Machine.execTriggerMessage job origin number ref s
  | .traceWindowEnd slot => Sys2Proof.Machine.execTraceWindowEnd slot s
  | .operatingPointChange die => Sys2Proof.Machine.execOperatingPointChange die s
  | .clockStop die => Sys2Proof.Machine.execClockStop die s
  | .relockDone die => Sys2Proof.Machine.execRelockDone die s
  | .operatingPointStable die => Sys2Proof.Machine.execOperatingPointStable die s
  | .throttle die point watts tempJ tempHbm => Sys2Proof.Machine.execThrottle die point watts tempJ tempHbm s
  | .criticalShutdown temp => Sys2Proof.Machine.execCriticalShutdown temp s
  | .ageingSample die ok => Sys2Proof.Machine.execAgeingSample die ok s
  | .forcedAgeingSample die ok => Sys2Proof.Machine.execForcedAgeingSample die ok s
  | .correctedError e => Sys2Proof.Machine.execCorrectedError e s
  | .scratchpadBankSpare core => Sys2Proof.Machine.execScratchpadBankSpare core s
  | .dieLoss die => Sys2Proof.Machine.execDieLoss die s
  | .claim m => Sys2Proof.Machine.execClaim m s
  | .release m => Sys2Proof.Machine.execRelease m s
  | .mghand m v => Sys2Proof.Machine.execMghand m v s
  | .mgbeat m v => Sys2Proof.Machine.execMgbeat m v s
  | .stageImage m v => Sys2Proof.Machine.execStageImage m v s
  | .abortStaging m v => Sys2Proof.Machine.execAbortStaging m v s
  | .firmwareStaged readOk writeOk first last => Sys2Proof.Machine.execFirmwareStaged readOk writeOk first last s
  | .getVersion m => Sys2Proof.Machine.execGetVersion m s
  | .getCapabilities m => Sys2Proof.Machine.execGetCapabilities m s
  | .negotiateAlgorithms m => Sys2Proof.Machine.execNegotiateAlgorithms m s
  | .getDigests m => Sys2Proof.Machine.execGetDigests m s
  | .getCertificate m => Sys2Proof.Machine.execGetCertificate m s
  | .challenge m => Sys2Proof.Machine.execChallenge m s
  | .getMeasurements m => Sys2Proof.Machine.execGetMeasurements m s
  | .registerWrite m off v => Sys2Proof.Machine.execRegisterWrite m off v s
  | .collectiveAcknowledgement group src seq => Sys2Proof.Machine.execCollectiveAcknowledgement group src seq s
  | .peerUnreachable peer => Sys2Proof.Machine.execPeerUnreachable peer s
  | .portTraining port lanes peer => Sys2Proof.Machine.execPortTraining port lanes peer s
  | .pcieLinkTraining flit lanes config => Sys2Proof.Machine.execPcieLinkTraining flit lanes config s
  | .ideKm selective key go => Sys2Proof.Machine.execIdeKm selective key go s
  | .uncorrectableError e units => Sys2Proof.Machine.execUncorrectableError e units s
  | .rowSparing die row => Sys2Proof.Machine.execRowSparing die row s
  | .tokenBucketFill die slot => Sys2Proof.Machine.execTokenBucketFill die slot s
  | .invalidationComplete team tid => Sys2Proof.Machine.execInvalidationComplete team tid s
  | .fundamentalReset powerOn held => Sys2Proof.Machine.execFundamentalReset powerOn held s
  | .functionLevelReset => Sys2Proof.Machine.execFunctionLevelReset s
  | .handoverLapse => Sys2Proof.Machine.execHandoverLapse s
  | .ownershipLapse => Sys2Proof.Machine.execOwnershipLapse s
  | .bypass => Sys2Proof.Machine.execBypass s
  | .idcode => Sys2Proof.Machine.execIdcode s
  | .samplePreload => Sys2Proof.Machine.execSamplePreload s
  | .extest => Sys2Proof.Machine.execExtest s
  | .powerLoss => Sys2Proof.Machine.execPowerLoss s

end Sys2Proof.Machine
end

