-- ==== Sys2Proof/Machine/Events.lean ====
section
/-! DEFINITION. What a step does around `exec`: the end of an instruction and of a clause (R54, R76, R231, R234, R361, R368, R375), the
steps of the part that are due when no clause is in an issue slot, and the passing of time (R334, R335, R354, R366, R402). -/

namespace Sys2Proof.Machine

namespace State

/-! ### An instruction ends -/

/-- The slot of the window snapshot of every thread that is still in the group (R64); `guard` is judged on the predicates that the
instruction read. Registers of loads that no wait has covered, and of pending operations, read anew in the next one (R55, R184). -/
def noteGroup (pre : State) (sl : IssueSlot) (g : Guard) (i : Instr) (s : State) : State :=
  match s.issue with
  | none => s
  | some now =>
    now.group.foldl (fun s tid =>
      let on := ((pre.thread? sl.team tid).map fun x => guardOf x.preds g).getD false
      (s.note sl.team tid sl.idx (destOf i) on).modThread sl.team tid fun x =>
        { s.scramble (if on then destRegs i else []) (s.showFlips (s.expire sl.idx x)) with skipBpt := false }) s

/-- Distinct 32-byte sectors of some stretches of memory (R261). -/
def sectorCount (ps : List (Nat × Nat)) : Nat :=
  ((ps.map fun (va, n) => (List.range ((va + n - 1) / 32 + 1 - va / 32)).map fun k => va / 32 + k).flatten.eraseDups).length

/-- Sectors that an instruction touches: those of the accesses it has issued since `first`, and those that a prefetch of its lanes names. -/
def touchedSectors (s : State) (first : Nat) (ls : List Thread) (t : Team) (i : Instr) : Nat :=
  match i with
  | .pref _ _ off base => sectorCount (ls.map fun x => (globalAddr x (t.crewOf x) base off .b8, 1))
  | _ => sectorCount ((s.accs.filter fun a => decide (first ≤ a.id) && !a.isMarker && (match a.space with | .global | .priv | .spillSp => true | _ => false)).map
      s.pieces).flatten

/-- The two records of a sample (R375). The replays and the queue times are timing, and so free; the lane is that whose data returned last, of
those that returned together, or of an instruction that returns none, one of its active lanes (DESIGN CHOICE, log entry 88). -/
def sampleRecords (s : State) (n : Nat) (x : Sample) : State :=
  let lane := x.left.getD ((s.freeVal 39 n).toNat % x.left.length) 0
  let replays := (s.freeVal 28 n).toNat % 256
  let detail := lane % 32 * 2 ^ 27 + replays * 2 ^ 19 + x.sectors % 512 * 1024 + x.idx % 16
  let hd (kind : Nat) : List Byte := toBytes 8 s.refTime ++ toBytes 1 kind ++ toBytes 1 x.queue ++ toBytes 2 (4 * 2048 + x.core)
  let times := toBytes 4 (s.freeVal 29 n).toNat ++ toBytes 2 (s.freeVal 30 n).toNat ++ toBytes 2 0
  (s.traceOn n (hd 12 ++ toBytes 8 x.clause ++ toBytes 4 detail ++ toBytes 8 x.mask)).traceOn n (hd 13 ++ times ++ toBytes 4 x.low ++ toBytes 8 0)

/-- Lanes whose accesses of a group are outstanding. -/
def lanesLeft (s : State) (group : Nat) : List Nat :=
  ((s.accs.filter fun a => a.group == group && !a.isMarker).map fun a =>
    if a.lanes.isEmpty then ((s.thread? a.team a.tid).map (·.lane)).toList else a.lanes.map fun (l : SpillLane) => l.lane).flatten

/-- Samples whose last data has come are written. -/
def settleSamples (s : State) : State :=
  s.dbg.pages.foldl (fun s (n, p) => p.sampling.foldl (fun s x =>
    let now := s.lanesLeft x.group
    if now.isEmpty then (s.sampleRecords n x).modPage n fun p => { p with sampling := p.sampling.filter fun y => y != x }
    else s.modPage n fun p => { p with sampling := p.sampling.map fun y => if y = x then { x with left := now } else y }) s) s

/-- Sampling (R375): every 2^k-th memory instruction of the context on a core gives two records. -/
def sampled (pre : State) (sl : IssueSlot) (g : Guard) (i : Instr) (s : State) : State :=
  match pre.team? sl.team with
  | none => s
  | some t =>
    if !isMemory i then s
    else
      (s.dbg.caps.filterMap fun (n, c) => if capValid c && capRight c 4 && capAsid c == t.asid then some n else none).foldl (fun s n =>
        let p := s.page n
        if !(p.trCtl.getLsbD 0 && p.trCtl.getLsbD 2) then s
        else
          let k := tabGet 0 t.core p.samples + 1
          let s : State := s.modPage n fun p => { p with samples := tabPut 0 t.core (k % 2 ^ bits 19 16 p.trCtl.toNat) p.samples }
          if k % 2 ^ bits 19 16 p.trCtl.toNat ≠ 0 then s
          else
            let ls := t.active sl g
            let x : Sample := ⟨pre.nextAcc, sl.clause, sl.idx, s.touchedSectors pre.nextAcc ls t i, ls.foldl (fun m x => m + 2 ^ x.lane) 0,
              ls.foldl (fun m x => min m x.tid) ((ls.head?.map (·.tid)).getD 0), t.queue, t.core, ls.map (·.lane)⟩
            if (s.lanesLeft x.group).isEmpty then s.sampleRecords n x
            else s.modPage n fun p => { p with sampling := p.sampling ++ [x] }) s

/-! ### A clause ends -/

/-- Threads that issued the clause with a yield begin their hold (R124, R231). -/
def yields (s : State) (team core : Nat) : State :=
  s.modTeam team fun t =>
    { t with threads := t.threads.map fun x =>
        if x.yielded then { x with yielded := false, hold := some (s.cycles core + Config.yieldHold) } else x }

/-- The end of the clause in the issue slot: its threads fall through (R76), it is the t0 of the origins met in it (R361), a context that was terminated while it
ran is done (R330), and a stepped clause has left the slot (R370). -/
def endClause (s : State) : State :=
  match s.issue with
  | none => s
  | some sl =>
    let asid := ((s.team? sl.team).map (·.asid)).getD 0
    let s : State := sl.group.foldl (fun s tid => s.fallThrough sl.team tid) s
    let origins := ((s.issue.map (·.origins)).getD [])
    let s : State := { s.yields sl.team sl.core with issue := none }
    let s : State := { s with dbg := { s.dbg with reached := s.dbg.reached ++ origins.map fun o => ⟨asid, sl.clause, o.idx, o.origin, s.now⟩ } }
    let s : State := (s.ctxs.filter fun c => c.terminating).foldl (fun s c => s.finishTermination c.asid) s
    match sl.stepOf with
    | some n => s.leaveStep n
    | none => s

/-- After the instruction at an index: the next one, or the end of the clause once it was the last or no thread is left. -/
def nextIndex (s : State) (sl : IssueSlot) : State :=
  match s.issue with
  | none => s
  | some now =>
    if now.group.isEmpty ∨ hdrN sl.hdr ≤ sl.idx + 1 then s.endClause
    else { s with issue := some { now with idx := sl.idx + 1 } }

/-- What follows the instruction at the issue slot's index. -/
def advance (pre : State) (sl : IssueSlot) (g : Guard) (i : Instr) (s : State) : State :=
  (sampled pre sl g i (noteGroup pre sl g i s)).nextIndex sl

/-- Which memory form an opcode is: whether its address is a pair, and what its access does (Table 8.1); none of FENCE, which has no
address, nor of other opcodes. -/
def memoryForm (op : Nat) : Option (Bool × Nat) :=
  match op with
  | 0x40 | 0x45 | 0x4A => some (true, 0)
  | 0x41 => some (true, 1)
  | 0x46 | 0x48 => some (true, 2)
  | 0x42 | 0x44 | 0x4C => some (false, 0)
  | 0x43 | 0x4B => some (false, 1)
  | 0x47 => some (false, 2)
  | _ => none

/-- The fault that an instruction word alone gives a thread (R80); that of a memory form names the thread's address, the size and the kind
of its access (R152, step 1). A word whose size field is reserved names size 7 and scales its offset by 1 (DESIGN CHOICE, log entry 82). -/
def formFault (cause : Byte) (w : DWord) (x : Thread) (c : Crew) : FaultInfo :=
  let r := unpackWord w
  match memoryForm r.op.toNat with
  | none => plainFault cause
  | some (pair, access) =>
    let size := decodeSize r.msize.toNat
    let m := size.getD .b8
    accessFault cause (if pair then globalAddr x c r.a r.x m else localAddr x c r.a r.x m) ((size.map sizeCodeOf).getD 7) access

/-- The thread whose address such a fault names: that of a SPILL or FILL is its crew's one slot address, its lowest active lane's (R165). -/
def formThread (t : Team) (sl : IssueSlot) (w : DWord) (x : Thread) : Thread :=
  let r := unpackWord w
  if r.op.toNat = 0x4B ∨ r.op.toNat = 0x4C then ((t.active sl r.guard).find? fun y => y.crew == x.crew).getD x else x

/-- A fault that depends on the instruction word only: every thread of the group takes it, whatever its guard (R80). -/
def groupFault (s : State) (sl : IssueSlot) (cause : Byte) (w : DWord) : State :=
  ((match s.team? sl.team with
    | some t => (sl.group.filterMap fun tid => (t.thread? tid).map fun x => (tid, formFault cause w (formThread t sl w x) (t.crewOf x))).foldl
        (fun s p => s.deliver sl.team p.1 sl.clause sl.idx p.2) s
    | none => s) : State).nextIndex sl

/-! ### In front of an instruction -/

/-- Does an enabled hardware breakpoint of a thread's context name the instruction it is about to execute (R368)? -/
def breakpointAt (s : State) (t : Team) (clause idx : Nat) : Bool :=
  s.dbg.caps.any fun (n, c) =>
    capValid c && capRight c 3 && capAsid c == t.asid &&
    (s.page n).bpts.any fun (_, (a, b)) =>
      a.toNat == clause && b.getLsbD 4 && bits 3 0 b.toNat == idx && (!b.getLsbD 5 || bits 63 32 b.toNat == t.linear)

/-- Threads of the group that a breakpoint stops here. -/
def breakers (s : State) (sl : IssueSlot) : List Nat :=
  match s.team? sl.team with
  | none => []
  | some t =>
    if s.breakpointAt t sl.clause sl.idx then
      sl.group.filter fun tid => match s.thread? sl.team tid with | some x => !x.skipBpt | none => false
    else []

/-- Threads stop at a breakpoint; the others of the group go on. -/
def stopAt (s : State) (sl : IssueSlot) (tids : List Nat) : State :=
  let s : State := tids.foldl (fun s tid => s.breakStop sl.team tid sl.clause sl.idx false) s
  match s.issue with
  | some now => if now.group.isEmpty then s.endClause else s
  | none => s

/-- A load of the group that returns before the next instruction executes (R55); whether one does is unspecified. (DESIGN CHOICE, log entry 11) -/
def midReturn (s : State) (sl : IssueSlot) : Option Nat :=
  let ls := s.accs.filter fun a => a.isLoad && (sl.group.any fun tid => a.ofThread sl.team tid) && s.ready a && (s.failCause a).isNone
  if ls.isEmpty || !s.freeBit 19 0 then none else (ls[s.choice ls.length]?).map (·.id)

/-! ### Steps that are due -/

/-- Barriers that are not idle. -/
def barRefs (s : State) : List BarRef :=
  ((s.teams.map fun t =>
      (t.crews.map fun c => c.bars.map fun (i, _) => (⟨.crew, t.id, c.slot, i⟩ : BarRef)).flatten ++
      t.bars.map fun (i, _) => (⟨.team, t.id, 0, i⟩ : BarRef)).flatten) ++
  ((s.clusters.map fun c => c.bars.map fun (i, _) => (⟨.cluster, c.id, 0, i⟩ : BarRef)).flatten) ++
  ((s.grids.map fun g => g.bars.map fun (i, _) => (⟨.grid, g.id, 0, i⟩ : BarRef)).flatten)

def memoryEvents (s : State) : List Instr :=
  ((s.accs.map fun a => [Instr.loadReturn a.id, .storeAccept a.id, .lateFault a.id]).flatten) ++
  (if s.walks.isEmpty then [] else [.translationWalk 0, .translationWalk 1]) ++ s.watch.map fun w => .mwaitWake w.line

def invalidations (s : State) : List Instr :=
  (s.teams.map fun t => t.threads.filterMap fun x => if !x.icsync.isEmpty then some (Instr.invalidationComplete t.id x.tid) else none).flatten

def teamEvents (s : State) : List Instr :=
  s.barRefs.map Instr.barrierPhaseComplete ++
  ((s.teams.map fun t =>
    [Instr.waveOpen t.id, .teamRetire t.id, .regroupStep t.id, .watchdogFire t.id] ++
    t.threads.filterMap fun x => if x.hold.isSome then some (Instr.yieldHoldExpiry t.id x.tid) else none).flatten) ++ s.invalidations ++
  (((s.teams.filter fun t => t.res == .resident).map (·.core)).eraseDups.map fun c => [Instr.issueSelection c, .granuleGrant c]).flatten

def engineEvents (s : State) : List Instr :=
  (s.engs.map fun e =>
    [Instr.copyComplete e.id, .tileOpComplete e.id, .tkDrainStart e.id] ++ e.parts.map fun p => Instr.gangPartEnd e.id p.rank).flatten

def dispatchEvents (s : State) : List Instr :=
  ((s.grids.map fun g =>
    Instr.gridRetire g.id ::
    if s.placing g then
      (g.dies.eraseDups.map fun d => Instr.clusterPlacement g.id d 0 0 :: (s.placesOn g d).map fun (x, y) => Instr.clusterPlacement g.id d x y).flatten
    else []).flatten) ++
  ((s.clusters.map fun c =>
    Instr.preemption c.id ::
    ([0, 1].map fun d => (rectOrigins.filter fun (x, y) => s.canRestore c d x y).map fun (x, y) => Instr.restore c.id d x y).flatten).flatten)

def queueEvents (s : State) : List Instr :=
  ((s.queues.map fun (q, x) =>
    [Instr.packetFetch q, .nopPacket q, .launch q, .coll q, .copyPacket q, .signalPacket q, .waitv q, .waitvWake q, .stepPacket q,
     .graph q, .cond q, .whileNode q] ++ x.started.map fun p => Instr.copyPacketComplete q p.id).flatten) ++
  ((s.colls.map fun c =>
    [Instr.collSend c.id, .collRecv c.id, .collRrs c.id, .collCopy c.id, .collWait c.id, .collLoop c.id, .collEnd c.id] ++
    c.peers.map fun p => Instr.peerLossTimeout c.id p.rank).flatten) ++
  (([0, 1].map fun d => (s.die d).cregs.filterMap fun (i, r) =>
    if r.word.getLsbD 63 && decide (r.filled < s.now) && s.colls.any (fun c => c.asid == bits 15 0 r.word.toNat && c.ending.isNone) then
      some (Instr.tokenBucketFill d i) else none).flatten)

def debugEvents (s : State) : List Instr :=
  (s.dbg.steps.map fun w => Instr.stepReport w.slot) ++
  (s.dbg.pages.filterMap fun (n, p) => if p.held.isSome then some (Instr.stepReport n) else none) ++
  ((s.dbg.frozen.map fun f => [Instr.resumeEngines f.job, .resumeCores f.job]).flatten) ++
  s.dbg.pages.filterMap fun (n, p) => if p.trEnd.isSome then some (Instr.traceWindowEnd n) else none

/-- Outcomes of the samples of a die, which only its monitors know. -/
def monitors (s : State) (d : Nat) : List Bool := (List.range 12).map fun i => s.freeBit 31 (16 * d + i)

/-- Copies of rows to spares (R401). -/
def rowEvents (s : State) : List Instr := s.svc.rowCopies.map fun e => Instr.rowSparing e.die e.detail

def serviceEvents (s : State) : List Instr :=
  (([0, 1].map fun d =>
    [Instr.operatingPointChange d, .clockStop d, .relockDone d, .operatingPointStable d, .ageingSample d (s.monitors d),
     .forcedAgeingSample d (s.monitors d)]).flatten) ++
  (s.svc.bankWaits.map fun e => Instr.scratchpadBankSpare e.unit) ++ s.rowEvents ++
  [.handoverLapse, .ownershipLapse, .criticalShutdown s.svc.tempJ]

/-- Would an event change the machine? -/
def changes (s : State) (i : Instr) : Bool :=
  match exec i s with
  | .next t => decide (t ≠ s)
  | _ => false

/-- The steps of the part that are due. (DEDUCED, log entry 59) -/
def pending (s : State) : List Instr :=
  (s.memoryEvents ++ s.teamEvents ++ s.engineEvents ++ s.dispatchEvents ++ s.queueEvents ++ s.debugEvents ++ s.serviceEvents).filter
    s.changes

/-! ### Arbitration windows (R260, R268) -/

/-- A write of an agent at an address of a context: the agent, and the slice that `slice` numbers. -/
def virtWrite (s : State) (ag : Agent) (die asid va : Nat) (v : Via) (slice : Nat → Nat) : Option (Agent × Nat) :=
  match s.translate die asid va .write v with
  | .ok pa => some (ag, slice pa)
  | .error _ => none

/-- A write of a queue's front end. -/
def frontWrite (s : State) (q va : Nat) (slice : Nat → Nat) : Option (Agent × Nat) :=
  s.virtWrite (.frontEnd (s.medlar q)) (s.medlar q) (s.queue q).asid va .frontEnd slice

/-- The first write of an engine operation that its end makes: a unit of a copy, or an element of a drain. -/
def engineWrite (s : State) (e : EngOp) (slice : Nat → Nat) (bank : Nat → Nat → Nat) : Option (Agent × Nat) :=
  (s.team? e.team).bind fun t =>
    match e.kind with
    | .copy k sz _ _ _ dst0 dst1 box0 box1 mask =>
      (unitsLeft e box0 sz).head?.bind fun u =>
        if k = .cpyo then s.virtWrite (.core e.core) t.die t.asid (unitGlobal (pairOf dst0 dst1) box1 sz u) .program slice
        else (s.copyTargets t k dst0 mask).head?.map fun v => (.core e.core, bank v.id ((unitOffsets dst0.toNat dst1.toNat sz u).headD 0))
    | .drain x =>
      (drainLeft e x).head?.bind fun (_, r, c) =>
        if x.form.glob then s.virtWrite (.core e.core) t.die t.asid (drainAddr x r c % 2 ^ 64) .program slice
        else (s.windowTarget t x.dest).map fun (v, o) => (.core e.core, bank v.id (o + (drainAddr x r c - x.dest)))
    | _ => none

/-- The first write of a collective's step. -/
def collWrite (s : State) (id : Nat) (slice : Nat → Nat) : Option (Agent × Nat) :=
  (s.coll? id).bind fun c => s.virtWrite (.frontEnd (s.medlar c.queue)) (s.medlar c.queue) c.asid (c.span c.step.dst).1 .program slice

/-- The write that an event makes at a home slice or a scratchpad bank: its agent, and the slice (even) or the bank (odd). What writes more than
one unit is taken at its first, and reports, which are no events of their own, stand in windows of their own (DESIGN CHOICE, log entry 94). -/
def writeOf (s : State) (i : Instr) : Option (Agent × Nat) :=
  let slice (pa : Nat) : Nat := 2 * s.sliceOf (pa / 128)
  let bank (w o : Nat) : Nat := 2 * ((((s.team? w).map (·.core)).getD 0) * 32 + o / 4 % 32) + 1
  let place (a : Access) (ps : List (Nat × Nat)) : Option (Agent × Nat) :=
    match a.space with
    | .window w => some (.core a.core, bank w a.addr)
    | _ => ps.head?.map fun p => (.core a.core, slice p.1)
  match i with
  | .storeAccept id =>
    (s.acc? id).bind fun a => if !a.isStore then none else match a.kind with
      | .red _ => (match s.accPhys a with | some (.ok ps) => place a ps | _ => none)
      | _ => (s.homeStretches a).bind (place a)
  | .loadReturn id => (s.acc? id).bind fun a =>
      if !a.isAtom || a.served.isSome then none else match s.accPhys a with | some (.ok ps) => place a ps | _ => none
  | .signalPacket q => s.frontWrite q ((s.queue q).dw 1) slice
  | .whileNode q => s.frontWrite q ((s.queue q).cursor + 72) slice
  | .copyPacketComplete q id => ((s.queue q).started.find? fun p => p.id == id).bind fun p =>
      match p.kind with | .copy _ dst _ => s.frontWrite q dst slice | _ => none
  | .copyComplete id | .tileOpComplete id => (s.eng? id).bind fun e => s.engineWrite e slice bank
  | .collRecv id | .collRrs id | .collCopy id => s.collWrite id slice
  | .hostApertureAccess off (some _) _ => some (.host, slice (s.svc.apBase + off))
  | .peerRequest port (.write off _) => (s.exported off 17 .write).map fun pa => (.port port, slice pa)
  | .peerRequest port (.atom off ..) => (s.exported off 18 .write).map fun pa => (.port port, slice pa)
  | _ => none

/-- The writes of other agents that arrive in one arbitration window with a write, and itself, by ascending identifier, so that the bytes of the
highest survive; which of those that are due arrive in it is unspecified. -/
def together (s : State) (others : List Instr) (i : Instr) : List Instr :=
  match s.writeOf i with
  | none => [i]
  | some (a, p) =>
    let mine := (((List.range others.length).zip others).filter fun (k, j) => s.freeBit 40 k &&
      (match s.writeOf j with | some (b, q) => p == q && decide (arbId a ≠ arbId b) | none => false)).map (·.2)
    sortKey (fun j => ((s.writeOf j).map fun b => arbId b.1).getD 0) (i :: mine)

/-- Events one after another. -/
def runAll : List Instr → State → Result
  | [], s => .next s
  | i :: is, s => match exec i s with | .next t => runAll is t | r => r

/-- What happens next while no clause is in an issue slot: the oldest input or a step that is due, which one is unspecified, with the writes that
share its arbitration window. (DEDUCED, log entry 5) -/
def nextEvents (s : State) : List Instr × State :=
  let es := s.pending
  match s.inputs with
  | [] => match es[s.choice es.length]? with | some e => (s.together es e, s) | none => ([], s)
  | i :: is =>
    match s.choice (es.length + 1) with
    | 0 => (s.together es i, { s with inputs := is })
    | k + 1 =>
      match es[k]? with
      | some e =>
        let run := s.together (es ++ [i]) e
        (run, if run.contains i then { s with inputs := is } else s)
      | none => ([], s)

/-! ### Time -/

/-- A die's counts after some ticks of the reference timer: no edges while the clock is stopped, or core power is off (R334, R335, R403). -/
def tickDie (on idle : Bool) (ticks : Nat) (d : Die) : Die :=
  let d := { d with idle := if idle then d.idle + ticks else 0 }
  match d.relock with
  | .stopped .. => d
  | _ =>
    if !d.live || !on then d
    else
      let n := ticks * Config.f10 d.hint + d.frac
      { d with cyc := d.cyc + n / 10, ncyc := d.ncyc + n / 10 * Config.ncInc d.hint, frac := n % 10 }

def dieIdle (s : State) (d : Nat) : Bool := !(s.teams.any fun t => t.res == .resident && t.die == d)

/-- Is the team, or a child of it, at work (R366): a clause in the issue slot, an access outstanding, an operation in an engine? (DEDUCED, log entry 39) -/
def atWork (s : State) : (fuel : Nat) → Team → Bool
  | 0, _ => true
  | fuel + 1, t =>
    (s.issue.map (·.team)) == some t.id || (s.accs.any fun a => a.team == t.id && !a.isMarker) ||
    (s.engs.any fun e => e.team == t.id && !s.heldBack e && e.parked.isNone) ||
    s.grids.any fun g => g.parent == some t.id &&
      ((match g.state with | .waiting => true | _ => false) || s.teams.any fun u => u.grid == g.id && u.res == .resident && atWork s fuel u)

/-- Does the watchdog of a team count: resident, running, with a thread left, and nothing of it at work? -/
def countsHang (s : State) (t : Team) : Bool :=
  s.teamRuns t && !s.enginesFrozen t.asid && !s.teamParked t && (t.threads.any fun x => x.run != .exited) && !s.atWork 12 t

/-- Progress of a team or a child in one step (R366). -/
def progressed (pre s : State) : (fuel : Nat) → Nat → Bool
  | 0, _ => false
  | fuel + 1, id =>
    (s.issue.map (·.team)) == some id ||
    (pre.accs.any fun a => a.team == id && !(s.accs.any fun b => b.id == a.id)) ||
    (pre.engs.any fun e => e.team == id && !(s.engs.any fun x => x.id == e.id && x.seen == e.seen && x.moved == e.moved)) ||
    pre.grids.any fun g => g.parent == some id &&
      (!(s.grids.any fun h => h.id == g.id && decide (h = g)) || pre.teams.any fun u => u.grid == g.id && progressed pre s fuel u.id)

/-- Did a step go on within the clause in the issue slot: to its next instruction, or at the same one behind a load's return or a breakpoint? -/
def withinClause (pre s : State) : Bool :=
  match pre.issue, s.issue with
  | some a, some b => a.idx != b.idx || (pre.midReturn a).isSome || !(pre.breakers a).isEmpty
  | _, _ => false

/-- Time passes: the timer, the clocks, the hang watchdogs, and the waits of collectives; none from one instruction of a clause to the next,
unless it waits. (DESIGN CHOICE, log entry 4) -/
def tick (pre s : State) : State :=
  let ticks := if withinClause pre s then 0 else Config.elapsed s.draws
  let s : State := { s with
    teams := s.teams.map fun t =>
      if progressed pre s 12 t.id then { t with watchdog := 0 }
      else if s.countsHang t then { t with watchdog := t.watchdog + ticks } else t
    die0 := tickDie (!s.svc.shutdown) (s.dieIdle 0) ticks s.die0
    die1 := tickDie (!s.svc.shutdown) (s.dieIdle 1) ticks s.die1
    now := s.now + ticks
    draws := s.draws + 1 }
  s.waitOn ticks

/-- What follows every step: context commands that have become complete, the engines' work beside it, the halt waves of the origins met in
it, ready stamps, and the time it took, in which threads that have issued become ready again (log entry 61). -/
def after (pre s : State) : State :=
  (tick pre ((settleCmds (s.cmds.length + 1) s).engineProgress.settleSamples.startReached).restamp).restamp

/-! ### One step -/

/-- The reads of memory that CALLX, MISSUE, MGANG and CLAUNCH make as they issue, as accesses of their threads (R120, R195, R220). -/
def headReads (s : State) (sl : IssueSlot) (i : Instr) : List Access :=
  match s.team? sl.team with
  | none => []
  | some t =>
    let read (x : Thread) (space : Space) (a n : Nat) (scope : Scope) (order : Order) : Access :=
      { s.mkAcc sl t x (.load false) space a a .b64 scope order .normal with id := s.nextAcc, size := n }
    let block (g : Guard) (win : Bool) (r : Reg) : List Access :=
      match (t.active sl g).head? with
      | none => []
      | some x =>
        let a := if win then (readReg x (t.crewOf x) r).toNat else (readPair x (t.crewOf x) r).toNat
        if a % 64 ≠ 0 then []
        else if win then (match s.windowTarget t a with | some (u, o) => [read x (.window u.id) o 64 .team .rlx] | none => [])
        else [read x .global a 64 .team .rlx]
    match i with
    | .callx g _ r entry => (t.active sl g).filterMap fun x =>
        let a := (readReg x (t.crewOf x) r).toNat + entry.toNat
        if 2 ^ 32 ≤ a then none else some (read x .global (s.window t.asid + 16 * a) 8 .device .acq)
    | .missue g win a _ _ | .mgang g win a _ _ => block g win a
    | .claunch g a => block g false a
    | _ => []

/-- The translations that an instruction needs as it issues: of those reads, and of the line that MWAIT names (R164). -/
def headAddrs (s : State) (sl : IssueSlot) (i : Instr) : List Nat :=
  ((s.headReads sl i).filterMap fun a => match a.space with | .global => some a.addr | _ => none) ++
  (match i, s.team? sl.team with
   | .mwait g size off base, some t => (t.active sl g).filterMap fun x =>
       let a := globalAddr x (t.crewOf x) base off size
       if a % size.bytes = 0 ∧ x.watch.isSome then some a else none
   | _, _ => [])

/-- Does the instruction at the slot's index wait? One that reads memory as it issues does so until each read may be performed: the thread's
earlier acquires and fences, its earlier accesses of the same units, and what stands in front of it in the core's write path (R120, R121,
R154, R155, R269), and until it may be translated (R326); not while its context is being terminated. -/
def stalled (s : State) (sl : IssueSlot) (i : Instr) : Bool :=
  match s.team? sl.team with
  | none => false
  | some t =>
    ((s.headReads sl i).any (fun a => !s.ready a) || (s.headAddrs sl i).any fun va => !s.canWalk t.die t.asid va) &&
      !((s.ctx? t.asid).map (·.terminating)).getD false

/-- What happens while it waits: its walks are asked for, and a step that is due of the memory system, the engines, an ICSYNC, the debugger or a
row's copy (R401), or the oldest input, happens, which one is unspecified. -/
def stalledStep (s : State) (sl : IssueSlot) (i : Instr) : Result :=
  let s : State := match s.team? sl.team with | some t => s.joinWalks t.die t.asid (s.headAddrs sl i) | none => s
  let es := (s.memoryEvents ++ s.engineEvents ++ s.invalidations ++ s.debugEvents ++ s.rowEvents).filter s.changes
  match s.inputs with
  | [] => match es[s.choice es.length]? with | some e => runAll (s.together es e) s | none => .next s
  | j :: js =>
    match s.choice (es.length + 1) with
    | 0 => exec j { s with inputs := js }
    | k + 1 => match es[k]? with | some e => runAll (s.together es e) s | none => .next s

/-- The walks that an instruction's own reads had asked for have been used. -/
def headDone (s₀ : State) (sl : IssueSlot) (i : Instr) (s : State) : State :=
  match s₀.team? sl.team with
  | some t => s.useWalks t.die t.asid (s₀.headAddrs sl i)
  | none => s

/-- The instruction at the index of the issue slot: its word as fetched on entry (R73), its checks, its meaning, and what follows. A word
that is both malformed and misplaced in its clause takes 0x02, not 0x17: the manual orders the checks of R80 in no way (DESIGN CHOICE, log
entry 78). -/
def issueStep (s : State) (sl : IssueSlot) : Result :=
  match s.midReturn sl with
  | some id => exec (.loadReturn id) s
  | none =>
    match s.breakers sl with
    | tid :: tids => .next (s.stopAt sl (tid :: tids))
    | [] =>
      let w := sl.words.getD sl.idx 0
      match decodeWord w with
      | .error e => .next (s.groupFault sl (if e = .illegalOpcode then 0x01 else 0x02) w)
      | .ok i =>
        if misplaced sl.hdr sl.idx i then .next (s.groupFault sl 0x17 w)
        else if s.stalled sl i then s.stalledStep sl i
        else
          match exec i s with
          | .next t => .next (advance s sl (unpackWord w).guard i (headDone s sl i t))
          | r => r

/-- The core of a step: an instruction of the clause in the issue slot, or one of the part's other steps; nothing when none is due. -/
def stepCore (s : State) : Result :=
  match s.issue with
  | some sl => s.issueStep sl
  | none => runAll s.nextEvents.1 s.nextEvents.2

end State

end Sys2Proof.Machine
end

