-- ==== Sys2Proof/Machine/Program.lean ====
section
/-! DEFINITION. A word put where the machine fetches its next instruction: the part runs no program by itself, so this stands for all
that the host loads (tables, context, code) and for the placement of a team of one thread whose clause of one instruction, the word,
is in the issue slot (R61, R72, R228, R233, R323). -/

namespace Sys2Proof.Machine

/-- The header of a clause of one instruction with no waits (Table 5.1). -/
def headerFor (cls : Nat) : DWord := BitVec.ofNat 64 (0xFA00FFFF00000000 + cls * 2 ^ 48)

/-- A thread at the start of a clause, its registers zero. -/
def bareThread (clause : Nat) (hdr : DWord) (words : List DWord) : Thread :=
  { tid := 0, lane := 0, crew := 0, regs := [], preds := 0, clause := clause, idx := 0, hdr := hdr, words := words, callDepth := 0, trapvec := 0xFFFFFFFF,
    sfault := 0, run := .active, ld := 0, st := 0, pend := [], flips := [], winSeen := false, stamp := none, hold := none, watch := none, watchAcc := 0, bars := [],
    window := [], trans := [], yielded := false, endedByFault := false, icsync := [], mfence := [], fenceRel := none, frags := [], shadows := [], skipBpt := false, arrive := none, issued := none }

/-- A team of one crew and one thread on a core. -/
def bareTeam (id grid cluster asid core slot : Nat) (x : Thread) : Team :=
  { id := id, grid := grid, cluster := cluster, queue := 0, asid := asid, core := core, slot := slot, rank := 0, linear := 0, x := 0, y := 0,
    z := 0, res := .resident, crews := [⟨0, [], 0, [], []⟩], threads := [x], scratchBytes := 0, scratch := [], scratchPoison := [],
    regErrs := [], tiles := [], tags := [], cp := 0, tl := 0, tstat := ⟨0, 0, 0, false, ⟨0, 0, 0⟩, 0⟩, bars := [], rgen := 0, privBase := 0,
    spillBase := 0, wave := none, passed := [], parkedTickets := [], watchdog := 0, stopping := false }

/-- The launch of one team of one crew. -/
def bareLaunch (code : Nat) : LaunchF :=
  { code := code, paramAddr := 0, gx := 1, gy := 1, gz := 1, detmin := 0, cohort := false, tags := 0, tiles := 0, granules := 0, h := 1,
    w := 1, crews := 1, scratchKiB := 0, privSize := 256, spillSize := 0, paramSize := 0, linkage := 0, completion := 0, ticketBase := 0,
    minDies := 1, maxDies := 1, hint := 0, depth := 0 }

namespace State

/-- An ASID that nothing in the machine names. -/
def unusedAsid (s : State) : Nat :=
  1 + ((s.ctxs.map fun (c : Context) => c.asid) ++ (s.tlb.map fun (e : TlbEntry) => e.asid) ++ (s.icache.map fun (w : ICWord) => w.asid) ++ s.dbg.caps.map fun (p : Nat × CapSlot) => capAsid p.2).foldl max 0

/-- The word alone in a clause at the base of a fresh context's code window, in the issue slot of core 0 (of the first live die). The fetch has
left its translation, and the walk for address 0, which an instruction with zero operands reads, has ended. -/
def withProgram (s : State) (w : DWord) : State :=
  let d := if s.die0.live then 0 else 1
  let base := d * 2 ^ 38
  let core := 1024 * d
  let asid := s.unusedAsid
  let clause := 2 ^ 36
  let cls := match decodeWord w with | .ok i => classOf i | .error _ => 0
  let hdr := headerFor cls
  let n := s.nextId
  -- level 0, entry 0: the level-1 table; level 1, entry 64: a 1 GiB page, executable and writable
  let s : State := s.poke base (toBytes 8 (base + 2 ^ 21 + 1))
  let s : State := s.poke (base + 2 ^ 21 + 8 * 64) (toBytes 8 (base + 2 ^ 30 + 0xF))
  let s : State := s.poke (base + 2 ^ 30) (toBytes 8 hdr.toNat ++ toBytes 8 w.toNat)
  let desc : Descriptor := ⟨base, clause, 0, 0, 0, 0, 0, false⟩
  { s with
    ctxs := s.ctxs ++ [⟨asid, desc, false, false, false, false, false, false⟩]
    teams := s.teams ++ [bareTeam n (n + 1) (n + 2) asid core (s.freeSlot core) (bareThread clause hdr [w])]
    grids := s.grids ++ [{ s.newGrid (n + 1) 0 asid (bareLaunch clause) none 0 0 [d] with state := .running, placed := 1 }]
    clusters := s.clusters ++ [⟨n + 2, n + 1, 0, d, 0, 0, 1, 1, []⟩]
    nextId := n + 3
    tlb := s.tlb ++ [⟨d, asid, clause, 2 ^ 30, base + 2 ^ 30, true, true, false⟩]
    walked := s.walked ++ [⟨d, asid, 0, true⟩]
    issue := some ⟨core, n, clause, hdr, [w], 0, [0], 0, none, [], [0]⟩ }

end State

end Sys2Proof.Machine
end

