-- ==== Sys2Proof/Machine/Step.lean ====
section
/-! DEFINITION. One step of the part: an instruction of the clause in the issue slot, or, with none there, an input or a step that is
due; then the time it took. -/

namespace Sys2Proof.Machine

/-- One step. -/
def step (s : State) : Host.Outcome State Fault Refusal :=
  match s.stepCore with
  | .next t => .next (s.after t)
  | r => r

/-- `s` with the instruction whose bits are w where the next step fetches it (DESIGN CHOICE, notes/assumptions/10.md). -/
def State.withFetchWord (s : State) (_nbits w : Nat) : State := s.withProgram (BitVec.ofNat 64 w)

end Sys2Proof.Machine
end

