-- ==== Sys2Proof/Safety.lean ====
section
/-! DEFINITION. What counts as a safe run, in the terms that statements use. -/

namespace Sys2Proof

open Machine

/-- A step that answers a next state. -/
def Runs (s : State) : Prop := ∃ t, step s = .next t

/-- k steps from s, each answering a next state. -/
def SafeFor (k : Nat) (s : State) : Prop := ∃ t, core.run k s = .next t

/-- The legal states of memory: canonical form (notes/assumptions/1.md). -/
def MemoryOk (s : State) : Prop := Memory.wf s.mem = true

end Sys2Proof
end

