-- ==== Sys2Proof/Certificates/Slice0/Vocabulary.lean ====
section
/-! DEFINITION. The words that the statements use: which lanes an instruction has, and what it leaves when it writes registers only. -/

namespace Sys2Proof.Spec

open Machine

/-- `sl` is the clause in the issue slot and `t` its team. -/
structure Issuing (s : State) (sl : IssueSlot) (t : Team) : Prop where
  slot : s.issue = some sl
  team : s.team? sl.team = some t

/-- A lane of the instruction: a thread of the group whose guard is true (R77, R81). -/
def Active (t : Team) (sl : IssueSlot) (g : Guard) (x : Thread) : Prop :=
  x ∈ t.threads ∧ x.tid ∈ sl.group ∧ guardOf x.preds g = true

/-- `x` is the lowest of crew c among the lanes `A` (R51). -/
def LowestIn (A : Thread → Prop) (c : Nat) (x : Thread) : Prop :=
  A x ∧ x.crew = c ∧ ∀ y, A y → y.crew = c → y ≠ x → x.lane < y.lane

/-- Every active lane holds the granules of these operand codes (R50). -/
def AllHold (t : Team) (sl : IssueSlot) (g : Guard) (codes : List Reg) : Prop :=
  ∀ x, Active t sl g x → ∀ r ∈ codes, holds (t.crewOf x) r = true

/-- What register r holds after some writes: the value written to it, else the old one. -/
def written (ws : List (Reg × Word)) (r : Reg) (old : Word) : Word := ((ws.find? fun w => w.1 == r).map (·.2)).getD old

/-- A thread after an instruction that wrote `ws` and set its predicates to `p` at index `idx`, with its T bit: its v registers (R49),
what is transient (R54), what the machine remembers of a write to the destination of a load or to a fragment (R55, R184); nothing else of it changed. -/
structure LaneWrote (T : Bool) (idx : Nat) (ws : List (Reg × Word)) (p : BitVec 7) (x x' : Thread) : Prop where
  v : ∀ c r, isV r = true → readReg x' c r = written ws r (readReg x c r)
  transient : ∀ r v, (r, v) ∈ ws → isV r = true → (x'.trans.filter fun q => q.1 == r.toNat) = if T then [(r.toNat, idx + 7)] else []
  kept : ∀ n, (∀ r v, (r, v) ∈ ws → isV r = true → r.toNat ≠ n) → (x'.trans.filter fun q => q.1 == n) = x.trans.filter fun q => q.1 == n
  pend : x'.pend = x.pend.map fun q => if ws.any (fun w => isV w.1 && w.1.toNat == q.code) then { q with written := true } else q
  flips : x'.flips = x.flips.map fun f => match ws.reverse.find? fun w => isV w.1 && w.1.toNat == f.code with
    | some w => { f with old := w.2, written := true }
    | none => f
  frags : x'.frags = x.frags.map fun f => { f with val := ((ws.reverse.find? fun w => isV w.1 && w.1.toNat == f.code).map (·.2)).getD f.val }
  rest : x' = { x with regs := x'.regs, preds := p, trans := x'.trans, pend := x'.pend, flips := x'.flips, frags := x'.frags }

/-- A crew after its lowest active lane wrote `ws`: its k registers (R51), nothing else. -/
structure CrewWrote (ws : List (Reg × Word)) (c c' : Crew) : Prop where
  k : ∀ x r, isV r = false → r ≠ 0xFF#8 → readReg x c' r = written ws r (readReg x c r)
  rest : c' = { c with kregs := c'.kregs }

/-- A lane that holds every operand. -/
def Able (t : Team) (sl : IssueSlot) (g : Guard) (codes : List Reg) (x : Thread) : Prop :=
  Active t sl g x ∧ ∀ r ∈ codes, holds (t.crewOf x) r = true

/-- The machine after the lanes `A` of the group in the issue slot have written registers and predicates only: each has written
`ws` into its own v registers and set its predicates, the lowest of them in each crew has written the crew's k registers, and
nothing else changed: no other thread, crew or team, no memory, no special register. -/
structure RegsWritten (s s' : State) (sl : IssueSlot) (t : Team) (A : Thread → Prop) (T : Bool)
    (ws : Thread → Crew → List (Reg × Word)) (p : Thread → Crew → BitVec 7) : Prop where
  machine : s' = { s with teams := s'.teams }
  others : ∀ id, id ≠ sl.team → s'.team? id = s.team? id
  team : ∃ t', s'.team? sl.team = some t' ∧ t' = { t with threads := t'.threads, crews := t'.crews } ∧
    (∀ tid, t.thread? tid = none → t'.thread? tid = none) ∧ (∀ c, t.crew? c = none → t'.crew? c = none) ∧
    (∀ tid x, t.thread? tid = some x → ∃ x', t'.thread? tid = some x' ∧
      (A x → LaneWrote T sl.idx (ws x (t.crewOf x)) (p x (t.crewOf x)) x x') ∧ (¬ A x → x' = x)) ∧
    (∀ n c, t.crew? n = some c → ∃ c', t'.crew? n = some c' ∧
      (∀ x, LowestIn A n x → CrewWrote (ws x c) c c') ∧ ((∀ x, A x → x.crew ≠ n) → c' = c))

/-- What a register-only instruction does in one lane: guard, T bit, operand codes, registers written and predicates, as functions of
the operands it reads and the lane's predicates. -/
structure RegOp where
  g : Guard
  T : Bool
  codes : List Reg
  ws : (Reg → Word) → BitVec 7 → List (Reg × Word)
  preds : (Reg → Word) → BitVec 7 → BitVec 7

/-- The instruction answers a next state in which every active lane has done `op`, and nothing else, whenever the group's lanes hold
the operands; all operands are read before any result is written. -/
def RunsAs (i : Instr) (op : RegOp) : Prop :=
  ∀ s sl t, Issuing s sl t → AllHold t sl op.g op.codes →
    ∃ s', exec i s = .next s' ∧
      RegsWritten s s' sl t (Active t sl op.g) op.T (fun x c => op.ws (readReg x c) x.preds) (fun x c => op.preds (readReg x c) x.preds)

/-- The same without the hypothesis: the lanes that hold their operands have done `op`, and then each of the others, in ascending lane
order, has taken fault 0x0E for the first operand it lacks (R50). -/
def TrapsAs (i : Instr) (op : RegOp) : Prop :=
  ∀ s sl t, Issuing s sl t →
    ∃ u, exec i s = .next ((t.active sl op.g).foldl (fun s x =>
        match op.codes.find? fun r => !holds (t.crewOf x) r with
        | some r => s.deliver sl.team x.tid sl.clause sl.idx { plainFault 0x0E with detail := r.toNat }
        | none => s) u) ∧
      RegsWritten s u sl t (Able t sl op.g op.codes) op.T (fun x c => op.ws (readReg x c) x.preds) (fun x c => op.preds (readReg x c) x.preds)

/-- One destination register. -/
def one (g : Guard) (T : Bool) (d : Reg) (src : List Reg) (f : (Reg → Word) → Word) : RegOp :=
  ⟨g, T, d :: src, fun v _ => [(d, f v)], fun _ p => p⟩

/-- A pair destination; as kz it discards the result (R52). -/
def pair (g : Guard) (T : Bool) (d : Reg) (src : List Reg) (f : (Reg → Word) → Nat) : RegOp :=
  ⟨g, T, pairCodes d ++ src,
   fun v _ => if d = 0xFF#8 then [] else [(d, BitVec.ofNat 32 (f v)), (d + 1#8, BitVec.ofNat 32 (f v / 2 ^ 32))], fun _ p => p⟩

/-- A predicate destination. -/
def pred (g : Guard) (d : Reg) (src : List Reg) (f : (Reg → Word) → BitVec 7 → Bool) : RegOp :=
  ⟨g, false, src, fun _ _ => [], fun v p => BitVec.ofNat 7 (((List.range 7).map fun n => if (if n = d.toNat then f v p else p.getLsbD n) then 2 ^ n else 0).sum)⟩

/-- The number a pair holds: low word first, kz reads 0 (R52). -/
def pairNat (v : Reg → Word) (r : Reg) : Nat := if r = 0xFF#8 then 0 else (v r).toNat + 2 ^ 32 * (v (r + 1#8)).toNat

end Sys2Proof.Spec
end

