-- ==== Sys2Proof/Certificates/Slice0/Obligations.lean ====
section
/-! DEFINITION. The statements for the provers. -/

/-! ### Integer, address, predicate and move instructions (chapter 6) -/

namespace Sys2Proof.Spec

open Machine

/-- A word as an unsigned and as a signed number (R8). -/
def un (w : Word) : Nat := w.toNat
def sg (w : Word) : Int := if w.toNat < 2 ^ 31 then (w.toNat : Int) else (w.toNat : Int) - 2 ^ 32
/-- `wrap(x, 32)`. -/
def wrap32 (x : Int) : Word := BitVec.ofInt 32 x
/-- The number whose bit i is `f i`. -/
def fromBits (n : Nat) (f : Nat → Bool) : Nat := ((List.range n).map fun i => if f i then 2 ^ i else 0).sum
def ofBits32 (f : Nat → Bool) : Word := BitVec.ofNat 32 (fromBits 32 f)
/-- R102: the smaller or larger of two words under a view. -/
def lower (sgn : Bool) (a b : Word) : Word := if sgn then (if sg b < sg a then b else a) else (if un b < un a then b else a)
def higher (sgn : Bool) (a b : Word) : Word := if sgn then (if sg a < sg b then b else a) else (if un a < un b then b else a)
/-- R105. -/
def shiftL (a n : Word) : Word := if 32 ≤ un n then 0 else BitVec.ofNat 32 (un a * 2 ^ un n)
def shiftR (a n : Word) : Word := if 32 ≤ un n then 0 else BitVec.ofNat 32 (un a / 2 ^ un n)
def shiftS (a n : Word) : Word := wrap32 (sg a / 2 ^ min (un n) 31)
def rotate (a n : Word) : Word := BitVec.ofNat 32 (un a * 2 ^ (un n % 32) % 2 ^ 32 + un a / 2 ^ (32 - un n % 32))
/-- R107: position, effective length, and what the two instructions compute. -/
def ctlPos (c : Word) : Nat := un c % 256
def ctlLen (c : Word) : Nat := if un c / 256 % 256 = 0 ∨ 32 ≤ ctlPos c then 0 else min (un c / 256 % 256) (32 - ctlPos c)
def fieldOf (a c : Word) : Nat := un a / 2 ^ ctlPos c % 2 ^ ctlLen c
def extract (sx : Bool) (a c : Word) : Word :=
  if ctlLen c = 0 then 0
  else if sx ∧ 2 ^ (ctlLen c - 1) ≤ fieldOf a c then wrap32 ((fieldOf a c : Int) - 2 ^ ctlLen c) else BitVec.ofNat 32 (fieldOf a c)
def insert (a b c : Word) : Word :=
  ofBits32 fun i => if ctlPos c ≤ i ∧ i < ctlPos c + ctlLen c then (un b).testBit (i - ctlPos c) else (un a).testBit i
/-- R108: byte i of the pool, what a code byte makes of it, and PRMT. -/
def poolByte (a b : Word) (i : Nat) : Nat := (un a + 2 ^ 32 * un b) / 256 ^ i % 256
def codeByte (a b : Word) (g : Nat) : Nat :=
  let p := poolByte a b (g % 8)
  if g / 16 % 4 = 0 then (if g.testBit 3 then p % 16 * 16 + p / 16 else p)
  else if g / 16 % 4 = 1 then 0x00
  else if g / 16 % 4 = 2 then 0xFF
  else if p.testBit 7 then 0xFF else 0x00
def permute (a b c : Word) : Word :=
  BitVec.ofNat 32 (((List.range 4).map fun i => codeByte a b (un c / 256 ^ i % 256) * 256 ^ i).sum)
/-- R109: a comparison under a view. -/
def compared (m : ICmp) (uns : Bool) (a b : Word) : Bool :=
  let x : Int := if uns then un a else sg a
  let y : Int := if uns then un b else sg b
  match m with
  | .eq => decide (x = y) | .ne => decide (x ≠ y) | .lt => decide (x < y) | .le => decide (x ≤ y) | .gt => decide (y < x) | .ge => decide (y ≤ x)

/-- Sums, products, minima, maxima and absolute values (R101, R102, R113). -/
def arithmeticOps : Instr → Option RegOp
  | .iadd g T m d a b => some <| one g T d [a, b] fun v => match m with
    | .wrap => wrap32 (un (v a) + un (v b))
    | .satSgn => wrap32 (max (-2 ^ 31) (min (2 ^ 31 - 1) (sg (v a) + sg (v b))))
    | .satUns => wrap32 (max 0 (min (2 ^ 32 - 1) ((un (v a) : Int) + un (v b))))
  | .isub g T m d a b => some <| one g T d [a, b] fun v => match m with
    | .wrap => wrap32 ((un (v a) : Int) - un (v b))
    | .satSgn => wrap32 (max (-2 ^ 31) (min (2 ^ 31 - 1) (sg (v a) - sg (v b))))
    | .satUns => wrap32 (max 0 (min (2 ^ 32 - 1) ((un (v a) : Int) - un (v b))))
  | .imul g T d a b => some <| one g T d [a, b] fun v => BitVec.ofNat 32 (un (v a) * un (v b))
  | .imulhi g T sgn d a b => some <| one g T d [a, b] fun v =>
      if sgn then wrap32 ((sg (v a) * sg (v b)) / 2 ^ 32) else BitVec.ofNat 32 (un (v a) * un (v b) / 2 ^ 32)
  | .imad g T d a b c => some <| one g T d [a, b, c] fun v => BitVec.ofNat 32 (un (v a) * un (v b) + un (v c))
  | .imin g T sgn d a b => some <| one g T d [a, b] fun v => lower sgn (v a) (v b)
  | .imax g T sgn d a b => some <| one g T d [a, b] fun v => higher sgn (v a) (v b)
  | .iabs g T sat d a => some <| one g T d [a] fun v => if sat ∧ un (v a) = 2 ^ 31 then wrap32 (2 ^ 31 - 1) else wrap32 |sg (v a)|
  | .iaddImm g d a imm => some <| one g false d [a] fun v => wrap32 (un (v a) + un imm)
  | .imulImm g d a imm => some <| one g false d [a] fun v => BitVec.ofNat 32 (un (v a) * un imm)
  | .iminImm g uns d a imm => some <| one g false d [a] fun v => lower (!uns) (v a) imm
  | .imaxImm g uns d a imm => some <| one g false d [a] fun v => higher (!uns) (v a) imm
  | _ => none

/-- Bitwise functions, shifts and counts (R105, R106, R113). -/
def bitwiseOps : Instr → Option RegOp
  | .and g T d a b => some <| one g T d [a, b] fun v => ofBits32 fun i => (un (v a)).testBit i && (un (v b)).testBit i
  | .or g T d a b => some <| one g T d [a, b] fun v => ofBits32 fun i => (un (v a)).testBit i || (un (v b)).testBit i
  | .xor g T d a b => some <| one g T d [a, b] fun v => ofBits32 fun i => (un (v a)).testBit i != (un (v b)).testBit i
  | .andn g T d a b => some <| one g T d [a, b] fun v => ofBits32 fun i => (un (v a)).testBit i && !(un (v b)).testBit i
  | .shl g T d a b => some <| one g T d [a, b] fun v => shiftL (v a) (v b)
  | .shr g T d a b => some <| one g T d [a, b] fun v => shiftR (v a) (v b)
  | .sar g T d a b => some <| one g T d [a, b] fun v => shiftS (v a) (v b)
  | .rotl g T d a b => some <| one g T d [a, b] fun v => rotate (v a) (v b)
  | .clz g T d a => some <| one g T d [a] fun v => BitVec.ofNat 32 (if un (v a) = 0 then 32 else 31 - Nat.log2 (un (v a)))
  | .popc g T d a => some <| one g T d [a] fun v => BitVec.ofNat 32 (((List.range 32).filter fun i => (un (v a)).testBit i).length)
  | .brev g T d a => some <| one g T d [a] fun v => ofBits32 fun i => (un (v a)).testBit (31 - i)
  | .andImm g d a imm => some <| one g false d [a] fun v => ofBits32 fun i => (un (v a)).testBit i && (un imm).testBit i
  | .orImm g d a imm => some <| one g false d [a] fun v => ofBits32 fun i => (un (v a)).testBit i || (un imm).testBit i
  | .xorImm g d a imm => some <| one g false d [a] fun v => ofBits32 fun i => (un (v a)).testBit i != (un imm).testBit i
  | .andnImm g d a imm => some <| one g false d [a] fun v => ofBits32 fun i => (un (v a)).testBit i && !(un imm).testBit i
  | .shlImm g d a imm => some <| one g false d [a] fun v => shiftL (v a) imm
  | .shrImm g d a imm => some <| one g false d [a] fun v => shiftR (v a) imm
  | .sarImm g d a imm => some <| one g false d [a] fun v => shiftS (v a) imm
  | .rotlImm g d a imm => some <| one g false d [a] fun v => rotate (v a) imm
  | _ => none

/-- Bit fields, byte permutes, selection, moves and 64-bit sums (R103, R107, R108, R109, R112, R113). -/
def fieldOps : Instr → Option RegOp
  | .bfx g T sx d a b => some <| one g T d [a, b] fun v => extract sx (v a) (v b)
  | .bfi g T d a b c => some <| one g T d [a, b, c] fun v => insert (v a) (v b) (v c)
  | .prmt g T d a b c => some <| one g T d [a, b, c] fun v => permute (v a) (v b) (v c)
  | .sel g T neg p d a b => some
      ⟨g, T, [d, a, b], fun v ps => [(d, if (if p = 7#3 then true else ps.getLsbD p.toNat) ≠ neg then v a else v b)], fun _ ps => ps⟩
  | .mov g T b64 d a => some <| if b64 then pair g T d (pairCodes a) fun v => pairNat v a else one g T d [a] fun v => v a
  | .movi g m d imm => some <| match m with
    | .w32 => one g false d [] fun _ => imm
    | .sx => pair g false d [] fun _ => (sg imm % 2 ^ 64).toNat
    | .zx => pair g false d [] fun _ => un imm
  | .iadd64 g T m d a b => some <| match m with
    | .pair => pair g T d (pairCodes a ++ pairCodes b) fun v => (pairNat v a + pairNat v b) % 2 ^ 64
    | .zx => pair g T d (pairCodes a ++ [b]) fun v => (pairNat v a + un (v b)) % 2 ^ 64
    | .sx => pair g T d (pairCodes a ++ [b]) fun v => (((pairNat v a : Int) + sg (v b)) % 2 ^ 64).toNat
  | .lea g T sx sh d a b => some <| pair g T d (pairCodes a ++ [b]) fun v =>
      (((pairNat v a : Int) + (if sx then sg (v b) else (un (v b) : Int)) * 2 ^ sh.toNat) % 2 ^ 64).toNat
  | .iadd64Imm g d a imm => some <| pair g false d (pairCodes a) fun v => (((pairNat v a : Int) + sg imm) % 2 ^ 64).toNat
  | _ => none

/-- Predicates: comparisons, truth tables, and their moves to and from a register (R109, R110, R111). -/
def predicateOps : Instr → Option RegOp
  | .iset g uns m d a b => some <| pred g d [a, b] fun v _ => compared m uns (v a) (v b)
  | .plop g tt d x y => some <| pred g d [] fun _ ps =>
      let src (q : PSrc) : Bool := (if q.p = 7#3 then true else ps.getLsbD q.p.toNat) != q.neg
      tt.toNat.testBit (2 * (if src x then 1 else 0) + if src y then 1 else 0)
  | .movp g T toPred r => some <|
      if toPred then ⟨g, false, [r], fun _ _ => [], fun v _ => BitVec.ofNat 7 (un (v r) % 128)⟩
      else ⟨g, T, [r], fun _ ps => [(r, BitVec.ofNat 32 (fromBits 7 fun i => ps.getLsbD i))], fun _ ps => ps⟩
  | _ => none

end Sys2Proof.Spec

open Sys2Proof Sys2Proof.Machine Sys2Proof.Spec

/-- R101, R102, R113: sums, products, minima, maxima and absolute values. -/
def Obligations.IntegerArithmetic : Prop := ∀ i op, arithmeticOps i = some op → RunsAs i op

/-- R105, R106, R113: bitwise functions, shifts, rotation, counts and reversal of bits. -/
def Obligations.BitwiseShiftsCounts : Prop := ∀ i op, bitwiseOps i = some op → RunsAs i op

/-- R103, R107, R108, R109, R112, R113: bit fields, PRMT, SEL, moves and 64-bit sums. -/
def Obligations.FieldsMovesPairs : Prop := ∀ i op, fieldOps i = some op → RunsAs i op

/-- R109, R110, R111: predicate destinations. -/
def Obligations.PredicateInstructions : Prop := ∀ i op, predicateOps i = some op → RunsAs i op

/-! ### Floating point, conversion and random numbers (chapter 7) -/

namespace Sys2Proof.Spec

open Machine

/-- The magnitude bits of an FP32 word, and the classes they give (R18). -/
def mag (w : Word) : Nat := un w % 2 ^ 31
def isNaN (w : Word) : Bool := decide (0x7F800000 < mag w)
/-- FP32 words in order of value: `key` puts −0 below +0, `rank` holds the two zeros equal. -/
def key (w : Word) : Int := if un w < 2 ^ 31 then (mag w : Int) else -(mag w : Int) - 1
def rank (w : Word) : Int := if un w < 2 ^ 31 then (mag w : Int) else -(mag w : Int)
def qNaN : Word := 0x7FC00000#32

/-- R132. -/
def fpLower (a b : Word) : Word := if 0x7F800000 < mag a then (if 0x7F800000 < mag b then qNaN else b) else if 0x7F800000 < mag b then a else if key b < key a then b else a
def fpHigher (a b : Word) : Word := if 0x7F800000 < mag a then (if 0x7F800000 < mag b then qNaN else b) else if 0x7F800000 < mag b then a else if key a < key b then b else a
/-- Table 7.2. -/
def fpCompared (m : FCmp) (a b : Word) : Bool :=
  let uo := decide (0x7F800000 < mag a) || decide (0x7F800000 < mag b)
  match m with
  | .eq => !uo && decide (rank a = rank b) | .ne => uo || decide (rank a ≠ rank b) | .lt => !uo && decide (rank a < rank b)
  | .le => !uo && decide (rank a ≤ rank b) | .gt => !uo && decide (rank b < rank a) | .ge => !uo && decide (rank b ≤ rank a)
  | .uo => uo | .ord => !uo
/-- Table 7.3: the class of a word, as a bit number. -/
def fpClass (a : Word) : Nat :=
  let neg := decide (2 ^ 31 ≤ un a)
  if 0x7F800000 < mag a then 8
  else if mag a = 0x7F800000 then (if neg then 0 else 7)
  else if 2 ^ 23 ≤ mag a then (if neg then 1 else 6)
  else if 0 < mag a then (if neg then 2 else 5)
  else if neg then 3 else 4
/-- Element e of a packed word, and the two elements packed (R136). -/
def elem (w : Word) (e : Nat) : Nat := un w / 2 ^ (16 * e) % 2 ^ 16
def packed (f : Nat → Nat) : Word := BitVec.ofNat 32 (f 0 + 2 ^ 16 * f 1)
def half (bf : Bool) : Fmt := if bf then bf16 else fp16

/-- FADD to FFMA, FSCALE and FRND by the exact value and the one conversion of R27; the packed forms element by element (R130,
R131, R135, R136); FMIN, FMAX and FCLASS on the words (R132, R134). -/
def floatOps : Instr → Option RegOp
  | .fadd g T r d a b => some <| one g T d [a, b] fun v => to32 r (FVal.add (r == .rdn) (dec32 (v a)) (dec32 (v b)))
  | .fsub g T r d a b => some <| one g T d [a, b] fun v => to32 r (FVal.add (r == .rdn) (dec32 (v a)) (dec32 (v b)).neg)
  | .fmul g T r d a b => some <| one g T d [a, b] fun v => to32 r (FVal.mul (dec32 (v a)) (dec32 (v b)))
  | .ffma g T r d a b c => some <| one g T d [a, b, c] fun v =>
      to32 r (FVal.add (r == .rdn) (FVal.mul (dec32 (v a)) (dec32 (v b))) (dec32 (v c)))
  | .fmin g T d a b => some <| one g T d [a, b] fun v => fpLower (v a) (v b)
  | .fmax g T d a b => some <| one g T d [a, b] fun v => fpHigher (v a) (v b)
  | .fclass g T d a => some <| one g T d [a] fun v => BitVec.ofNat 32 (2 ^ fpClass (v a))
  | .fscale g T r d a b => some <| one g T d [a, b] fun v =>
      match dec32 (v a) with
      | .nan => qNaN
      | .inf _ => v a
      | .fin neg n m => if n = 0 then v a else
          to32 r (if 0 ≤ sg (v b) then .fin neg (n * 2 ^ (sg (v b)).toNat) m else .fin neg n (m * 2 ^ (-sg (v b)).toNat))
  | .frnd g T r d a => some <| one g T d [a] fun v =>
      match dec32 (v a) with
      | .nan => qNaN
      | .inf _ => v a
      | .fin neg n m => if n = 0 ∨ 2 ^ 23 * m ≤ n then v a else to32 .rne (.fin neg (roundInt r 0 neg n m).natAbs 1)
  | .hadd2 g T bf r d a b => some <| one g T d [a, b] fun v => packed fun e =>
      convert (half bf) r false 0 (FVal.add (r == .rdn) (decodeF (half bf) (elem (v a) e)) (decodeF (half bf) (elem (v b) e)))
  | .hmul2 g T bf r d a b => some <| one g T d [a, b] fun v => packed fun e =>
      convert (half bf) r false 0 (FVal.mul (decodeF (half bf) (elem (v a) e)) (decodeF (half bf) (elem (v b) e)))
  | .hfma2 g T bf r d a b c => some <| one g T d [a, b, c] fun v => packed fun e =>
      convert (half bf) r false 0 (FVal.add (r == .rdn)
        (FVal.mul (decodeF (half bf) (elem (v a) e)) (decodeF (half bf) (elem (v b) e))) (decodeF (half bf) (elem (v c) e)))
  | .fset g m d a b => some <| pred g d [a, b] fun v _ => fpCompared m (v a) (v b)
  | _ => none

/-- Conversions: the value of the source, rounded once to the destination (R141 to R145), and the generator (R148). -/
def conversionOps : Instr → Option RegOp
  | .f2i g T m r d a => some <| one g T d [a] fun v => match m with
    | .int32 => wrap32 (convertInt (-2 ^ 31) (2 ^ 31 - 1) r 0 (dec32 (v a)))
    | .int8 => wrap32 (convertInt (-128) 127 r 0 (dec32 (v a)))
    | .uint8 => wrap32 (convertInt 0 255 r 0 (dec32 (v a)))
  | .i2f g T uns r d a => some <| one g T d [a] fun v =>
      let x : Int := if uns then un (v a) else sg (v a)
      to32 r (.fin (decide (x < 0)) x.natAbs 1)
  | .fcvt g T sat src dst r d a c => some <| one g T d (if r = .sr then [a, c] else [a]) fun v =>
      let x := match src with | .f32 => dec32 (v a) | .bf16 => decodeF bf16 (un (v a) % 2 ^ 16) | .f16 => decodeF fp16 (un (v a) % 2 ^ 16)
      let f := match dst with | .f32 => fp32 | .bf16 => bf16 | .f16 => fp16
      BitVec.ofNat 32 (convert f r sat (if r = .sr then un (v c) else 0) x)
  | .qcvt g T sat sr code d a b c => some <| one g T d (pairCodes a ++ pairCodes b ++ if sr then quadCodes c else []) fun v =>
      let r : Rnd := if sr then .sr else .rne
      let byte (e : Nat) (w : Nat) : Nat :=
        let out := if sr then un (v (c + BitVec.ofNat 8 e)) else 0
        match code.toNat with
        | 0x04 => (convertInt (-128) 127 r out (dec32 (BitVec.ofNat 32 w)) % 256).toNat
        | 0x05 => (convertInt 0 255 r out (dec32 (BitVec.ofNat 32 w)) % 256).toNat
        | k => (match fmtOf k with | some f => convert f r sat out (dec32 (BitVec.ofNat 32 w)) | none => 0) % 256
      BitVec.ofNat 32 (byte 0 (pairNat v a) + 2 ^ 8 * byte 1 (pairNat v a / 2 ^ 32) + 2 ^ 16 * byte 2 (pairNat v b) +
        2 ^ 24 * byte 3 (pairNat v b / 2 ^ 32))
  | .dqcvt g T code d a => some
      ⟨g, T, quadCodes d ++ [a], fun v _ => (List.range 4).map fun e =>
        let b := un (v a) / 256 ^ e % 256
        (d + BitVec.ofNat 8 e, to32 .rne (match code.toNat with
          | 0x04 => ofInteger (if b < 128 then (b : Int) else (b : Int) - 256)
          | 0x05 => ofInteger b
          | k => match fmtOf k with | some f => decodeF f b | none => .nan)),
       fun _ p => p⟩
  | .rng g T d a b => some <| one g T d (pairCodes a ++ pairCodes b) fun v =>
      srgen (BitVec.ofNat 32 (pairNat v a)) (BitVec.ofNat 32 (pairNat v a / 2 ^ 32)) (BitVec.ofNat 32 (pairNat v b / 2 ^ 32)) (BitVec.ofNat 32 (pairNat v b))
  | .rngf g T d a b => some <| one g T d (pairCodes a ++ pairCodes b) fun v =>
      to32 .rne (.fin false (un (srgen (BitVec.ofNat 32 (pairNat v a)) (BitVec.ofNat 32 (pairNat v a / 2 ^ 32))
        (BitVec.ofNat 32 (pairNat v b / 2 ^ 32)) (BitVec.ofNat 32 (pairNat v b))) / 2 ^ 8) (2 ^ 24))
  | _ => none

/-- The sign of a·b as a word's top bit. -/
def signOf2 (a b : Word) : Word := if decide (2 ^ 31 ≤ un a) = decide (2 ^ 31 ≤ un b) then 0 else 0x80000000#32
def pInf : Word := 0x7F800000#32
def nInf : Word := 0xFF800000#32
def pOne : Word := 0x3F800000#32

/-- Table 7.4: the special result of an instruction for its operands; the second is FDIV's. -/
def special : Instr → Word → Word → Option Word
  | .frcp .., a, _ => if isNaN a then some qNaN else if mag a = 0 then some (signOf2 a 0 ||| pInf) else if mag a = 0x7F800000 then some (signOf2 a 0) else none
  | .frsq .., a, _ => if isNaN a then some qNaN else if mag a = 0 then some (signOf2 a 0 ||| pInf) else if 2 ^ 31 ≤ un a then some qNaN
      else if a = pInf then some 0 else none
  | .fsqrt .., a, _ => if isNaN a then some qNaN else if mag a = 0 then some a else if 2 ^ 31 ≤ un a then some qNaN else if a = pInf then some a else none
  | .fdiv .., a, b => if isNaN a ∨ isNaN b then some qNaN
      else if mag a = 0x7F800000 then (if mag b = 0x7F800000 then some qNaN else some (signOf2 a b ||| pInf))
      else if mag b = 0x7F800000 then some (signOf2 a b)
      else if mag b = 0 then (if mag a = 0 then some qNaN else some (signOf2 a b ||| pInf))
      else if mag a = 0 then some (signOf2 a b) else none
  | .fexp2 .., a, _ => if isNaN a then some qNaN else if a = nInf then some 0 else if a = pInf then some pInf else if mag a = 0 then some pOne else none
  | .flog2 .., a, _ => if isNaN a then some qNaN else if mag a = 0 then some nInf else if 2 ^ 31 ≤ un a then some qNaN else if a = pInf then some pInf
      else if a = pOne then some 0 else none
  | .fsin .., a, _ => if isNaN a ∨ mag a = 0x7F800000 then some qNaN else if mag a = 0 then some a else none
  | .fcos .., a, _ => if isNaN a ∨ mag a = 0x7F800000 then some qNaN else if mag a = 0 then some pOne else none
  | _, _, _ => none

/-- Division, roots and transcendental functions: whether the form is `.ax`, and what a lane does. Where Table 7.4 gives no
result, FRCP.cr and FDIV.cr round the exact quotient once, and the others write the model's value of the function. -/
def functionOps : Instr → Option (Bool × RegOp)
  | i@(.frcp g T ax d a) => some (ax, one g T d [a] fun v => (special i (v a) 0).getD <|
      if ax then frcpOf true (v a) else match dec32 (v a) with | .fin neg n m => to32 .rne (.fin neg m n) | _ => qNaN)
  | i@(.frsq g T ax d a) => some (ax, one g T d [a] fun v => (special i (v a) 0).getD (frsqOf ax (v a)))
  | i@(.fsqrt g T ax r d a) => some (ax, one g T d [a] fun v => (special i (v a) 0).getD (fsqrtOf ax r (v a)))
  | i@(.fdiv g T ax r d a b) => some (ax, one g T d [a, b] fun v => (special i (v a) (v b)).getD <|
      if ax then fdivOf true r (v a) (v b)
      else match dec32 (v a), dec32 (v b) with | .fin s n m, .fin t n' m' => to32 r (.fin (s != t) (n * m') (m * n')) | _, _ => qNaN)
  | i@(.fexp2 g T ax d a) => some (ax, one g T d [a] fun v => (special i (v a) 0).getD (fexp2Of ax (v a)))
  | i@(.flog2 g T ax d a) => some (ax, one g T d [a] fun v => (special i (v a) 0).getD (flog2Of ax (v a)))
  | i@(.fsin g T ax d a) => some (ax, one g T d [a] fun v => (special i (v a) 0).getD (fsinOf ax (v a)))
  | i@(.fcos g T ax d a) => some (ax, one g T d [a] fun v => (special i (v a) 0).getD (fcosOf ax (v a)))
  | _ => none

/-- The determinism level of the queue a team runs for: QCTL[10:9], 3 is PORTABLE (R336). -/
def detOf (s : State) (t : Team) : Nat := (s.queue t.queue).ctl.toNat / 2 ^ 9 % 4

/-- MXQ's block: lane i's operand, +0 for a lane that is not active or lacks an operand (R146, R147). -/
def laneOperand (t : Team) (sl : IssueSlot) (g : Guard) (codes : List Reg) (r : Reg) (i : Nat) : Option Word :=
  ((t.active sl g).find? fun x => x.lane == i && codes.all fun q => holds (t.crewOf x) q).map fun x => readReg x (t.crewOf x) r

/-- Every register-only instruction with its lane's effect; the `.ax` forms below PORTABLE only. -/
def registerOps (i : Instr) : Option RegOp :=
  ((arithmeticOps i).or <| (bitwiseOps i).or <| (fieldOps i).or <| (predicateOps i).or <| (floatOps i).or <| conversionOps i).or <|
    (functionOps i).bind fun p => if p.1 then none else some p.2

end Sys2Proof.Spec

/-- R130 to R136: FP32 and packed arithmetic, minima, maxima, comparison, class, scaling and rounding to an integer. -/
def Obligations.FloatArithmetic : Prop := ∀ i op, floatOps i = some op → RunsAs i op

/-- R141 to R145, R148: conversions, quantisation and random words. -/
def Obligations.ConversionsAndRandom : Prop := ∀ i op, conversionOps i = some op → RunsAs i op

/-- R138, R140: division, roots and transcendental functions, in the `.cr` forms at every level and the `.ax` forms below PORTABLE. Where no
special result applies the values are those of the model's functions, a free value within the bound for `.ax` (log entry 9); the signed zero of
FDIV.ax of a zero by a finite nonzero divisor, and the signed infinity of FDIV of an infinity by a finite divisor, are the model's choices (log
entry 83). -/
def Obligations.FunctionsSpecialResults : Prop := ∀ i ax op, functionOps i = some (ax, op) →
  ∀ s sl t, Issuing s sl t → AllHold t sl op.g op.codes → (ax = true → detOf s t ≠ 3) →
    ∃ s', exec i s = .next s' ∧
      RegsWritten s s' sl t (Active t sl op.g) op.T (fun x c => op.ws (readReg x c) x.preds) (fun x c => op.preds (readReg x c) x.preds)

/-- R140: at PORTABLE an `.ax` form delivers 0x0A to each of its lanes, in ascending lane order, and writes nothing. -/
def Sys2Proof.Spec.AxTrapsAtPortable : Prop := ∀ i op, functionOps i = some (true, op) →
  ∀ s sl t, Issuing s sl t → AllHold t sl op.g op.codes → detOf s t = 3 →
    exec i s = .next ((t.active sl op.g).foldl (fun s x => s.deliver sl.team x.tid sl.clause sl.idx (plainFault 0x0A)) s)

/-- R146: MXQ quantises the block of the crew's lanes, and each active lane writes its word of Table 7.6. -/
def Obligations.MxqWritesBlock : Prop := ∀ s sl t g T sr d a b, Issuing s sl t →
  let codes := d :: if sr then [a, b] else [a]
  AllHold t sl g codes →
  let block := toMxfp4
    ((List.range 32).map fun i => match laneOperand t sl g codes a i with | some w => dec32 w | none => .fin false 0 1)
    (if sr then .sr else .rne)
    ((List.range 32).map fun i => if sr then ((laneOperand t sl g codes b i).map un).getD 0 else 0)
  ∃ s', exec (.mxq g T sr d a b) s = .next s' ∧
    RegsWritten s s' sl t (Active t sl g) T (fun x _ => [(d,
      if x.lane < 4 then BitVec.ofNat 32 (((List.range 8).map fun j => (block.2.getD (8 * x.lane + j) 0) % 16 * 16 ^ j).sum)
      else BitVec.ofNat 32 block.1)]) (fun x _ => x.preds)

/-- R50, R51, R55: a lane that lacks an operand takes fault 0x0E while the other lanes complete, for every instruction that writes
registers or predicates only. Which code the frame names where a lane lacks several, the first of d, a, b, c, is the model's choice (log entry
96). -/
def Sys2Proof.Spec.OperandRangeTrap : Prop := ∀ i op, registerOps i = some op → TrapsAs i op

/-! ### Memory instructions at issue (chapter 8) -/

namespace Sys2Proof.Spec

open Machine

/-- The lanes of an instruction in ascending lane order. -/
def lanesOf (t : Team) (sl : IssueSlot) (g : Guard) : List Thread := t.active sl g

/-- The signed 11-bit offset, in units of the access size (R151). -/
def offset (off : BitVec 11) (m : Size) : Int := (if off.toNat < 2 ^ 10 then (off.toNat : Int) else (off.toNat : Int) - 2 ^ 11) * m.bytes
/-- R151: the 64-bit address from a pair, and the 32-bit address from a register. -/
def farAddr (x : Thread) (c : Crew) (base : Reg) (off : BitVec 11) (m : Size) : Nat :=
  (((pairNat (readReg x c) base : Int) + offset off m) % 2 ^ 64).toNat
def nearAddr (x : Thread) (c : Crew) (base : Reg) (off : BitVec 11) (m : Size) : Nat :=
  (((un (readReg x c base) : Int) + offset off m) % 2 ^ 32).toNat
/-- R104: bits [63:56] all equal bit 56. -/
def isCanonical (a : Nat) : Prop := a / 2 ^ 56 = 0 ∨ a / 2 ^ 56 = 255

/-- The bytes of a register, pair or quad, low bytes first (R5, R156). -/
def dataOf (x : Thread) (c : Crew) (r : Reg) (m : Size) : List Byte :=
  let w (i : Nat) : Nat := if r = 0xFF#8 then 0 else un (readReg x c (r + BitVec.ofNat 8 i))
  (List.range m.bytes).map fun i => BitVec.ofNat 8 (w (i / 4) / 256 ^ (i % 4))

/-- The destination of a lane's access: a k register is written by the lowest lane of its crew only (R51, R153). -/
def laneDest (ls : List Thread) (x : Thread) (d : Reg) : Reg :=
  if isK d = true ∧ (lowestLane (ls.filter fun y => y.crew == x.crew)).map (·.tid) ≠ some x.tid then 0xFF#8 else d

/-- Scopes by width (Table 14.1), and the wider of two. -/
def width : Scope → Nat | .crew => 0 | .team => 1 | .cluster => 2 | .device => 3 | .system => 4
def wider (a b : Scope) : Scope := if width a < width b then b else a
/-- R155, R270: the scope at which an access of thread x is a release: the one it states, and, for a write, an arrival or a pass, that of
the release fences that the thread has executed, whichever is wider. -/
def releaseAt (x : Thread) (a : Access) : Option Scope :=
  let fence : Bool := match a.kind with | .fence => true | _ => false
  let load : Bool := match a.kind with | .load _ | .fill => true | _ => false
  let own : Option Scope := if load = false ∧ (a.order = .rel ∨ a.order = .ar) then some a.scope else none
  if load || fence then own
  else match own, x.fenceRel with | some p, some q => some (wider p q) | none, q => q | p, none => p

/-- R270: the widest acquire fence that stands behind the instruction in its clause, unguarded (log entry 86). -/
def fenceBehind (sl : IssueSlot) : Option Scope :=
  (((sl.words.take (sl.hdr.toNat / 2 ^ 52 % 16 + 1)).drop (sl.idx + 1)).filterMap fun w =>
    match decodeWord w with
    | .ok (.fence g o sc) => if (o = .acq ∨ o = .ar) ∧ g.p = 7#3 ∧ g.neg = false then some sc else none
    | _ => none).foldl (fun m sc => match m with | none => some sc | some w => some (wider w sc)) none

/-- A new access of thread x at the instruction in the issue slot: what it is, where it acts, what it carries, and the destination that the
instruction names. -/
def newAccess (sl : IssueSlot) (t : Team) (x : Thread) (kind : AccKind) (space : Space) (addr named : Nat) (m : Size) (scope : Scope)
    (order : Order) (hint : Hint) (dst : Reg) (data : List Byte) (cmp : DWord) (named' : Reg := 0xFF#8) : Access :=
  { id := 0, kind := kind, space := space, addr := addr, named := named, size := m.bytes,
    sizeCode := (match m with | .b8 => 0 | .b16 => 1 | .b32 => 2 | .b64 => 3 | .b128 => 4), scope := scope, order := order, relAt := none, fenceAcq := fenceBehind sl, hint := hint,
    core := t.core, team := t.id, asid := t.asid, tid := x.tid, data := data, cmp := cmp, dst := dst, slotDst := named', lanes := [], group := 0,
    clause := sl.clause, idx := sl.idx, snapshot := x.window, bad := none, badClass := 0, parked := none, after := [], half := none,
    served := none, taken := none, asked := false }

/-- A memory instruction: guard, operand codes, whether it counts in `ld` (else in `st`), the condition under which a lane's access
passes the checks made at issue, the cause and the reported address of its precise fault otherwise, and the access. -/
structure MemOp where
  g : Guard
  codes : List Reg
  size : Size
  kind : Nat
  isLoad : Bool
  trap : State → Team → Thread → Option (Byte × Option Nat)
  acc : State → IssueSlot → Team → List Thread → Thread → Access

/-- Steps 2 and 3 of R152 on a global address. -/
def farTrap (a : Nat) (m : Size) : Option (Byte × Option Nat) :=
  if a % m.bytes ≠ 0 then some (0x12, some a) else if a / 2 ^ 56 = 0 ∨ a / 2 ^ 56 = 255 then none else some (0x06, some a)
/-- Steps 2 and 3 of R152 on a private or window address (Table 8.2). -/
def nearTrap (s : State) (t : Team) (x : Thread) (scope : Scope) (a : Nat) (m : Size) : Option (Byte × Option Nat) :=
  if a % m.bytes ≠ 0 then some (0x12, some a)
  else match s.localSpace t x scope a m with | .error c => some (c, some a) | .ok _ => none
/-- Where a private or window access acts. -/
def nearPlace (s : State) (t : Team) (x : Thread) (scope : Scope) (a : Nat) (m : Size) : Space × Nat :=
  match s.localSpace t x scope a m with | .ok p => p | .error _ => (.priv, 0)
/-- Table 8.4. -/
def atomTrap (s : State) (t : Team) (op : AtomOp) (scope : Scope) (returns : Bool) : Option (Byte × Option Nat) :=
  if 1 ≤ detOf s t ∧ (op = .fadd ∨ (scope ≠ .crew ∧ scope ≠ .team ∧ (op = .cas ∨ op = .exch ∨ returns = true))) then some (0x0A, none) else none

def memOps : Instr → Option MemOp
  | .ld g sx m r base => some ⟨g, sizedCodes m.size r ++ pairCodes base, m.size, 0, true,
      fun _ t x => farTrap (farAddr x (t.crewOf x) base m.off m.size) m.size,
      fun _ sl t ls x => let a := farAddr x (t.crewOf x) base m.off m.size
        newAccess sl t x (.load sx) .global a a m.size m.scope m.order m.hint (laneDest ls x r) [] 0 r⟩
  | .st g m r base => some ⟨g, sizedCodes m.size r ++ pairCodes base, m.size, 1, false,
      fun _ t x => farTrap (farAddr x (t.crewOf x) base m.off m.size) m.size,
      fun _ sl t _ x => let a := farAddr x (t.crewOf x) base m.off m.size
        newAccess sl t x .store .global a a m.size m.scope m.order m.hint 0xFF#8 (dataOf x (t.crewOf x) r m.size) 0⟩
  | .lds g sx m r base => some ⟨g, sizedCodes m.size r ++ [base], m.size, 0, true,
      fun s t x => nearTrap s t x m.scope (nearAddr x (t.crewOf x) base m.off m.size) m.size,
      fun s sl t ls x => let a := nearAddr x (t.crewOf x) base m.off m.size
        let p := nearPlace s t x m.scope a m.size
        newAccess sl t x (.load sx) p.1 p.2 a m.size m.scope m.order m.hint (laneDest ls x r) [] 0 r⟩
  | .sts g m r base => some ⟨g, sizedCodes m.size r ++ [base], m.size, 1, false,
      fun s t x => nearTrap s t x m.scope (nearAddr x (t.crewOf x) base m.off m.size) m.size,
      fun s sl t _ x => let a := nearAddr x (t.crewOf x) base m.off m.size
        let p := nearPlace s t x m.scope a m.size
        newAccess sl t x .store p.1 p.2 a m.size m.scope m.order m.hint 0xFF#8 (dataOf x (t.crewOf x) r m.size) 0⟩
  | .ldp g size off r base => some ⟨g, sizedCodes size r ++ [base], size, 0, true,
      fun s t x => let a := nearAddr x (t.crewOf x) base off size
        if a % size.bytes ≠ 0 then some (0x12, some a)
        else if (((s.grid? t.grid).map fun gr => gr.launch.paramSize).getD 0) < a + size.bytes then some (0x07, some a) else none,
      fun _ sl t ls x => let a := nearAddr x (t.crewOf x) base off size
        newAccess sl t x (.load false) .param a a size .crew .rlx .normal (laneDest ls x r) [] 0 r⟩
  | .atom g op m d r base => some ⟨g, sizedCodes m.size d ++ sizedCodes m.size r ++ pairCodes base, m.size, 2, true,
      fun s t x => (atomTrap s t op m.scope (d != 0xFF#8)).or (farTrap (farAddr x (t.crewOf x) base m.off m.size) m.size),
      fun _ sl t ls x => let a := farAddr x (t.crewOf x) base m.off m.size
        newAccess sl t x (.atom op) .global a a m.size m.scope m.order m.hint (laneDest ls x d) (dataOf x (t.crewOf x) r m.size)
          (BitVec.ofNat 64 (ofBytes (dataOf x (t.crewOf x) d m.size))) d⟩
  | .atoms g op m d r base => some ⟨g, sizedCodes m.size d ++ sizedCodes m.size r ++ [base], m.size, 2, true,
      fun s t x => (atomTrap s t op m.scope (d != 0xFF#8)).or (nearTrap s t x m.scope (nearAddr x (t.crewOf x) base m.off m.size) m.size),
      fun s sl t ls x => let a := nearAddr x (t.crewOf x) base m.off m.size
        let p := nearPlace s t x m.scope a m.size
        newAccess sl t x (.atom op) p.1 p.2 a m.size m.scope m.order m.hint (laneDest ls x d) (dataOf x (t.crewOf x) r m.size)
          (BitVec.ofNat 64 (ofBytes (dataOf x (t.crewOf x) d m.size))) d⟩
  | .red g op m r base => some ⟨g, sizedCodes m.size r ++ pairCodes base, m.size, 2, false,
      fun s t x => (atomTrap s t op m.scope false).or (farTrap (farAddr x (t.crewOf x) base m.off m.size) m.size),
      fun _ sl t _ x => let a := farAddr x (t.crewOf x) base m.off m.size
        newAccess sl t x (.red op) .global a a m.size m.scope m.order m.hint 0xFF#8 (dataOf x (t.crewOf x) r m.size) 0⟩
  | _ => none

/-- The machine with new accesses in flight: lane k of the lanes `ls` has issued access number nextAcc + k; its counter has risen and,
for a load, its v destinations are pending (R55, R56). Nothing else changed: no register, no memory. -/
structure Issued (s u : State) (sl : IssueSlot) (t : Team) (ls : List Thread) (isLoad : Bool) (size : Size) (A : Thread → Access) : Prop where
  machine : u = { s with accs := u.accs, nextAcc := s.nextAcc + ls.length, teams := u.teams }
  accs : ∃ new : List Access, u.accs = s.accs ++ new ∧ new.length = ls.length ∧ ∀ k x, ls[k]? = some x → ∃ a : Access, new[k]? = some a ∧
    a = { A x with id := s.nextAcc + k, group := s.nextAcc, relAt := releaseAt x (A x), after := a.after } ∧ (a.relAt = none → a.after = [])
  others : ∀ id, id ≠ sl.team → u.team? id = s.team? id
  team : ∃ t' : Team, u.team? sl.team = some t' ∧ t' = { t with threads := t'.threads } ∧ (∀ tid, t.thread? tid = none → t'.thread? tid = none) ∧
    ∀ tid x, t.thread? tid = some x → ∃ x' : Thread, t'.thread? tid = some x' ∧
      x' = if isLoad then
          { x with ld := x.ld + (ls.filter fun y => y.tid == tid).length,
                   winSeen := x.winSeen || ls.any fun y => y.tid == tid && (match (A y).space with | .window _ => true | _ => false),
                   pend := x.pend ++ ((ls.zipIdx.filter fun p => p.1.tid == tid).map fun p =>
                     ((sizedCodes size (A p.1).dst).filter isV).map fun r => (⟨r.toNat, s.nextAcc + p.2, false⟩ : PendDst)).flatten }
        else { x with st := x.st + (ls.filter fun y => y.tid == tid).length }

/-- No marker (fence, arrival, pass, launch) is in flight, and no resident thread waits for counters to fall. -/
def Quiet (s : State) : Prop :=
  (∀ a ∈ s.accs, a.isMarker = false) ∧
  ∀ t ∈ s.teams, t.res = .resident → ∀ x ∈ t.threads, match x.run with | .asleep (.waitc ..) => False | _ => True

/-- A spill access of crew `cr` (R165): its lanes, the slot's address by the lowest one, and the cause of a fault at issue. -/
def spillLead (ls : List Thread) (cr : Nat) : Option Thread := lowestLane (ls.filter fun x => x.crew == cr)
def spillAddr (t : Team) (ls : List Thread) (cr : Nat) (base : Reg) (off : BitVec 11) : Nat :=
  match spillLead ls cr with | some x => nearAddr x (t.crewOf x) base off .b32 | none => 0
def spillOk (s : State) (t : Team) (ls : List Thread) (cr : Nat) (base : Reg) (off : BitVec 11) : Prop :=
  spillAddr t ls cr base off % 4 = 0 ∧ spillAddr t ls cr base off + 132 ≤ s.spillSize t

end Sys2Proof.Spec

/-- R151 to R153, R156, R157, R159 with R55, R56: every lane whose access passes the checks at issue has it in flight, and nothing but
its counter and its pending destinations changes; what the memory system then does by itself is `settle`, which with no marker
in flight and no thread waiting for counters only asks for page walks. -/
def Obligations.MemoryInstructionsIssue : Prop := ∀ i op, memOps i = some op → ∀ s sl t, Issuing s sl t → AllHold t sl op.g op.codes →
  (∀ x, Active t sl op.g x → op.trap s t x = none) →
    ∃ u : State, exec i s = .next u.settle ∧ Issued s u sl t (lanesOf t sl op.g) op.isLoad op.size (op.acc s sl t (lanesOf t sl op.g)) ∧
      (Quiet s → u.settle = { u with walks := u.settle.walks })

/-- R152, R104, R162: a lane whose access fails a check made at issue takes the fault there, precisely, and issues nothing (said of a
group with one lane). That 0x0A comes before alignment and bounds, and names no address, is the model's choice (log entry 19). -/
def Obligations.MemoryInstructionsTrap : Prop := ∀ i op, memOps i = some op → ∀ s sl t x c a, Issuing s sl t → AllHold t sl op.g op.codes →
  lanesOf t sl op.g = [x] → op.trap s t x = some (c, a) →
    exec i s = .next (s.deliver sl.team x.tid sl.clause sl.idx
      (match a with
       | some a => accessFault c a (match op.size with | .b8 => 0 | .b16 => 1 | .b32 => 2 | .b64 => 3 | .b128 => 4) op.kind
       | none => plainFault c)).settle

/-- R165: SPILL and FILL make one access for each crew of the group, at the slot address of the crew's lowest active lane, and each
active lane counts it. -/
def Sys2Proof.Spec.SpillFillIssue : Prop := ∀ (s : State) (sl : IssueSlot) (t : Team) (g : Guard) (hint : Hint) (off : BitVec 11) (r base : Reg) (isSpill : Bool), Issuing s sl t → AllHold t sl g [r, base] →
  let ls := lanesOf t sl g
  let crews := (ls.map (·.crew)).eraseDups
  (∀ cr ∈ crews, spillOk s t ls cr base off) →
    ∃ u : State, exec (if isSpill then .spill g hint off r base else .fill g hint off r base) s = .next u.settle ∧
      (Quiet s → u.settle = { u with walks := u.settle.walks }) ∧
      u = { s with accs := u.accs, nextAcc := s.nextAcc + crews.length, teams := u.teams } ∧
      (∃ new : List Access, u.accs = s.accs ++ new ∧ new.length = crews.length ∧ ∀ k cr, crews[k]? = some cr → ∃ (a : Access) (x : Thread), new[k]? = some a ∧ spillLead ls cr = some x ∧
        a = { newAccess sl t x (if isSpill then .spill else .fill) .spillSp (t.spillBase + cr * s.spillSize t + spillAddr t ls cr base off)
                (spillAddr t ls cr base off) .b32 .crew .rlx hint (if isSpill then 0xFF#8 else r) [] 0 (if isSpill then 0xFF#8 else r) with
              id := s.nextAcc + k, group := s.nextAcc, relAt := if isSpill then x.fenceRel else none, after := a.after,
              lanes := (ls.filter fun y => y.crew == cr).map fun y => ⟨y.tid, y.lane, readReg y (t.crewOf y) r, y.window⟩ }) ∧
      (∀ id, id ≠ sl.team → u.team? id = s.team? id) ∧
      ∃ t' : Team, u.team? sl.team = some t' ∧ t' = { t with threads := t'.threads } ∧
        ∀ tid x, t.thread? tid = some x → ∃ x' : Thread, t'.thread? tid = some x' ∧
          x' = if isSpill then { x with st := x.st + (ls.filter fun y => y.tid == tid).length }
               else { x with ld := x.ld + (ls.filter fun y => y.tid == tid).length, pend := x'.pend }

/-- R165: a SPILL or FILL whose slot address fails a check at issue is taken by every active thread of the crew, in ascending lane order, and
nothing is issued (said of a group with lanes in one crew). -/
def Sys2Proof.Spec.SpillFillTrap : Prop := ∀ (s : State) (sl : IssueSlot) (t : Team) (g : Guard) (hint : Hint) (off : BitVec 11) (r base : Reg) (isSpill : Bool) (cr : Nat),
  Issuing s sl t → AllHold t sl g [r, base] →
  let ls := lanesOf t sl g
  ls ≠ [] → (∀ x ∈ ls, x.crew = cr) →
  let a := spillAddr t ls cr base off
  let trap (c : Byte) : Prop := exec (if isSpill then .spill g hint off r base else .fill g hint off r base) s =
    .next ((ls.foldl (fun s x => s.deliver sl.team x.tid sl.clause sl.idx (accessFault c a 2 (if isSpill then 1 else 0))) s).settle)
  (a % 4 ≠ 0 → trap 0x12) ∧ (a % 4 = 0 → s.spillSize t < a + 132 → trap 0x13)

/-- R158: PREF prefetches the line of each lane's address, in lane order, or does not, and does nothing else; it takes no fault for any address.
What a lane does: nothing (one that is ignored, one whose address is not canonical or not mapped, one under `.l2`); it asks for the walk of an
address whose translation is not cached (log entry 31); or it brings the four sectors of the line into the core's L1. Every sector then
is an old one or one of that line with the bytes that memory holds behind the core's write path, no sector of another core or another set is
gone, and a line in HBM without errors is there whole. -/
def Sys2Proof.Spec.PrefOnlyFillsL1 : Prop :=
  (∀ s sl t g hint off base, Issuing s sl t → AllHold t sl g (pairCodes base) →
    exec (.pref g hint off base) s = .next ((lanesOf t sl g).foldl (fun (u : State) x => u.prefetch t (farAddr x (t.crewOf x) base off .b8) hint) s)) ∧
  ∀ (u : State) (t : Team) (a : Nat) (hint : Hint), a < 2 ^ 64 →
    let u' := u.prefetch t a hint
    let line := a / 128
    let idle : State := { u with draws := u.draws + 1 }
    (u.freeBit 2 0 = false ∨ ¬ isCanonical a → u' = idle) ∧
    (u.freeBit 2 0 = true → isCanonical a → u.tlbFind t.die t.asid a = none →
      u' = { idle with walks := if ∃ w ∈ u.walks, w.die = t.die ∧ w.asid = t.asid ∧ w.addr / 2 ^ 21 = a % 2 ^ 57 / 2 ^ 21 then u.walks
                                else u.walks ++ [⟨t.die, t.asid, a % 2 ^ 57, false⟩] }) ∧
    (u.freeBit 2 0 = true → isCanonical a → u.tlbFind t.die t.asid a ≠ none →
      ((hint = .l2 ∨ ∃ c, u.translate t.die t.asid a .read .program = .error c) → u' = idle) ∧
      ∀ pa, hint ≠ .l2 → u.translate t.die t.asid a .read .program = .ok pa →
        let sector (i : Nat) (y : L1Sector) : Prop := y = ⟨t.core, t.asid, .program, 4 * line + i, 128 * (pa / 128) + 32 * i,
          u.behindPath t.core (128 * (pa / 128) + 32 * i) 32, [], hint == .strm⟩
        u' = { idle with l1 := u'.l1 } ∧
        (∀ y ∈ u'.l1, y ∈ u.l1 ∨ ∃ i, i < 4 ∧ sector i y) ∧
        (∀ y ∈ u.l1, y.core ≠ t.core ∨ y.sector / 4 % 128 ≠ line % 128 → y ∈ u'.l1) ∧
        ((∀ i, i < 4 → (∃ d, u.region (128 * (pa / 128) + 32 * i) = .hbm d) ∧ u.poisoned (128 * (pa / 128) + 32 * i) 32 = none) →
          ∀ i, i < 4 → ∃ y ∈ u'.l1, sector i y))

/-- R163, R266, R270: FENCE puts a marker behind each lane's earlier accesses and does not hold the clause; a release fence makes the lane's
later writes releases at its scope, and an acquire fence makes the reads that it finds pending acquires at its scope (log entry 86). With
nothing in flight the fence of a group of one lane is over at once, and an acquire of scope cluster or wider, or of scope team in a thread
that has loaded from a scratchpad window, has then emptied the core's L1 of the context. -/
def Sys2Proof.Spec.FenceOrders : Prop := ∀ (s : State) (sl : IssueSlot) (t : Team) (g : Guard) (order : Order) (scope : Scope), Issuing s sl t →
  let ls := lanesOf t sl g
  let fenced (x : Thread) : Thread := if order = .rel ∨ order = .ar then
    { x with fenceRel := some (match x.fenceRel with | some f => wider scope f | none => scope) } else x
  (t.threads.map (·.tid)).Nodup →
  (∃ u : State, exec (.fence g order scope) s = .next u.settle ∧ u = { s with accs := u.accs, nextAcc := s.nextAcc + ls.length, teams := u.teams } ∧
    (∀ id, id ≠ t.id → u.team? id = s.team? id) ∧
    u.team? t.id = some { t with threads := t.threads.map fun y => if y ∈ ls then fenced y else y } ∧
    ∃ new : List Access, u.accs = (s.accs.map fun a =>
        if (order = .acq ∨ order = .ar) ∧ (match a.kind with | .load _ | .atom _ | .fill => true | _ => false) = true ∧ a.team = t.id ∧
            (∃ x ∈ ls, a.tid = x.tid ∨ ∃ l ∈ a.lanes, l.tid = x.tid) then
          { a with fenceAcq := some (match a.fenceAcq with | some w => wider w scope | none => scope) }
        else a) ++ new ∧ new.length = ls.length ∧ ∀ k x, ls[k]? = some x → ∃ a : Access, new[k]? = some a ∧
      a = { newAccess sl t x .fence (if x.winSeen then .window t.id else .global) 0 0 .b8 scope order .normal 0xFF#8 [] 0 with
            id := s.nextAcc + k, group := s.nextAcc + k, relAt := if order = .rel ∨ order = .ar then some scope else none, after := a.after }) ∧
  ∀ x, ls = [x] → s.accs = [] → Quiet s → x.icsync = [] → exec (.fence g order scope) s = .next { s with
    nextAcc := s.nextAcc + 1
    teams := (s.modThread t.id x.tid fenced).teams
    l1 := if (order = .acq ∨ order = .ar) ∧ scope ≠ .crew ∧ (scope = .team → x.winSeen = true) then s.l1.filter fun y => !(y.core == t.core && y.asid == t.asid)
          else s.l1 }

/-- R164, R262, R364: MWAIT sleeps a thread whose watch slot names the line of its address with the line's present write sequence, while
the slice has room for it, and otherwise ends at once; a misaligned address takes 0x12 (said of a group with one lane). A translation that its
address needed is cached. A thread whose job a halt wave has frozen stands at the MWAIT instead. -/
def Sys2Proof.Spec.MwaitSleepsOrEnds : Prop := ∀ (s : State) (sl : IssueSlot) (t : Team) (g : Guard) (size : Size) (off : BitVec 11) (base : Reg) (x : Thread), Issuing s sl t → AllHold t sl g (pairCodes base) → lanesOf t sl g = [x] →
  let a := farAddr x (t.crewOf x) base off size
  (a % size.bytes ≠ 0 → exec (.mwait g size off base) s = .next (s.deliver sl.team x.tid sl.clause sl.idx
      (accessFault 0x12 a (match size with | .b8 => 0 | .b16 => 1 | .b32 => 2 | .b64 => 3 | .b128 => 4) 0))) ∧
  let v : State := s.cacheWalks t.die t.asid .read .program [a]
  let leaves (s' : State) (f : Thread → Thread) : Prop := s'.issue = some { sl with group := sl.group.filter fun n => n != x.tid } ∧
    ∃ t' : Team, s'.team? sl.team = some t' ∧ t' = { t with threads := t'.threads } ∧ ∀ n y, t.thread? n = some y → t'.thread? n = some (if n = x.tid then f y else y)
  (v = { s with tlb := v.tlb, out := v.out } ∧ ((s.tlbFind t.die t.asid a).isSome = true → v = s)) ∧
  (a % size.bytes = 0 → ∀ line seq pa, x.watch = some (line, seq) → s.translate t.die t.asid a .read .program = .ok pa → s.frozen t.asid = true →
    ∃ s' : State, exec (.mwait g size off base) s = .next s' ∧ s' = { v with teams := s'.teams, issue := s'.issue } ∧
      leaves s' fun y => { y with clause := sl.clause, idx := sl.idx, stamp := none }) ∧
  (a % size.bytes = 0 → ∀ line seq pa, x.watch = some (line, seq) → s.translate t.die t.asid a .read .program = .ok pa → pa / 128 = line →
    (tabGet LineRec.none line s.lines).seq = seq → s.watchRoom line t.core = true → s.frozen t.asid = false →
      ∃ s' : State, exec (.mwait g size off base) s = .next s' ∧ s' = { v with watch := s'.watch, teams := s'.teams, issue := s'.issue } ∧
        (∃ w ∈ s'.watch, w.line = line ∧ w.core = t.core ∧ w.fired = false ∧ (t.id, x.tid) ∈ w.sleepers) ∧
        leaves s' fun y => { y with clause := sl.clause, idx := sl.idx, run := .asleep (.monitor line), stamp := none }) ∧
  (a % size.bytes = 0 →
    (x.watch = none ∨ (∃ c, s.translate t.die t.asid a .read .program = .error c) → exec (.mwait g size off base) s = .next s) ∧
    ∀ line seq pa, x.watch = some (line, seq) → s.translate t.die t.asid a .read .program = .ok pa → s.frozen t.asid = false →
      pa / 128 ≠ line ∨ (tabGet LineRec.none line s.lines).seq ≠ seq ∨ s.watchRoom line t.core = false →
      exec (.mwait g size off base) s = .next v)

/-! ### The memory system's own steps -/

namespace Sys2Proof.Spec

open Machine

/-- The words of a load or atomic result (R156): one word, zero- or sign-extended, or `size`/4 words in address order. -/
def loaded (sx : Bool) (size : Nat) (bs : List Byte) : List Word :=
  if size ≤ 4 then
    [BitVec.ofInt 32 (if sx ∧ 2 ^ (8 * size) ≤ 2 * (ofBytes bs % 2 ^ (8 * size)) then ((ofBytes bs % 2 ^ (8 * size) : Nat) : Int) - 2 ^ (8 * size)
      else if sx then ((ofBytes bs % 2 ^ (8 * size) : Nat) : Int) else (ofBytes bs : Int))]
  else (List.range (size / 4)).map fun i => BitVec.ofNat 32 (ofBytes ((bs.drop (4 * i)).take 4))

/-- The registers a result goes to: none for kz. -/
def dests (d : Reg) (ws : List Word) : List (Reg × Word) := if d = 0xFF#8 then [] else ws.zipIdx.map fun p => (d + BitVec.ofNat 8 p.2, p.1)

/-- A load or atomic that acquires wider than its core, by its own order or by an acquire fence behind it (R155, R270): at cluster scope or
wider, or at team scope at a scratchpad window, whose bank serves the whole cluster (R266). -/
def acquiresWide (a : Access) : Bool :=
  ((if a.order = .acq ∨ a.order = .ar then [a.scope] else []) ++ a.fenceAcq.toList).any fun sc =>
    decide (2 ≤ width sc) || (sc == .team && (match a.space with | .window _ => true | _ => false))

/-- The machine after access `a` of thread x of team t has returned the bytes `bs` (R55, R56, R155, R177): it is gone, `ld` has fallen,
every destination register that the crew still holds and that nothing wrote since has its word (one written since has either
value), and until a wait covers the load each v destination is remembered with its two values, of which a read gives either (log entry 12);
nothing else of the registers changed but fragment registers, which stay undefined (R184), the windows of its instruction's threads may hold the
value (R64), and an acquire wider than its core has emptied the core's L1 of the context. A k register takes its word whatever was written meanwhile (log entry 11). -/
structure Returned (s u : State) (a : Access) (t : Team) (x : Thread) (c : Crew) (sx : Bool) (bs : List Byte) : Prop where
  machine : u = { s with accs := u.accs, teams := u.teams, l1 := u.l1, engs := u.engs, draws := s.draws + 1 }
  engs : u.engs.length = s.engs.length ∧ ∀ (i : Nat) (e : EngOp), s.engs[i]? = some e → ∃ e' : EngOp, u.engs[i]? = some e' ∧ e' = { e with after := e'.after } ∧
    (a.id ∉ e.after → e' = e)
  gone : u.acc? a.id = none
  left : ∀ n b, n ≠ a.id → s.acc? n = some b → ∃ b', u.acc? n = some b' ∧ b' = { b with after := b'.after, snapshot := b'.snapshot, lanes := b'.lanes }
  l1 : u.l1 = if acquiresWide a then s.l1.filter fun y => !(y.core == a.core && y.asid == a.asid) else s.l1
  others : ∀ id, id ≠ a.team → u.team? id = s.team? id
  team : ∃ t' x' c' keep, u.team? a.team = some t' ∧ t'.thread? a.tid = some x' ∧ t'.crew? x.crew = some c' ∧
    t' = { t with threads := t'.threads, crews := t'.crews } ∧
    (∀ n y, n ≠ a.tid → t.thread? n = some y → ∃ y', t'.thread? n = some y' ∧ y' = { y with window := y'.window, shadows := y'.shadows }) ∧
    (∀ n y, n ≠ x.crew → t.crew? n = some y → t'.crew? n = some y) ∧
    (∀ p ∈ keep, p ∈ dests a.dst (loaded sx a.size bs) ∧ holds c p.1 = true) ∧
    (∀ p ∈ dests a.dst (loaded sx a.size bs), holds c p.1 = true → (isV p.1 = true → ∃ q ∈ x.pend, q.acc = a.id ∧ q.code = p.1.toNat) → (∀ q ∈ x.pend, q.acc = a.id → q.code = p.1.toNat → q.written = false) → p ∈ keep) ∧
    (∀ r, isV r = true → (∀ f ∈ x.frags, f.code ≠ r.toNat) → readReg x' c' r = written keep r (readReg x c r)) ∧
    (∀ r, isV r = false → r ≠ 0xFF#8 → readReg x' c' r = written keep r (readReg x c r)) ∧
    (∀ q ∈ x'.pend, q.acc ≠ a.id) ∧
    (∀ p ∈ dests a.dst (loaded sx a.size bs), isV p.1 = true → holds c p.1 = true → ∀ q, x.pend.find? (fun q => q.acc == a.id && q.code == p.1.toNat) = some q →
      (⟨p.1.toNat, State.settledReg x p.1.toNat, p.2, q.written⟩ : Flip) ∈ x'.flips) ∧
    (∀ f, (∀ p ∈ dests a.dst (loaded sx a.size bs), p.1.toNat ≠ f.code) → (f ∈ x'.flips ↔ f ∈ x.flips)) ∧
    x' = { x with regs := x'.regs, ld := x.ld - 1, pend := x'.pend, flips := x'.flips, window := x'.window, trans := x'.trans, frags := x'.frags, shadows := x'.shadows } ∧
    c' = { c with kregs := c'.kregs }

/-- The bytes of memory after a write of `bs` at pa. -/
def poked (m m' : List Host.Cell) (pa : Nat) (bs : List Byte) : Prop :=
  ∀ b, memByte m' b = if pa ≤ b then bs.getD (b - pa) (memByte m b) else memByte m b

/-- R159: the new value of a unit of w bits. -/
def atomicValue (op : AtomOp) (w m v cmp : Nat) : Nat :=
  let s (n : Nat) : Int := if 2 ^ w ≤ 2 * n then (n : Int) - 2 ^ w else n
  match op with
  | .add => (m + v) % 2 ^ w
  | .minU => if v < m then v else m
  | .maxU => if m < v then v else m
  | .minS => if s v < s m then v else m
  | .maxS => if s m < s v then v else m
  | .and => m &&& v
  | .or => m ||| v
  | .xor => m ^^^ v
  | .exch => v
  | .cas => if m = cmp then v else m
  | .fadd => (to32 .rne (FVal.add false (dec32 (BitVec.ofNat 32 m)) (dec32 (BitVec.ofNat 32 v)))).toNat

/-- An access that may be performed now: in flight, its order conditions met, its late check passed, its bytes at `pa` in HBM. -/
structure Performable (s : State) (a : Access) (pa : Nat) : Prop where
  acc : s.acc? a.id = some a
  ready : s.ready a = true
  fresh : a.served = none ∧ a.taken = none ∧ a.half = none
  checked : s.failCause a = none
  space : a.space = .global
  phys : s.accPhys a = some (.ok [(pa, a.size)])
  hbm : ∃ d, s.region pa = .hbm d

end Sys2Proof.Spec

/-- R55, R56, R153, R155, R156: a load or returning atomic that has been served returns. -/
def Sys2Proof.Spec.LoadReturns : Prop := ∀ (s : State) (a : Access) (t : Team) (x : Thread) (c : Crew) (bs : List Byte) (sx : Bool),
  (a.kind = .load sx ∨ ∃ op, a.kind = .atom op ∧ sx = false) → s.acc? a.id = some a → s.ready a = true → a.served = some bs →
  s.team? a.team = some t → t.thread? a.tid = some x → t.crew? x.crew = some c → a.size ≤ 16 →
    ∃ u, exec (.loadReturn a.id) s = .next u.settle ∧ Returned s u a t x c sx bs ∧ (Quiet s → u.settle = { u with walks := u.settle.walks })

/-- R152, R154, R155: a global load of up to 8 bytes with no copy in its core's L1, or of a scope that takes none, is served the bytes
that memory holds; it returns them then, or at a later LOAD_RETURN. Memory is left as it is. -/
def Sys2Proof.Spec.LoadServedFromMemory : Prop := ∀ (s : State) (a : Access) (t : Team) (x : Thread) (c : Crew) (sx : Bool) (pa : Nat),
  Performable s a pa → a.kind = .load sx → a.size ≤ 8 → (a.narrow = true → s.l1Find a.core a.asid .program a.addr = none) → s.remoteReady a pa = true →
  s.team? a.team = some t → t.thread? a.tid = some x → t.crew? x.crew = some c →
    ∃ w : State, w = { s with accs := w.accs, l1 := w.l1, teams := w.teams } ∧
      w.acc? a.id = some { a with served := some (s.bytesAt pa a.size) } ∧
      ((∃ u : State, exec (.loadReturn a.id) s = .next u.settle ∧ ∃ x', w.thread? a.team a.tid = some x' ∧
          x' = { x with watch := x'.watch, watchAcc := x'.watchAcc } ∧ ∃ t', w.team? a.team = some t' ∧ Returned w u a t' x' c sx (s.bytesAt pa a.size)) ∨
        exec (.loadReturn a.id) s = .next w.drawn.settle)

/-- R154, R156, R258: a global store of up to 8 bytes at scope cluster or wider is accepted where it is performed: its bytes stand in
memory, every other byte is as before, and its counter has fallen. -/
def Sys2Proof.Spec.StoreWritesItsBytes : Prop := ∀ (s : State) (a : Access) (x : Thread) (pa : Nat),
  Performable s a pa → a.kind = .store → a.narrow = false → a.size ≤ 8 → a.lanes = [] → s.thread? a.team a.tid = some x →
    ∃ u : State, exec (.storeAccept a.id) s = .next u.settle ∧ (Quiet s → u.settle = { u with walks := u.settle.walks }) ∧
      u = { s with mem := u.mem, poison := u.poison, sliceErrs := u.sliceErrs, lines := u.lines, narrow := u.narrow, watch := u.watch, l1 := u.l1, accs := u.accs,
                   teams := u.teams } ∧
      poked s.mem u.mem pa a.data ∧
      u.poison = s.poison.filter (fun n => !(decide (a.data ≠ []) && decide (pa ≤ 8 * n) && decide (8 * n + 8 ≤ pa + a.data.length))) ∧
      u.accs = s.accs.filter (fun b => b.id != a.id) ∧
      u.thread? a.team a.tid = some { x with st := x.st - 1 }

/-- Table 13.4, R155, R258: a store of scope crew or team falls out of its counter when its core's write path takes it, and is
applied at home later. -/
def Sys2Proof.Spec.NarrowStoreInTwoSteps : Prop := ∀ (s : State) (a : Access) (x : Thread) (pa : Nat),
  a.kind = .store → a.narrow = true → a.size ≤ 8 → a.lanes = [] → s.thread? a.team a.tid = some x →
    (Performable s a pa →
      ∃ u : State, exec (.storeAccept a.id) s = .next u.settle ∧ u = { s with accs := u.accs, l1 := u.l1, teams := u.teams } ∧
        u.acc? a.id = some { a with taken := some ⟨s.draws, [(pa, a.size)]⟩ } ∧ u.thread? a.team a.tid = some { x with st := x.st - 1 }) ∧
    (∀ n, s.acc? a.id = some a → s.ready a = true → a.taken = some ⟨n, [(pa, a.size)]⟩ → a.space = .global → (∃ d, s.region pa = .hbm d) →
      ∃ u : State, exec (.storeAccept a.id) s = .next u.settle ∧ poked s.mem u.mem pa a.data ∧ u.accs = s.accs.filter (fun b => b.id != a.id) ∧
        u.thread? a.team a.tid = some x)

/-- R159 to R161: an atomic or reduction that no other lane of its instruction shares the unit with reads the unit, writes the new
value of R159 and leaves every other byte; the atomic has been served the old value, the reduction is complete. -/
def Obligations.AtomicsReadModifyWrite : Prop := ∀ (s : State) (a : Access) (op : AtomOp) (x : Thread) (pa : Nat),
  Performable s a pa → s.mates a = [a] → s.matesReady [a] = true → a.size = 4 ∨ a.size = 8 → a.lanes = [] → s.thread? a.team a.tid = some x →
  a.data.length = a.size →
    let old := ofBytes (s.bytesAt pa a.size)
    let new := toBytes a.size (atomicValue op (8 * a.size) old (ofBytes a.data) (a.cmp.toNat % 2 ^ (8 * a.size)))
    (a.kind = .red op →
      ∃ u : State, exec (.storeAccept a.id) s = .next u.settle ∧ poked s.mem u.mem pa new ∧ u.accs = s.accs.filter (fun b => b.id != a.id) ∧
        u.thread? a.team a.tid = some { x with st := x.st - 1 }) ∧
    (a.kind = .atom op → s.remoteReady a pa = true →
      ∃ w : State, poked s.mem w.mem pa new ∧ w.acc? a.id = some { a with served := some (s.bytesAt pa a.size) } ∧
        (exec (.loadReturn a.id) s = .next (w.returnLoad a (s.bytesAt pa a.size)).settle ∨ exec (.loadReturn a.id) s = .next w.drawn.settle))

/-- R247, R228: a store to a scratchpad share of up to 8 bytes is accepted at the bank and changes those bytes of that share only. -/
def Sys2Proof.Spec.ScratchpadStores : Prop := ∀ (s : State) (a : Access) (w : Nat) (t : Team) (x : Thread),
  s.acc? a.id = some a → a.kind = .store → a.space = .window w → a.size ≤ 8 → a.lanes = [] → a.taken = none → a.served = none → s.ready a = true →
  s.failCause a = none → s.accPhys a = some (.ok []) → s.team? w = some t → s.thread? a.team a.tid = some x →
    ∃ u : State, exec (.storeAccept a.id) s = .next u.settle ∧ u = { s with teams := u.teams, accs := s.accs.filter (fun b => b.id != a.id) } ∧
      (∃ t', u.team? w = some t' ∧ t' = { t with scratch := t'.scratch, scratchPoison := t'.scratchPoison, threads := t'.threads } ∧
        ∀ o, t'.scratchByte o = if a.addr ≤ o then a.data.getD (o - a.addr) (t.scratchByte o) else t.scratchByte o) ∧
      (∀ id, id ≠ w → id ≠ a.team → u.team? id = s.team? id) ∧ u.thread? a.team a.tid = some { x with st := x.st - 1 }

/-- Table 4.9: the value that lane j of a spill slot holds. -/
def Sys2Proof.Spec.slotWord (slot : List Byte) (j : Nat) : Word :=
  let num (from' n : Nat) : Nat := ofBytes ((slot.drop from').take n)
  let sx (n k : Nat) : Int := if 2 ^ k ≤ 2 * n then (n : Int) - 2 ^ k else n
  match (slot.headD 0).toNat with
  | 0 => BitVec.ofNat 32 (num (4 + 4 * j) 4)
  | 1 => wrap32 ((num 4 4 : Int) + sx (num (8 + j) 1) 8)
  | 2 => wrap32 ((num 4 4 : Int) + sx (num (8 + 2 * j) 2) 16)
  | _ => BitVec.ofNat 32 (num 4 4)

/-- R71: the first exact format in the order 3, 1, 2, 0 for 32 lane values, with lane 0's value as base, and the length of its slot. -/
def Sys2Proof.Spec.IsSlotFormat (f : Nat → Word) (n : Nat) : Prop :=
  let same : Prop := ∀ j, j < 32 → f j = f 0
  let near (k : Nat) : Prop := ∀ j, j < 32 → ∃ d : Int, -(2 ^ (k - 1)) ≤ d ∧ d < 2 ^ (k - 1) ∧ f j = wrap32 ((un (f 0) : Int) + d)
  (same ∧ n = 3) ∨ (¬ same ∧ near 8 ∧ n = 1) ∨ (¬ same ∧ ¬ near 8 ∧ near 16 ∧ n = 2) ∨ (¬ same ∧ ¬ near 8 ∧ ¬ near 16 ∧ n = 0)
def Sys2Proof.Spec.slotLength (format : Nat) : Nat := if format = 0 then 132 else if format = 1 then 40 else if format = 2 then 72 else 8

/-- A spill access of distinct lanes whose slot stands in HBM at pa, word by word. -/
structure Sys2Proof.Spec.AtSlot (s : State) (a : Access) (pa : Nat) (ps : List (Nat × Nat)) : Prop where
  acc : s.acc? a.id = some a
  space : a.space = .spillSp
  words : ps = (List.range 33).map fun i => (pa + 4 * i, 4)
  hbm : ∀ p ∈ ps, ∃ d, s.region p.1 = .hbm d
  lanes : (a.lanes.map (·.lane)).Nodup ∧ (a.lanes.map (·.tid)).Nodup ∧ a.lanes ≠ [] ∧ ∀ l ∈ a.lanes, l.lane < 32

/-- R56, R70, R71, R165: the core's write path takes a SPILL, whose threads' counters fall together; at the slot it then writes each present
lane's value and leaves the others' as they were, in the first exact format where it covers all 32 lanes and in format 0 otherwise; bytes
beyond the format's length and beyond the slot are left. -/
def Sys2Proof.Spec.SpillWritesSlot : Prop := ∀ (s : State) (a : Access) (pa : Nat) (ps : List (Nat × Nat)), AtSlot s a pa ps → a.kind = .spill →
  (a.taken = none → a.served = none → s.readyAtCore a = true → s.failCause a = none → s.accPhys a = some (.ok ps) →
    ∃ u : State, exec (.storeAccept a.id) s = .next u.settle ∧ u = { s with accs := u.accs, teams := u.teams } ∧
      u.acc? a.id = some { a with taken := some ⟨s.draws, ps⟩ } ∧
      ∀ l ∈ a.lanes, ∀ x, s.thread? a.team l.tid = some x → u.thread? a.team l.tid = some { x with st := x.st - 1 }) ∧
  (∀ n, a.taken = some ⟨n, ps⟩ → s.ready a = true → ((s.byteAt pa).toNat ≤ 3 ∨ ∀ j, j < 32 → ∃ l ∈ a.lanes, l.lane = j) →
    ∃ u : State, exec (.storeAccept a.id) s = .next u.settle ∧ u.accs = s.accs.filter (fun b => b.id != a.id) ∧ u.teams = s.teams ∧
      (∀ b, b < pa ∨ pa + 132 ≤ b → memByte u.mem b = memByte s.mem b) ∧
      (∀ l ∈ a.lanes, slotWord (u.bytesAt pa 132) l.lane = l.data) ∧
      (∀ j, j < 32 → (∀ l ∈ a.lanes, l.lane ≠ j) → slotWord (u.bytesAt pa 132) j = slotWord (s.bytesAt pa 132) j) ∧
      ((∃ j, j < 32 ∧ ∀ l ∈ a.lanes, l.lane ≠ j) → u.byteAt pa = 0) ∧
      ∀ f : Nat → Word, (∀ j, j < 32 → ∃ l ∈ a.lanes, l.lane = j ∧ l.data = f j) →
        IsSlotFormat f (u.byteAt pa).toNat ∧ ∀ b, pa + slotLength (u.byteAt pa).toNat ≤ b → memByte u.mem b = memByte s.mem b)

/-- R56, R70, R71, R165: a FILL with no copy in the L1 reads its slot, then or at a later LOAD_RETURN gives each of its lanes the value that the
slot holds for it, and all their counters fall together. -/
def Sys2Proof.Spec.FillReadsSlot : Prop := ∀ (s : State) (a : Access) (pa : Nat) (ps : List (Nat × Nat)), AtSlot s a pa ps → a.kind = .fill → s.ready a = true →
  a.size = 4 →
  (a.taken = none → a.served = none → a.half = none → s.l1Hit a = none → s.failCause a = none → s.accPhys a = some (.ok ps) →
    ∃ w : State, w = { s with accs := w.accs, l1 := w.l1 } ∧ w.acc? a.id = some { a with served := some (s.bytesAt pa 132) } ∧
      (exec (.loadReturn a.id) s = .next (w.returnLoad a (s.bytesAt pa 132)).settle ∨ exec (.loadReturn a.id) s = .next w.drawn.settle)) ∧
  ∀ bs, a.served = some bs → isV a.dst = true →
    ∃ u : State, exec (.loadReturn a.id) s = .next u.settle ∧ u.acc? a.id = none ∧ u.mem = s.mem ∧
      ∀ l ∈ a.lanes, ∀ t x, s.team? a.team = some t → t.thread? l.tid = some x → holds (t.crewOf x) a.dst = true → x.frags = [] →
        (∃ q ∈ x.pend, q.acc = a.id ∧ q.code = a.dst.toNat) → (∀ q ∈ x.pend, q.acc = a.id → q.written = false) →
          ∃ x' : Thread, u.thread? a.team l.tid = some x' ∧ x'.ld = x.ld - 1 ∧ (∀ c r, isV r = true →
            readReg x' c r = if r = a.dst then slotWord bs l.lane else readReg x c r)

/-- Table 19.4: the entry of a late fault of one thread, up to the time of its recording. -/
def Sys2Proof.Spec.lateEntry (a : Access) (c : Byte) (t : Team) (lane crew token : Nat) : List Byte :=
  let access : Nat := match a.kind with | .atom _ | .red _ => 2 | .store | .spill => 1 | _ => 0
  toBytes 8 a.named ++ toBytes 2 a.asid ++ [c, BitVec.ofNat 8 (16 * (if token = 0 then 0 else 1) + 4 * access)] ++ toBytes 2 t.core ++
    [BitVec.ofNat 8 (32 * t.slot + crew), BitVec.ofNat 8 lane, BitVec.ofNat 8 t.queue, 0, 0, 0] ++ toBytes 4 token

/-- R327: the machine after a late fault of access `a` has been recorded: its entry, with the time, stands at FBWP of the buffer of the core's
die, FBWP has moved on, and the access knows its cause and the structure that a data error lies in; one that parks has taken the next new number
as its token (the model's choice, log entry 68). No thread, no register, no other access and no other byte of memory has changed. -/
structure Sys2Proof.Spec.LateRecorded (s r : State) (a : Access) (c : Byte) (t : Team) (x : Thread) (token k : Nat) : Prop where
  machine : r = { s with mem := r.mem, poison := r.poison, sliceErrs := r.sliceErrs, lines := r.lines, narrow := r.narrow, watch := r.watch, die0 := r.die0,
                         die1 := r.die1, accs := r.accs, out := r.out, msixPending := r.msixPending, nextId := s.nextId + if token = 0 then 0 else 1 }
  entry : poked s.mem r.mem ((s.die t.die).fb.base + 32 * (s.die t.die).fb.wp) (lateEntry a c t x.lane x.crew token ++ toBytes 8 s.refTime)
  wp : r.die t.die = { s.die t.die with fb := { (s.die t.die).fb with wp := ((s.die t.die).fb.wp + 1) % 16384 } }
  other : ∀ d, d < 2 → t.die < 2 → d ≠ t.die → r.die d = s.die d
  acc : r.acc? a.id = some { a with bad := some c, badClass := k }
  accs : r.accs = s.accs.map fun b => if b.id = a.id then { b with bad := some c, badClass := k } else b

/-- R152, R327, R328: a failed late check is recorded in the fault buffer of the core's die, with FBWP moving on, and its outcome follows: the frames
of its threads, and in a replayable context a translation or permission fault parks the access with its token (log entry 68). Any other leaves
the access undone. For an access of one thread that is alone in flight, and whose thread has exited or has no frame to write, all of that is said:
a parked one is as it was but for its token and its cause, and FBWP has moved on; one that is left undone is gone, its counter has fallen, a
load's destination is undefined, and then its thread is the origin of a halt wave with a debugger attached, and otherwise the context
terminates. -/
def Sys2Proof.Spec.LateFaultsParkOrTerminate : Prop := ∀ (s : State) (a : Access) (c : Byte) (t : Team) (k : Context) (x : Thread),
  s.acc? a.id = some a → (s.accs.map (·.id)).Nodup → s.failCause a = some c → a.parked = none → s.l1Hit a = none → s.waits = [] → s.dbg.steps = [] →
  ((∃ e, s.accPhys a = some (.error e)) ∨ s.ready a = true) → s.team? a.team = some t → t.thread? a.tid = some x → s.ctx? a.asid = some k →
  t.asid = a.asid → s.fbReady t.die = true → (∃ d, s.region ((s.die t.die).fb.base + 32 * (s.die t.die).fb.wp) = .hbm d) →
  let token := if k.desc.replayable = true ∧ (c = 0x06 ∨ c = 0x07) then s.nextId else 0
  (k.desc.replayable = true → s.nextId ≠ 0) →
    ∃ (r : State) (cls : Nat), LateRecorded s r a c t x token cls ∧ exec (.lateFault a.id) s = .next (r.lateOutcome a.id c token).settle ∧
      (s.accs = [a] → a.lanes = [] → (x.run = .exited ∨ r.frameLive t x ≠ some false) →
        let f : State := if x.run ≠ .exited ∧ r.frameLive t x = some true then r.askPriv t a.tid (un x.sfault + 10) 1 else r
        f = { r with tlb := f.tlb, out := f.out } ∧
        (token ≠ 0 → let u : State := { f with accs := [{ a with parked := some token, bad := some c, badClass := cls }] }
          exec (.lateFault a.id) s = .next u.settle ∧ (Quiet s → exec (.lateFault a.id) s = .next u)) ∧
        (token = 0 → ∃ v : State, v = { f with accs := [], teams := v.teams, draws := f.draws + 1 } ∧ (∀ id, id ≠ a.team → v.team? id = s.team? id) ∧
          (∃ t' x', v.team? a.team = some t' ∧ t' = { t with threads := t'.threads, crews := t'.crews } ∧ t'.thread? a.tid = some x' ∧
            (∀ n y, n ≠ a.tid → t.thread? n = some y → t'.thread? n = some y) ∧
            (a.isStore = true → x' = { x with st := x.st - 1 } ∧ t'.crews = t.crews) ∧
            (a.isLoad = true → x' = { x with ld := x.ld - 1, regs := x'.regs, pend := x'.pend, flips := x'.flips, trans := x'.trans, frags := x'.frags } ∧
              ∀ q ∈ x'.pend, q.acc ≠ a.id)) ∧
          (s.attached t.asid = true →
            let o : Reached := ⟨t.asid, a.clause, 16 + a.id, ⟨some t.core, t.die, some a.tid, c, 1, x.crew, t.slot, false⟩, s.now⟩
            let u : State := { v with dbg := { v.dbg with reached := State.addReached o v.dbg.reached } }
            exec (.lateFault a.id) s = .next u.settle ∧ (Quiet s → exec (.lateFault a.id) s = .next u)) ∧
          (s.attached t.asid = false → exec (.lateFault a.id) s = .next (v.terminateContext t.asid).settle ∧
            ∃ k', (v.terminateContext t.asid).ctx? a.asid = some k' ∧ (k'.terminated = true ∨ k'.terminating = true))))

/-- R325, R326: a walk leaves the queue, and its translation is cached where there is a page. For one access that waits for it: where its page
permits the access it goes on, and otherwise it has cause 0x07; where there is no page the cause of its fault is known, and for a data error in a
table the structure that holds it; one that the L1 can serve is left alone (R257), as is one that needs no translation. An agent other
than a thread that waits for the walk may go on. -/
def Sys2Proof.Spec.TranslationWalkAnswers : Prop := ∀ (s : State) (w : WalkReq), s.walks = [w] →
  ∃ u : State, exec (.translationWalk w.die) s = .next u.settle ∧
    u = { s with walks := [], walked := s.walked ++ (if w.agent then [w] else []), tlb := u.tlb, accs := u.accs, out := u.out, draws := s.draws + 1 } ∧
    (∀ e ∈ s.tlb, e ∈ u.tlb) ∧
    (∀ e, s.walk w.die w.asid w.addr = .ok e → ∃ e' ∈ u.tlb, e'.die = w.die ∧ e'.asid = w.asid ∧ e'.base = e.base ∧ e'.size = e.size) ∧
    ((s.accs = [] ∨ ∃ a, s.accs = [a] ∧ (a.isMarker = true ∨ a.die ≠ w.die ∨ a.asid ≠ w.asid)) → u.accs = s.accs) ∧
    ∀ a va n, s.accs = [a] → a.isMarker = false → a.die = w.die → a.asid = w.asid → s.pieces a = [(va, n)] → w.addr = va % 2 ^ 57 →
      s.tlbFind w.die w.asid w.addr = none →
      ((s.l1Hit a).isSome = true ∨ (s.accPhys a).isSome = true → u.accs = [a]) ∧
      (∀ e, s.walk w.die w.asid w.addr = .ok e → u.accs = [a] ∧
        (s.l1Hit a = none → s.accPhys a = none → State.permitted e a.use a.via = false → u.accPhys a = some (.error 0x07)) ∧
        (s.l1Hit a = none → s.accPhys a = none → State.permitted e a.use a.via = true → (u.accPhys a).isSome = true)) ∧
      (s.l1Hit a = none → s.accPhys a = none → ∀ c, s.walk w.die w.asid w.addr = .error c →
        u.tlb = s.tlb ∧ u.accs = [{ a with bad := some c, badClass := if c = 0x09 then s.virtErrorClass w.die w.asid w.addr 8 else 0 }])

/-- R262, R164: a fired entry of the watch table is freed and its one sleeper wakes: it runs again and enters the clause behind its own
(R76). -/
def Sys2Proof.Spec.MwaitWakes : Prop := ∀ (s : State) (w : WatchEntry) (team tid : Nat) (x : Thread), s.watch = [w] → w.fired = true →
  w.sleepers = [(team, tid)] → s.thread? team tid = some x → x.run = .asleep (.monitor w.line) → x.frags = [] →
    ∃ u : State, exec (.mwaitWake w.line) s = .next (u.fallThrough team tid) ∧ u = { s with watch := [], teams := u.teams } ∧
      ∃ x', u.thread? team tid = some x' ∧ x' = { x with run := .active, window := x'.window }

/-! ### Cross-lane, barrier, ticket, regroup, granule and wait instructions (chapter 8, chapter 12) -/

namespace Sys2Proof.Spec

open Machine

/-- Threads of a team carry different numbers (R58). -/
def Distinct (t : Team) : Prop := (t.threads.map (·.tid)).Nodup

/-- A lane-wise instruction whose result depends on the participants: the active lanes in ascending lane order (R167). -/
structure CrewOp where
  g : Guard
  T : Bool
  codes : List Reg
  ws : List Thread → Team → Thread → List (Reg × Word)
  preds : List Thread → Team → Thread → BitVec 7

def rd (t : Team) (x : Thread) (r : Reg) : Word := readReg x (t.crewOf x) r
def rd64 (t : Team) (x : Thread) (r : Reg) : Nat := pairNat (readReg x (t.crewOf x)) r
def withPred (p : BitVec 7) (d : Reg) (b : Bool) : BitVec 7 :=
  BitVec.ofNat 7 (fromBits 7 fun n => if n = d.toNat then b else p.getLsbD n)
def srcTrue (x : Thread) (q : PSrc) : Bool := (if q.p = 7#3 then true else x.preds.getLsbD q.p.toNat) != q.neg

/-- R168: the lane SHFL reads, in groups of w lanes. -/
def shuffled (m : ShflMode) (w j x : Nat) : Nat :=
  match m with
  | .from => j / w * w + x % w
  | .rot => j / w * w + (j % w + x) % w
  | .rev => j / w * w + (w - 1 - j % w)
  | .swap => j / w * w + ((j % w) ^^^ (x % w))
/-- R169: the lanes with a true source. -/
def ballot (ps : List Thread) (q : PSrc) (j : Nat) : Bool := ps.any fun y => y.lane == j && srcTrue y q
def ballots (ps : List Thread) (q : PSrc) : Nat := ((List.range 32).filter fun j => ballot ps q j).length
/-- R171. -/
def reduced (op : CredOp) (vs : List Word) : Word :=
  match op with
  | .add => BitVec.ofNat 32 (vs.map un).sum
  | .minU => vs.tail.foldl (lower false) (vs.headD 0)
  | .minS => vs.tail.foldl (lower true) (vs.headD 0)
  | .maxU => vs.tail.foldl (higher false) (vs.headD 0)
  | .maxS => vs.tail.foldl (higher true) (vs.headD 0)
  | .and => ofBits32 fun i => vs.all fun v => (un v).testBit i
  | .or => ofBits32 fun i => vs.any fun v => (un v).testBit i
  | .xor => ofBits32 fun i => (vs.filter fun v => (un v).testBit i).length % 2 == 1
  | .fadd => to32 .rne (vs.tail.foldl (fun a b => FVal.add false a (dec32 b)) (dec32 (vs.headD 0)))
  | .fmin => vs.foldl fpLower (vs.headD 0)
  | .fmax => vs.foldl fpHigher (vs.headD 0)

def crossLaneOps : Instr → Option CrewOp
  | .shfl g T m w d a b c => some ⟨g, T, [d, a, c] ++ (if m = .rev then [] else [b]),
      fun ps t x => [(d, match ps.find? fun y => y.lane == shuffled m (2 ^ w.toNat) x.lane (un (rd t x b)) with
        | some y => rd t y a | none => rd t x c)], fun _ _ x => x.preds⟩
  | .vote g T (.mask) src d => some ⟨g, T, [d], fun ps _ _ => [(d, ofBits32 (ballot ps src))], fun _ _ x => x.preds⟩
  | .vote g T (.count) src d => some ⟨g, T, [d], fun ps _ _ => [(d, BitVec.ofNat 32 (ballots ps src))], fun _ _ x => x.preds⟩
  | .vote g T (.test c) src d => some ⟨g, T, [], fun _ _ _ => [], fun ps _ x => withPred x.preds d (match c with
      | .none => ballots ps src == 0 | .some => decide (0 < ballots ps src) | .every => ballots ps src == ps.length
      | .mixed => decide (0 < ballots ps src ∧ ballots ps src < ps.length))⟩
  | .matchLanes g T b64 m d a => some ⟨g, T, d :: (if b64 then pairCodes a else [a]),
      fun ps t x =>
        let key (y : Thread) : Nat := if b64 then rd64 t y a else un (rd t y a)
        let same := ps.filter fun y => key y == key x
        [(d, BitVec.ofNat 32 (match m with
          | .first => (same.map (·.lane)).foldl min x.lane
          | .rank => (same.filter fun y => decide (y.lane < x.lane)).length
          | .kinds => (ps.map key).eraseDups.length))], fun _ _ x => x.preds⟩
  | .credux g T op d a => some ⟨g, T, [d, a], fun ps t _ => [(d, reduced op (ps.map fun y => rd t y a))], fun _ _ x => x.preds⟩
  | .elect g d => some ⟨g, false, [], fun _ _ _ => [], fun ps _ x => withPred x.preds d (ps.all fun y => decide (x.tid ≤ y.tid))⟩
  | _ => none

/-- The barrier a thread names (Table 12.4). -/
def barrierOf (t : Team) (x : Thread) (level : BarLevel) (index : Nat) : BarRef :=
  match level with
  | .crew => ⟨.crew, t.id, x.crew, index⟩ | .team => ⟨.team, t.id, 0, index⟩
  | .cluster => ⟨.cluster, t.cluster, 0, index⟩ | .grid => ⟨.grid, t.grid, 0, index⟩
/-- The record a thread keeps of a barrier: none while idle (R173). -/
def record (x : Thread) (level : BarLevel) (index : Nat) : Option Nat := (x.bars.find? fun r => r.level == level && r.index == index).map (·.phase)
def inCohort (s : State) (t : Team) : Prop := ∃ g, s.grid? t.grid = some g ∧ g.launch.cohort = true
def scopeOf : BarLevel → Scope | .crew => .crew | .team => .team | .cluster => .cluster | .grid => .device
/-- A thread put to sleep at the instruction in the issue slot. -/
def asleepAt (sl : IssueSlot) (w : Sleep) (x : Thread) : Thread := { x with clause := sl.clause, idx := sl.idx, run := .asleep w, stamp := none }
/-- The issue slot without some threads. -/
def without (sl : IssueSlot) (tids : List Nat) : IssueSlot := { sl with group := sl.group.filter fun n => !tids.contains n }

/-- The machine in which the threads of one team have been changed by `f`, and nothing else but what `m` tells. -/
def Rethreaded (u : State) (t : Team) (f : Thread → Thread) : Prop :=
  u.team? t.id = some { t with threads := t.threads.map f }

/-- The L1 of a core without the lines of a context. -/
def l1Without (s : State) (t : Team) : List L1Sector := s.l1.filter fun y => !(y.core == t.core && y.asid == t.asid)

/-- A team's ticket number (R241). -/
def number (s : State) (t : Team) : Word := BitVec.ofNat 32 t.linear + ((s.grid? t.grid).map fun g => g.launch.ticketBase).getD 0

/-- Which lane sorts before which in REGROUP: by key, then by number (R180). -/
def Before (a b : Word × Nat) : Prop := un a.1 < un b.1 ∨ (a.1 = b.1 ∧ a.2 < b.2)

end Sys2Proof.Spec

/-- R167 to R172: shuffles, votes, matches, reductions and elections among the active lanes. -/
def Obligations.CrossLane : Prop := ∀ i op, crossLaneOps i = some op → ∀ s sl t, Issuing s sl t → AllHold t sl op.g op.codes →
  ∃ s', exec i s = .next s' ∧ RegsWritten s s' sl t (Active t sl op.g) op.T (fun x _ => op.ws (lanesOf t sl op.g) t x)
    (fun x _ => op.preds (lanesOf t sl op.g) t x)

/-- R173, R174: BAR.arv and BAR.sync of lanes whose record is idle: each records the barrier's phase and has an arrival on its way, a
release at the level's scope; under sync each sleeps. A record that is not idle, or a grid barrier outside a cohort, takes 0x14. -/
def Sys2Proof.Spec.BarrierArrivals : Prop := ∀ (s : State) (sl : IssueSlot) (t : Team) (g : Guard) (op : BarOp) (level : BarLevel) (index : BitVec 4),
  Issuing s sl t → Distinct t → op ≠ .wait →
  let ls := lanesOf t sl g
  let i := index.toNat
  ((level = .grid → inCohort s t) → (∀ x ∈ ls, record x level i = none) →
    ∃ u : State, exec (.bar g op level index) s = .next u.settle ∧
      u = { s with accs := u.accs, nextAcc := s.nextAcc + ls.length, teams := u.teams,
                   issue := some (if op = .sync then without sl (ls.map (·.tid)) else sl) } ∧
      (∃ new : List Access, u.accs = s.accs ++ new ∧ new.length = ls.length ∧ ∀ k x, ls[k]? = some x → ∃ a : Access, new[k]? = some a ∧
        a = { newAccess sl t x (.arrive (barrierOf t x level i)) .global 0 0 .b8 (scopeOf level) .rel .normal 0xFF#8 [] 0 with
              id := s.nextAcc + k, group := s.nextAcc + k, after := a.after
              relAt := some (match x.fenceRel with | some f => wider (scopeOf level) f | none => scopeOf level) }) ∧
      (∀ id, id ≠ t.id → u.team? id = s.team? id) ∧
      Rethreaded u t fun y => if y ∈ ls then
          let y' := { y with bars := y.bars ++ [⟨level, i, (s.bar (barrierOf t y level i)).phase⟩] }
          if op = .sync then asleepAt sl (.bar (barrierOf t y level i) (s.bar (barrierOf t y level i)).phase) y' else y'
        else y) ∧
  (∀ x, ls = [x] → (level = .grid ∧ ¬ inCohort s t) ∨ (∃ p, record x level i = some p) →
    exec (.bar g op level index) s = .next (s.deliver sl.team x.tid sl.clause sl.idx (plainFault 0x14)).settle)

/-- R173, R174: BAR.wait of a lane ends at once when the recorded phase is over (then at cluster and grid level the core's L1 lines
of the context go), sleeps while it is not, and takes 0x14 with an idle record (said of a group with one lane). -/
def Sys2Proof.Spec.BarrierWaits : Prop := ∀ (s : State) (sl : IssueSlot) (t : Team) (g : Guard) (level : BarLevel) (index : BitVec 4) (x : Thread),
  Issuing s sl t → Distinct t → lanesOf t sl g = [x] → (level = .grid → inCohort s t) →
  let b := barrierOf t x level index.toNat
  (record x level index.toNat = none → exec (.bar g .wait level index) s = .next (s.deliver sl.team x.tid sl.clause sl.idx (plainFault 0x14)).settle) ∧
  ∀ p, record x level index.toNat = some p →
    (p < (s.bar b).phase → ∃ u : State, exec (.bar g .wait level index) s = .next u.settle ∧
      u = { s with teams := u.teams, l1 := if level = .cluster ∨ level = .grid then l1Without s t else s.l1 } ∧
      Rethreaded u t fun y => if y = x then { y with bars := y.bars.filter fun r => !(r.level == level && r.index == index.toNat) } else y) ∧
    ((s.bar b).phase ≤ p → ∃ u : State, exec (.bar g .wait level index) s = .next u.settle ∧
      u = { s with teams := u.teams, issue := some (without sl [x.tid]) } ∧ Rethreaded u t fun y => if y = x then asleepAt sl (.bar b p) y else y)

/-- R173, R239, R240: a phase with an arrival or signal, in which every non-exited member has arrived and every expected signal has landed (at
grid level once every cluster has been placed, and for a launch on both dies while no die's clock is stopped), is complete:
BARRIER_PHASE_COMPLETE raises the barrier's phase by one, its counts are zero, and at cluster level tiles may be covered (R203; log entry 98).
Its waiters wake on the cores that the completion reaches in this step: every core for a crew or team barrier; that of a cluster or grid barrier
reaches some now and others in a later step. With nobody to wake nothing else changes, and without all of that the step does nothing. -/
def Sys2Proof.Spec.BarrierPhases : Prop := ∀ (s : State) (b : BarRef), (b.level = .crew ∨ b.crew = 0) →
  let x := s.bar b
  let member (t : Team) (y : Thread) : Prop := t ∈ s.teams ∧ t.res ≠ .retired ∧ y ∈ t.threads ∧ y.run ≠ .exited ∧
    (match b.level with | .crew => t.id = b.owner ∧ y.crew = b.crew | .team => t.id = b.owner | .cluster => t.cluster = b.owner | .grid => t.grid = b.owner)
  let complete : Prop := (0 < x.arrivals ∨ 0 < x.signals) ∧ x.signals = x.expected ∧ (∀ t y, member t y → record y b.level b.index = some x.phase) ∧
    (∀ a ∈ s.accs, a.kind ≠ .arrive b) ∧
    (b.level = .grid → ∀ q, s.grid? b.owner = some q → q.launch.clusters ≤ q.placed ∧
      (0 ∈ q.dies → 1 ∈ q.dies → (∀ h n, s.die0.relock ≠ .stopped h n) ∧ ∀ h n, s.die1.relock ≠ .stopped h n))
  let waking (u : State) : State := (u.teams.filter fun t => t.res == .resident && u.reaches b t.core).foldl (fun s t => s.wakeBars t (some b)) u
  (b.level = .crew ∨ b.level = .team → ∀ u core, State.reaches u b core = true) ∧
  (¬ complete → exec (.barrierPhaseComplete b) s = .next (waking s) ∧
    ((∀ t ∈ s.teams, ∀ y ∈ t.threads, ∀ p, y.run = .asleep (.bar b p) → x.phase ≤ p) → exec (.barrierPhaseComplete b) s = .next s)) ∧
  (complete → ∃ u : State, u.bar b = ⟨x.phase + 1, 0, 0, 0⟩ ∧ u = { s with teams := u.teams, clusters := u.clusters, grids := u.grids } ∧
    (b.level ≠ .cluster → ∀ t, s.team? t.id = some t → ∃ t', u.team? t.id = some t' ∧ t' = { t with bars := t'.bars, crews := t'.crews }) ∧
    exec (.barrierPhaseComplete b) s = .next (waking u) ∧
    ((∀ t ∈ s.teams, ∀ y ∈ t.threads, ∀ p, y.run ≠ .asleep (.bar b p)) → exec (.barrierPhaseComplete b) s = .next u))

/-- R175: TKWAIT ends at once when the counter has the team's number, writing 0 or, after an abandoned pass, 1, as a device acquire;
otherwise its lanes sleep. -/
def Sys2Proof.Spec.TicketWaits : Prop := ∀ (s : State) (sl : IssueSlot) (t : Team) (g : Guard) (n : BitVec 2) (d : Reg),
  Issuing s sl t → Distinct t → AllHold t sl g [d] →
  let ls := lanesOf t sl g
  let c := s.ticket t.grid n.toNat
  ls ≠ [] →
  (c.value = number s t → (∀ x ∈ ls, x.frags = []) → ∃ s', exec (.tkwait g n d) s = .next s' ∧
    RegsWritten { s with l1 := l1Without s t } s' sl t (Active t sl g) false (fun _ _ => [(d, if c.abandoned then 1 else 0)]) (fun x _ => x.preds)) ∧
  (c.value ≠ number s t → ∃ s' : State, exec (.tkwait g n d) s = .next s' ∧
    s' = { s with teams := s'.teams, issue := some (without sl (ls.map (·.tid))) } ∧
    Rethreaded s' t fun y => if y ∈ ls then asleepAt sl (.ticket n.toNat (laneDest ls y d)) y else y)

/-- R176: TKPASS of a team whose number the counter has, and that has not passed it yet, records the pass and sends it behind the
team's earlier accesses; with none in flight and nobody waiting for the counter it rises by one at once. A second pass does nothing;
a number that is not the counter's takes 0x14. -/
def Sys2Proof.Spec.TicketPasses : Prop := ∀ (s : State) (sl : IssueSlot) (t : Team) (g : Guard) (n : BitVec 2) (x : Thread) (rest : List Thread),
  Issuing s sl t → lanesOf t sl g = x :: rest →
  let k := n.toNat
  ((∃ p ∈ t.passed, p.n = k) → exec (.tkpass g n) s = .next s) ∧
  ((∀ p ∈ t.passed, p.n ≠ k) → (s.ticket t.grid k).value ≠ number s t →
    exec (.tkpass g n) s = .next (s.deliver sl.team x.tid sl.clause sl.idx (plainFault 0x14))) ∧
  ((∀ p ∈ t.passed, p.n ≠ k) → (s.ticket t.grid k).value = number s t →
    (∃ u : State, exec (.tkpass g n) s = .next u.settle ∧ u = { s with teams := u.teams, accs := u.accs, nextAcc := s.nextAcc + 1 } ∧
      u.team? t.id = some { t with passed := t.passed ++ [⟨k, true⟩] } ∧
      ∃ a : Access, u.accs = s.accs ++ [a] ∧ a.id = s.nextAcc ∧ a.kind = .pass k ∧ a.scope = .device ∧ a.order = .rel ∧ a.team = t.id ∧ a.tid = x.tid) ∧
    (s.accs = [] → Quiet s → x.icsync = [] → Distinct t → (∀ u ∈ s.teams, u.parkedTickets = [] ∧ ∀ y ∈ u.threads, ∀ m d, y.run ≠ .asleep (.ticket m d)) →
      ∀ gr c, s.grid? t.grid = some gr → gr.tickets[k]? = some c → s.bridgeStalled gr = false → ∃ s', exec (.tkpass g n) s = .next s' ∧
        s'.ticket t.grid k = ⟨c.value + 1, c.abandoned⟩ ∧ ∀ m, m ≠ k → s'.ticket t.grid m = s.ticket t.grid m))

/-- R179: REGROUP puts each of its lanes to sleep with its key. -/
def Sys2Proof.Spec.RegroupArrives : Prop := ∀ (s : State) (sl : IssueSlot) (t : Team) (g : Guard) (pack : Bool) (key d : Reg),
  Issuing s sl t → Distinct t → AllHold t sl g [key] →
  let ls := lanesOf t sl g
  ∃ s' : State, exec (.regroup g pack key d) s = .next s' ∧ s' = { s with teams := s'.teams, issue := some (without sl (ls.map (·.tid))) } ∧
    Rethreaded s' t fun y => if y ∈ ls then asleepAt sl (.regroup pack (rd t y key) d) y else y

/-- R180, R181: when every non-exited thread of a team has arrived in one `.pack` REGROUP with its counters zero, the step numbers them by
(key, `s.tid`): the i-th goes to crew slot i / 32 and lane i mod 32; `s.rgen` rises if any thread moved, watch slots empty and crew
barriers reset; then each wakes with its predicate. Before all have arrived the step does nothing. -/
def Sys2Proof.Spec.RegroupPacks : Prop := ∀ (s : State) (t : Team), s.team? t.id = some t → t.res = .resident → Distinct t → t.regErrs = [] →
  (∀ e ∈ s.engs, e.team ≠ t.id) →
  let ps := t.threads.filter fun (x : Thread) => x.run != .exited
  ((∃ x ∈ ps, (∀ p k d, x.run ≠ .asleep (.regroup p k d)) ∨ x.ld ≠ 0 ∨ x.st ≠ 0) → exec (.regroupStep t.id) s = .next s) ∧
  ∀ (key : Nat → Word) (d : Nat → Reg), ps ≠ [] → (∀ x ∈ ps, x.run = .asleep (.regroup true (key x.tid) (d x.tid)) ∧ x.ld = 0 ∧ x.st = 0) →
    (∀ c ∈ t.crews, ∀ c' ∈ t.crews, c.granules = c'.granules) → (∀ x ∈ ps, ∀ r ∈ x.bars, r.level ≠ .crew) →
    let pos (x : Thread) : Nat := (ps.filter fun (y : Thread) => decide (un (key y.tid) < un (key x.tid)) || (key y.tid == key x.tid && decide (y.tid < x.tid))).length
    let uniform : Bool := ps.all fun x => ps.all fun y => pos x / 32 != pos y / 32 || key x.tid == key y.tid
    ∃ u : State, u = { s with teams := u.teams, draws := s.draws + 1 } ∧
      u.team? t.id = some { t with
        threads := t.threads.map fun x => if x.run = .exited then x
          else { x with crew := pos x / 32, lane := pos x % 32, watch := none, bars := x.bars.filter fun r => r.level != .crew }
        crews := t.crews.map fun c => { c with bars := [] }
        rgen := if ∃ x ∈ ps, (pos x / 32, pos x % 32) ≠ (x.crew, x.lane) then t.rgen + 1 else t.rgen } ∧
      exec (.regroupStep t.id) s = .next (ps.foldl (fun s x =>
        (s.modThread t.id x.tid fun y => { y with preds := setPred y.preds (d x.tid).toNat uniform }).wake t.id x.tid []) u)

/-- R180, R181: `.strict` gives each key crews of its own: in the order of the keys each takes as many crew slots as its threads fill, and the
i-th of them by `s.tid` goes to lane i mod 32 of the i / 32-th; every predicate is then true. Where that takes more slots than the team has,
nothing moves and every predicate is false: watch slots too are left as they are (log entry 72). -/
def Sys2Proof.Spec.RegroupStrict : Prop := ∀ (s : State) (t : Team), s.team? t.id = some t → t.res = .resident → Distinct t → t.regErrs = [] →
  (∀ e ∈ s.engs, e.team ≠ t.id) →
  let ps := t.threads.filter fun (x : Thread) => x.run != .exited
  ∀ (key : Nat → Word) (d : Nat → Reg), ps ≠ [] → (∀ x ∈ ps, x.run = .asleep (.regroup false (key x.tid) (d x.tid)) ∧ x.ld = 0 ∧ x.st = 0) →
    (∀ c ∈ t.crews, ∀ c' ∈ t.crews, c.granules = c'.granules) → (∀ x ∈ ps, ∀ r ∈ x.bars, r.level ≠ .crew) →
    let slots (k : Word) : Nat := ((ps.filter fun (y : Thread) => key y.tid == k).length + 31) / 32
    let kinds := (ps.map fun (y : Thread) => key y.tid).eraseDups
    let rank (x : Thread) : Nat := (ps.filter fun (y : Thread) => key y.tid == key x.tid && decide (y.tid < x.tid)).length
    let crew (x : Thread) : Nat := ((kinds.filter fun k => decide (un k < un (key x.tid))).map slots).sum + rank x / 32
    let told (v : Bool) (s : State) : State := ps.foldl (fun s x =>
      (s.modThread t.id x.tid fun y => { y with preds := setPred y.preds (d x.tid).toNat v }).wake t.id x.tid []) s
    (t.crews.length < (kinds.map slots).sum → exec (.regroupStep t.id) s = .next (told false s)) ∧
    ((kinds.map slots).sum ≤ t.crews.length → ∃ u : State, u = { s with teams := u.teams, draws := s.draws + 1 } ∧
      u.team? t.id = some { t with
        threads := t.threads.map fun x => if x.run = .exited then x
          else { x with crew := crew x, lane := rank x % 32, watch := none, bars := x.bars.filter fun r => r.level != .crew }
        crews := t.crews.map fun c => { c with bars := [] }
        rgen := if ∃ x ∈ ps, (crew x, rank x % 32) ≠ (x.crew, x.lane) then t.rgen + 1 else t.rgen } ∧
      exec (.regroupStep t.id) s = .next (told true u))

/-- R180: a REGROUP whose threads disagree on `.pack`, whose crews hold different granules, or with a crew barrier arrival outstanding gives
every participant 0x0D, and nothing moves: watch slots too are left as they are (log entry 72). -/
def Sys2Proof.Spec.RegroupFaults : Prop := ∀ (s : State) (t : Team), s.team? t.id = some t → t.res = .resident → (∀ e ∈ s.engs, e.team ≠ t.id) →
  let ps := t.threads.filter fun (x : Thread) => x.run != .exited
  ps ≠ [] → (∀ x ∈ ps, (∃ p k d, x.run = .asleep (.regroup p k d)) ∧ x.ld = 0 ∧ x.st = 0) →
  ((∃ x ∈ ps, ∃ y ∈ ps, ∃ k d k' d', x.run = .asleep (.regroup true k d) ∧ y.run = .asleep (.regroup false k' d')) ∨
    (∃ c ∈ t.crews, ∃ c' ∈ t.crews, c.granules ≠ c'.granules) ∨ ∃ x ∈ ps, ∃ r ∈ x.bars, r.level = .crew) →
  exec (.regroupStep t.id) s = .next (ps.foldl (fun s x => s.deliver t.id x.tid x.clause (State.hdrN x.hdr - 1) (plainFault 0x0D)) s)

/-- R50, R177, R243: REGGROW gives the crew the granules it lacks when they are free and nobody waits; it waits, reports false or takes
0x0C when they are not, by its mode; a crew that has them already goes on; `.try` and `.trap` take 0x0A from REPEAT up (said of lanes of
one crew that are the whole group). REGSHRINK gives granules back. -/
def Sys2Proof.Spec.GranulesGrowAndShrink : Prop := ∀ (s : State) (sl : IssueSlot) (t : Team) (g : Guard) (m : GrowMode) (n : BitVec 3) (d : Reg)
  (c : Crew) (x : Thread) (rest : List Thread), Issuing s sl t → Distinct t → lanesOf t sl g = x :: rest → t.crew? x.crew = some c →
  (t.crews.map (·.slot)).Nodup → (∀ y ∈ t.threads, y.tid ∈ sl.group → y ∈ x :: rest) →
  let ls := x :: rest
  let cur := c.granules
  let k := n.toNat
  let waiting := s.growWaiters t.core
  let fits : Prop := k - cur + (waiting.map fun w => w.2.2.2 - s.granulesOf w.2.1 w.2.2.1).sum ≤ s.freeGranules t.core
  let tells (v : Bool) : State → Prop := fun s' => s' = { s with teams := s'.teams } ∧
    Rethreaded s' t fun y => if y ∈ ls then { y with preds := setPred y.preds d.toNat v } else y
  let grown (v : Bool) : State → Prop := fun s' => s' = { s with teams := s'.teams, nextId := s.nextId + 1 } ∧
    ∃ t' c', s'.team? t.id = some t' ∧ t' = { t with crews := t'.crews, threads := t'.threads } ∧ t'.crew? x.crew = some c' ∧
      c' = { c with granules := k, fills := c'.fills } ∧
      ∀ y n', t.thread? n' = some y → ∃ y', t'.thread? n' = some y' ∧
        y' = { y with regs := y'.regs, preds := if y ∈ ls ∧ v = true then setPred y.preds d.toNat true else y.preds } ∧
        ∀ q : Nat, q < 32 * (1 + cur) → tabGet 0#32 q y'.regs = tabGet 0#32 q y.regs
  (k ≤ cur → m ≠ .try → exec (.reggrow g m n d) s = .next s) ∧
  (k ≤ cur → m = .try → ∃ s', exec (.reggrow g m n d) s = .next s' ∧ tells true s') ∧
  (cur < k → m ≠ .blk → 1 ≤ detOf s t →
    exec (.reggrow g m n d) s = .next (ls.foldl (fun s y => s.deliver sl.team y.tid sl.clause sl.idx (plainFault 0x0A)) s)) ∧
  (cur < k → m = .blk → waiting = [] → fits → ∃ s', exec (.reggrow g m n d) s = .next s' ∧ grown false s') ∧
  (cur < k → m = .blk → (waiting ≠ [] ∨ ¬ fits) → ∃ s' : State, exec (.reggrow g m n d) s = .next s' ∧
    s' = { s with teams := s'.teams, issue := some (without sl (ls.map (·.tid))) } ∧
    Rethreaded s' t fun y => if y ∈ ls then asleepAt sl (.grow k sl.stamp) y else y) ∧
  (cur < k → m = .try → detOf s t = 0 → fits → ∃ s', exec (.reggrow g m n d) s = .next s' ∧ grown true s') ∧
  (cur < k → m = .try → detOf s t = 0 → ¬ fits → ∃ s', exec (.reggrow g m n d) s = .next s' ∧ tells false s') ∧
  (cur < k → m = .trap → detOf s t = 0 → fits → ∃ s', exec (.reggrow g m n d) s = .next s' ∧ grown false s') ∧
  (cur < k → m = .trap → detOf s t = 0 → ¬ fits →
    exec (.reggrow g m n d) s = .next (ls.foldl (fun s y => s.deliver sl.team y.tid sl.clause sl.idx (plainFault 0x0C)) s)) ∧
  (cur ≤ k → exec (.regshrink g n) s = .next s) ∧
  (k < cur → ∃ s' : State, exec (.regshrink g n) s = .next s' ∧ s' = { s with teams := s'.teams } ∧
    ∃ t' c', s'.team? t.id = some t' ∧ t' = { t with crews := t'.crews, threads := t'.threads } ∧ t'.crew? x.crew = some c' ∧
      c' = { c with granules := k, fills := c'.fills } ∧
      ∀ y n', t.thread? n' = some y → ∃ y', t'.thread? n' = some y' ∧ y' = { y with regs := y'.regs, trans := y'.trans, pend := y'.pend, flips := y'.flips } ∧
        (y.crew ≠ x.crew → y' = y) ∧ ∀ q : Nat, q < 32 * (1 + k) → tabGet 0#32 q y'.regs = tabGet 0#32 q y.regs)

/-- R243: the granules of a core go to the crew that has waited longest, when its whole need is free; its threads then wake. With no
waiter, or with too few free, nothing happens. -/
def Sys2Proof.Spec.GranuleGrants : Prop := ∀ (s : State) (core : Nat), (s.teams.map (·.id)).Nodup →
  (s.growWaiters core = [] → exec (.granuleGrant core) s = .next s) ∧
  ∀ rank team crew n, State.firstRank (s.growWaiters core) = some (rank, team, crew, n) →
    (∀ w ∈ s.growWaiters core, rank ≤ w.1) ∧ (rank, team, crew, n) ∈ s.growWaiters core ∧
    (s.freeGranules core < n - s.granulesOf team crew → exec (.granuleGrant core) s = .next s) ∧
    (n - s.granulesOf team crew ≤ s.freeGranules core → ∃ (u : State) (t : Team), u.granulesOf team crew = n ∧ u = { s with teams := u.teams, nextId := s.nextId + 1 } ∧
      u.team? team = some t ∧ exec (.granuleGrant core) s = .next
        ((t.threads.filter fun x => x.crew == crew && (match x.run with | .asleep (.grow ..) => true | _ => false)).foldl (fun s x => s.wake team x.tid []) u))

/-- R55, R178: WAITC lets a lane go on when each of the four counters is at most its threshold, a threshold of 15 waiting for nothing, and
puts the others to sleep. Where it names `ld` at 0 it covers the lane's returned loads, each of whose registers then holds the loaded value, or
either value where it was written meanwhile (log entry 12); a fragment register holds it after the covering TWAIT (R184). -/
def Obligations.WaitcSleepsAboveThreshold : Prop := ∀ (s : State) (sl : IssueSlot) (t : Team) (g : Guard) (ld st cp tl : BitVec 4),
  Issuing s sl t → Distinct t →
  let ls := lanesOf t sl g
  let met (x : Thread) : Prop := (ld = 15#4 ∨ x.ld ≤ ld.toNat) ∧ (st = 15#4 ∨ x.st ≤ st.toNat) ∧ (cp = 15#4 ∨ t.cp ≤ cp.toNat) ∧ (tl = 15#4 ∨ t.tl ≤ tl.toNat)
  ∃ s' : State, exec (.waitc g ld st cp tl) s = .next s' ∧
    ((∀ x ∈ ls, met x) → ld ≠ 0#4 → s' = s) ∧
    s' = { s with teams := s'.teams, issue := s'.issue } ∧
    (∃ sl', s'.issue = some sl' ∧ sl' = { sl with group := sl'.group } ∧
      ∀ n, n ∈ sl'.group ↔ n ∈ sl.group ∧ ∀ x ∈ ls, x.tid = n → met x) ∧
    ∃ t', s'.team? t.id = some t' ∧ t' = { t with threads := t'.threads } ∧ ∀ n y, t.thread? n = some y →
      (y ∈ ls → ¬ met y → t'.thread? n = some (asleepAt sl (.waitc ld.toNat st.toNat cp.toNat tl.toNat) y)) ∧
      (y ∉ ls ∨ (met y ∧ ld ≠ 0#4) → t'.thread? n = some y) ∧
      (y ∈ ls → met y → ld = 0#4 → ∃ y', t'.thread? n = some y' ∧ y' = { y with regs := y'.regs, frags := y'.frags, trans := y'.trans, flips := [] } ∧
        (∀ r : Nat, ((∀ f ∈ y.flips, f.code ≠ r) ∨ ∃ q ∈ y.frags, q.code = r) → tabGet 0#32 r y'.regs = tabGet 0#32 r y.regs) ∧
        y'.frags = (y.frags.map fun q => { q with val := if y.flips.any fun f => f.code == q.code then State.settledReg y' q.code else q.val }) ∧
        (∀ p ∈ y'.trans, p ∈ y.trans) ∧ (∀ p ∈ y.trans, (∀ f ∈ y.flips, f.code ≠ p.1) → p ∈ y'.trans) ∧
        ((y.flips.map (·.code)).Nodup → ∀ f ∈ y.flips, State.settledReg y' f.code = f.new ∨ (f.written = true ∧ State.settledReg y' f.code = f.old)))

/-! ### Copy engine, tags and matrix engine (chapter 9) -/

namespace Sys2Proof.Spec

open Machine

/-- No debugger holds a capability, so nothing is traced (R358, R374). -/
def Untraced (s : State) : Prop := s.dbg.caps = []

/-- The four copies (Table 9.2): kind, element bytes, tag, rank-mask register, and the three pairs. -/
def copyForm : Instr → Option (Guard × CopyKind × Nat × Nat × Option Reg × Reg × Reg × Reg)
  | .cpy g e tag a b c => some (g, .cpy, e.bytes, tag.toNat, none, a, b, c)
  | .cpym g e tag d a b c => some (g, .cpym, e.bytes, tag.toNat, some d, a, b, c)
  | .cpyo g e tag a b c => some (g, .cpyo, e.bytes, tag.toNat, none, a, b, c)
  | .cpyx g e tag a b c => some (g, .cpyx, e.bytes, tag.toNat, none, a, b, c)
  | _ => none

def low64 (n : Nat) : Word := BitVec.ofNat 32 n
def high64 (n : Nat) : Word := BitVec.ofNat 32 (n / 2 ^ 32)

/-- A tag after a copy is given to it, and after one of its copies ends with a status (R189). -/
def Tag.given (g : Tag) : Tag := ⟨g.count + 1, false, if g.count = 0 then 0 else g.status⟩
def Tag.ended (g : Tag) (status : Nat) : Tag := ⟨g.count - 1, g.done || g.count == 1, max g.status status⟩

/-- An operation as its thread issued it. -/
structure GivenTo (t : Team) (x : Thread) (e : EngOp) : Prop where
  who : e.core = t.core ∧ e.team = t.id ∧ e.asid = t.asid ∧ e.cluster = t.cluster ∧ e.tid = x.tid ∧ e.crew = x.crew ∧ e.lane = x.lane
  fresh : e.inHand = false ∧ e.parked = none ∧ e.seen = [] ∧ e.moved = [] ∧ e.kept = []

/-- The machine after an operation went to its engine: numbered, queued last, and with `team` saying what became of its team; besides
that only the launch's command count moved. -/
structure Queued (s u : State) (t : Team) (e : EngOp) (t' : Team) : Prop where
  engs : u.engs = s.engs ++ [e]
  number : e.id = s.nextId ∧ u.nextId = s.nextId + 1
  machine : u = { s with engs := u.engs, nextId := u.nextId, teams := u.teams, grids := u.grids }
  team : u.team? t.id = some t'
  others : ∀ id, id ≠ t.id → u.team? id = s.team? id

/-- A sticky status, its tile and its failed ranks after one more operation or part (R201, R203). -/
def stickyAfter (z : Sticky) (status tile failed : Nat) : Sticky where
  status := max z.status status
  tile := if status = 0 ∨ status < z.status then z.tile else if z.status < status then tile else min z.tile tile
  failed := z.failed ||| BitVec.ofNat 8 failed

/-- A tile operation's effect on its team at issue (R201): `tl` rises, the sticky status starts anew after a returned TWAIT, with what gang parts
have failed since (log entry 35), and the tile is open until a TWAIT or a barrier phase covers the operation. -/
def tileIssued (t : Team) (tile id : Nat) (signal : Option Nat) : Team :=
  { t with
    tl := t.tl + 1
    tstat := if t.tstat.returned then
        { status := t.tstat.fresh.status, tile := t.tstat.fresh.tile, failed := t.tstat.fresh.failed, returned := false, fresh := t.tstat.fresh, last := t.tstat.last }
      else t.tstat
    tiles := t.tiles.zipIdx.map fun p => if p.2 = tile then { p.1 with opens := p.1.opens ++ [⟨id, t.id, signal⟩] } else p.1 }

/-- A tile operation has left its engine (R201): `tl` falls, the sticky status takes its status and its tile, and until it is covered the tile
shows one fixed pattern (R3), that of `fill`. -/
def tileEnded (t : Team) (tile status failed fill : Nat) : Team :=
  { t with
    tl := t.tl - 1
    tiles := t.tiles.zipIdx.map fun p => if p.2 = tile then { p.1 with hidden := fill } else p.1
    tstat :=
      let y := stickyAfter ⟨t.tstat.status, t.tstat.tile, t.tstat.failed⟩ status tile failed
      { status := y.status, tile := y.tile, failed := y.failed, returned := t.tstat.returned, fresh := stickyAfter t.tstat.fresh status tile failed, last := status } }

/-- Of a team's threads nothing has changed but whether their fragment registers show one fixed pattern (R3, R184). -/
def FragsSettled (t t' : Team) : Prop := t'.threads.length = t.threads.length ∧ ∀ (i : Nat) (y : Thread), t.threads[i]? = some y →
  ∃ y' : Thread, t'.threads[i]? = some y' ∧ y' = { y with frags := y'.frags } ∧ y'.frags.map (fun f => (f.code, f.val)) = y.frags.map fun f => (f.code, f.val)

/-- An operation its engine may perform: queued, not held, nothing of its tile in front of it. -/
structure Startable (s : State) (e : EngOp) (t : Team) : Prop where
  eng : s.eng? e.id = some e
  held : s.engHeld e = false
  team : s.team? e.team = some t
  front : s.tileBlocked e = false

/-- The tile n of a team, and its element (i, k) as any reader sees it (R48). -/
def elemOf (t : Team) (n i k : Nat) : Option Word := (t.tiles[n]?).map fun z => z.get i k

end Sys2Proof.Spec

/-- R183, R189: a copy of the group's lowest lane goes to the core's copy engine: its tag counts it, `cp` rises, the clause goes on; a tag
that the team lacks takes 0x0E, whose frame names no operand code (log entry 18). -/
def Obligations.CopiesIssue : Prop := ∀ i g k e tag d a b c, copyForm i = some (g, k, e, tag, d, a, b, c) →
  ∀ (s : State) (sl : IssueSlot) (t : Team) (x : Thread) (rest : List Thread), Issuing s sl t → lanesOf t sl g = x :: rest →
  (∀ r ∈ d.toList ++ pairCodes a ++ pairCodes b ++ pairCodes c, holds (t.crewOf x) r = true) →
  (t.tags.length ≤ tag → exec i s = .next (s.deliver sl.team x.tid sl.clause sl.idx (plainFault 0x0E))) ∧
  ∀ z, t.tags[tag]? = some z → ∃ (u : State) (op : EngOp), exec i s = .next u ∧ GivenTo t x op ∧ op.tag = tag ∧ op.queued = false ∧
    op.kind = .copy k e tag (low64 (rd64 t x a)) (high64 (rd64 t x a)) (low64 (rd64 t x b)) (high64 (rd64 t x b))
      (low64 (rd64 t x c)) (high64 (rd64 t x c)) (match d with | some r => rd t x r | none => 0) ∧
    Queued s u t op { t with cp := t.cp + 1, tags := t.tags.set tag (Tag.given z) }

/-- R189 to R192: a copy that nothing holds ends (said where nothing is traced, its translations are at hand and no row is being copied). One that
R191 does not let start ends with status 2 and writes nothing. Of one that may start the unit events that it has not performed yet, whose
sources are all readable, are performed: CPYO leaves at each byte of its destination a byte that one of its events writes there, the last
event's where rows do not overlap, and no other byte of memory changes; CPY, CPYM and CPYX leave memory, and in each share they write the
events' bytes, and no byte outside the box changes; of CPYX, whose source may overlap, the bytes of the source itself are not said, and every
other byte takes the source as it was before the copy wrote there. The tag then counts the copy down with status 0. -/
def Sys2Proof.Spec.CopiesSucceed : Prop := ∀ (s : State) (op : EngOp) (t : Team) (k : CopyKind) (e tag : Nat)
  (src0 src1 dst0 dst1 box0 box1 mask : Word) (z : Tag), Untraced s → s.eng? op.id = some op → op.kind = .copy k e tag src0 src1 dst0 dst1 box0 box1 mask →
  s.team? op.team = some t → t.tags[tag]? = some z → s.engHeld op = false →
  let us := State.unitsLeft op box0 e
  let offsets (p : State.CopyUnit) : List Nat := State.unitOffsets dst0.toNat dst1.toNat e p
  let sources (p : State.CopyUnit) : List Nat := State.unitOffsets src0.toNat src1.toNat e p
  (s.copyOk t k e src0 src1 dst0 dst1 box0 box1 mask = false →
    ∃ u : State, exec (.copyComplete op.id) s = .next (u.wakeTags op.team).settle ∧
      u = { s with engs := s.engs.filter fun y => y.id != op.id, teams := u.teams } ∧
      u.team? op.team = some { t with cp := t.cp - 1, tags := t.tags.set tag (Tag.ended z 2) }) ∧
  ((∀ va ∈ State.copyVirt k e src0 src1 dst0 dst1 box1 us, s.canWalk t.die t.asid va = true) → s.svc.rowCopies = [] →
   s.copyOk t k e src0 src1 dst0 dst1 box0 box1 mask = true → ∀ data, (us.mapM fun p => s.copySource t k e op.kept src0 src1 box1 p) = .ok data →
  (∀ pas, k = .cpyo → (us.mapM fun p => s.copyDest t e dst0 dst1 box1 p) = .ok pas →
    ∃ u : State, (∃ w, exec (.copyComplete op.id) s = .next { (u.wakeTags op.team).settle with walked := w }) ∧ u.engs = s.engs.filter (fun y => y.id != op.id) ∧
      u.team? op.team = some { t with cp := t.cp - 1, tags := t.tags.set tag (Tag.ended z 0) } ∧
      (∀ (i pa : Nat) (bs : List Byte) (j : Nat), boxCols box0 * e ≤ box1.toNat → pas[i]? = some pa → data[i]? = some bs → j < bs.length →
        (∀ (i' pa' : Nat) (bs' : List Byte), i < i' → pas[i']? = some pa' → data[i']? = some bs' → pa + j < pa' ∨ pa' + bs'.length ≤ pa + j) →
        some (memByte u.mem (pa + j)) = bs[j]?) ∧
      (∀ b, (∃ (i pa : Nat) (bs : List Byte), pas[i]? = some pa ∧ data[i]? = some bs ∧ pa ≤ b ∧ b < pa + bs.length) →
        ∃ (i pa : Nat) (bs : List Byte), pas[i]? = some pa ∧ data[i]? = some bs ∧ pa ≤ b ∧ some (memByte u.mem b) = bs[b - pa]?) ∧
      ∀ b, (∀ (i pa : Nat) (bs : List Byte), pas[i]? = some pa → data[i]? = some bs → b < pa ∨ pa + bs.length ≤ b) → memByte u.mem b = memByte s.mem b) ∧
  (k ≠ .cpyo →
    ∃ (u : State) (t' : Team), (∃ w, exec (.copyComplete op.id) s = .next { (u.wakeTags op.team).settle with walked := w }) ∧ u.mem = s.mem ∧
      u.engs = s.engs.filter (fun y => y.id != op.id) ∧ u.team? op.team = some t' ∧
      t' = { t with cp := t.cp - 1, tags := t.tags.set tag (Tag.ended z 0), scratch := t'.scratch, scratchPoison := t'.scratchPoison } ∧
      ∀ v0 ∈ s.copyTargets t k dst0 mask, s.team? v0.id = some v0 → ∃ v, u.team? v0.id = some v ∧
        (∀ o, (∀ p ∈ us, o ∉ offsets p) → v.scratchByte o = v0.scratchByte o) ∧
        (∀ (i : Nat) (p : State.CopyUnit) (bs : List Byte) (j o : Nat), us[i]? = some p → data[i]? = some bs → (offsets p)[j]? = some o →
          (k ≠ .cpyx ∨ s.descShare t src0.toNat ≠ some v0.id ∨ ∀ q ∈ State.copyUnits box0 e, o ∉ sources q) → (offsets p).Nodup →
          (∀ (i' : Nat) (p' : State.CopyUnit), i < i' → us[i']? = some p' → o ∉ offsets p') → some (v.scratchByte o) = bs[j]?)))

/-- Table 19.4: the entry of a fault of an operation on an engine that parks, up to the time of its recording; `source` is the kind of the
engine, and `unit` the operation's tag or tile. -/
def Sys2Proof.Spec.engEntry (s : State) (e : EngOp) (t : Team) (source unit : Nat) (c : Byte) (addr access token : Nat) : List Byte :=
  toBytes 8 addr ++ toBytes 2 e.asid ++ [c, BitVec.ofNat 8 (32 * source + 16 + 4 * access)] ++ toBytes 2 e.core ++
    [BitVec.ofNat 8 (32 * t.slot + e.crew), BitVec.ofNat 8 unit, BitVec.ofNat 8 (((s.grid? t.grid).map (·.queue)).getD 0), 0, 0, 0] ++ toBytes 4 token

/-- R191, R321, R327, R328: a copy whose remaining events cannot all be read or placed. On a translation or permission fault it parks in a replayable
context, once the fault is recorded at FBWP, with the token that its entry names, the next new number (the model's choice, log entry 68), and in
another it ends with status 1; on a data error it ends with
status 3 and its context is marked failed. Its destination is then undefined within the box, and no other byte of a share changes (said where
nothing is traced, no step is under way, the fault buffer has room, its translations are at hand and no row is being copied). -/
def Sys2Proof.Spec.CopiesFail : Prop := ∀ (s : State) (op : EngOp) (t : Team) (k : CopyKind) (e tag : Nat)
  (src0 src1 dst0 dst1 box0 box1 mask : Word) (z : Tag) (q : Context) (c : Byte) (addr access : Nat), Untraced s → s.dbg.steps = [] → s.eng? op.id = some op →
  op.kind = .copy k e tag src0 src1 dst0 dst1 box0 box1 mask → s.team? op.team = some t → t.tags[tag]? = some z → s.engHeld op = false →
  s.copyOk t k e src0 src1 dst0 dst1 box0 box1 mask = true → s.ctx? op.asid = some q → s.waits = [] → s.fbReady (op.core / 1024) = true →
  let us := State.unitsLeft op box0 e
  (∀ va ∈ State.copyVirt k e src0 src1 dst0 dst1 box1 us, s.canWalk t.die t.asid va = true) → s.svc.rowCopies = [] →
  (k = .cpyo → boxRows box0 = 1 ∨ boxCols box0 * e ≤ box1.toNat) →
  ((us.mapM fun p => s.copySource t k e op.kept src0 src1 box1 p) = .error (c, addr, access) ∨
    (k = .cpyo ∧ (∃ data, (us.mapM fun p => s.copySource t k e op.kept src0 src1 box1 p) = .ok data) ∧
      (us.mapM fun p => s.copyDest t e dst0 dst1 box1 p) = .error (c, addr, access))) →
  let ends (status : Nat) : Prop := ∃ (u : State) (t' : Team), (∃ w, exec (.copyComplete op.id) s = .next { (u.wakeTags op.team).settle with walked := w }) ∧
    u.engs = s.engs.filter (fun y => y.id != op.id) ∧ u.team? op.team = some t' ∧
    t' = { t with cp := t.cp - 1, tags := t.tags.set tag (Tag.ended z status), scratch := t'.scratch, scratchPoison := t'.scratchPoison } ∧
    (∀ v0 ∈ s.teams, s.team? v0.id = some v0 → ∃ v, u.team? v0.id = some v ∧
      ∀ o, (∀ p ∈ boxElems (boxRows box0) (boxCols box0), o ∉ State.elemOffsets dst0.toNat dst1.toNat e p.1 p.2) → v.scratchByte o = v0.scratchByte o) ∧
    (status = 3 → ∃ q', u.ctx? op.asid = some q' ∧ q'.failed = true)
  (c = 0x09 → ends 3) ∧
  (c ≠ 0x09 → (q.desc.replayable = false ∨ (c ≠ 0x06 ∧ c ≠ 0x07)) → ends 1) ∧
  (q.desc.replayable = true → s.nextId ≠ 0 → (c = 0x06 ∨ c = 0x07) → ∃ (u : State) (op' : EngOp), exec (.copyComplete op.id) s = .next u ∧ u.teams = s.teams ∧
    u.eng? op.id = some op' ∧ op' = { op with inHand := true, parked := some s.nextId } ∧ u.nextId = s.nextId + 1 ∧
    (u.die (op.core / 1024)).fb.wp = ((s.die (op.core / 1024)).fb.wp + 1) % 16384 ∧
    ((∃ d, s.region ((s.die (op.core / 1024)).fb.base + 32 * (s.die (op.core / 1024)).fb.wp) = .hbm d) →
      poked s.mem u.mem ((s.die (op.core / 1024)).fb.base + 32 * (s.die (op.core / 1024)).fb.wp)
        (engEntry s op t 1 op.tag c addr access s.nextId ++ toBytes 8 s.refTime)))

/-- R189 to R192: copies end with their bytes in place, refused, or failed. -/
def Obligations.CopiesComplete : Prop := Spec.CopiesSucceed ∧ Spec.CopiesFail

/-- R193, R194: TGWANY and TGWALL let a lane go on when a tag, or every tag, of its mask is done and put it to sleep otherwise; a mask that
names a tag the team lacks takes 0x0E, whose frame names no operand code (log entry 18), an empty TGWANY mask 0x14 (said of a group with one
lane). -/
def Sys2Proof.Spec.TagWaits : Prop := ∀ (s : State) (sl : IssueSlot) (t : Team) (g : Guard) (a : Reg) (x : Thread) (all : Bool),
  Issuing s sl t → Distinct t → AllHold t sl g (pairCodes a) → lanesOf t sl g = [x] →
  let i : Instr := if all then .tgwall g a else .tgwany g a
  let m := rd64 t x a
  let done (n : Nat) : Bool := match t.tags[n]? with | some z => z.done | none => false
  let met : Prop := if all then ∀ n, m.testBit n = true → done n = true else ∃ n, m.testBit n = true ∧ done n = true
  t.tags.length ≤ 64 →
  (2 ^ t.tags.length ≤ m → exec i s = .next (s.deliver sl.team x.tid sl.clause sl.idx (plainFault 0x0E))) ∧
  (m = 0 → all = false → exec i s = .next (s.deliver sl.team x.tid sl.clause sl.idx (plainFault 0x14))) ∧
  (m < 2 ^ t.tags.length → (m ≠ 0 ∨ all = true) → met → exec i s = .next s) ∧
  (m < 2 ^ t.tags.length → (m ≠ 0 ∨ all = true) → ¬ met → ∃ s' : State, exec i s = .next s' ∧
    s' = { s with teams := s'.teams, issue := some (without sl [x.tid]) } ∧ Rethreaded s' t fun y => if y = x then
      asleepAt sl (if all then .tagAll (BitVec.ofNat 64 m) else .tagAny (BitVec.ofNat 64 m)) y else y)

/-- R194: TGFF writes the number and status of the lowest done tag of each lane's mask, or 0x400, and under `.clr` clears those tags; TGCLR
clears the tags of its mask that count nothing. A mask that names a tag the team lacks takes 0x0E in both, and nothing is written or cleared
(said of a group with one lane; log entry 18). TGFF's result is said of lanes with no uncovered fragment register (R184). -/
def Sys2Proof.Spec.TagsFoundAndCleared : Prop := ∀ (s : State) (sl : IssueSlot) (t : Team) (g : Guard) (T clr : Bool) (d a : Reg),
  Issuing s sl t → Distinct t → t.tags.length ≤ 64 →
  let ls := lanesOf t sl g
  let inMask (x : Thread) (n : Nat) : Prop := (rd64 t x a).testBit n = true
  let found (x : Thread) (n : Nat) : Prop := inMask x n ∧ (∃ z, t.tags[n]? = some z ∧ z.done = true) ∧
    ∀ m, m < n → inMask x m → ∀ z, t.tags[m]? = some z → z.done = false
  (∀ x, ls = [x] → 2 ^ t.tags.length ≤ rd64 t x a →
    (AllHold t sl g (d :: pairCodes a) → exec (.tgff g T clr d a) s = .next (s.deliver sl.team x.tid sl.clause sl.idx (plainFault 0x0E))) ∧
    (AllHold t sl g (pairCodes a) → exec (.tgclr g a) s = .next (s.deliver sl.team x.tid sl.clause sl.idx (plainFault 0x0E)))) ∧
  ((∀ x ∈ ls, rd64 t x a < 2 ^ t.tags.length) →
  (AllHold t sl g (d :: pairCodes a) → (∀ x ∈ ls, x.frags = []) → ∃ s' u : State, exec (.tgff g T clr d a) s = .next s' ∧
    (∃ w : Thread → Word, RegsWritten s u sl t (Active t sl g) T (fun x _ => [(d, w x)]) (fun x _ => x.preds) ∧
      ∀ x ∈ ls, (∀ n z, found x n → t.tags[n]? = some z → w x = BitVec.ofNat 32 (n + 256 * z.status)) ∧
        ((∀ n, inMask x n → ∀ z, t.tags[n]? = some z → z.done = false) → w x = 0x400#32)) ∧
    (clr = false → s' = u) ∧
    (clr = true → s' = { u with teams := s'.teams } ∧ ∃ t' t'', u.team? t.id = some t' ∧ s'.team? t.id = some t'' ∧ t'' = { t' with tags := t''.tags } ∧
      ∀ n z, t'.tags[n]? = some z → ((∃ x ∈ ls, found x n) → t''.tags[n]? = some { z with done := false, status := 0 }) ∧
        ((∀ x ∈ ls, ¬ found x n) → t''.tags[n]? = some z))) ∧
  (AllHold t sl g (pairCodes a) → ∃ s' : State, exec (.tgclr g a) s = .next s' ∧ s' = { s with teams := s'.teams } ∧
    ∃ t', s'.team? t.id = some t' ∧ t' = { t with tags := t'.tags } ∧ ∀ n z, t.tags[n]? = some z →
      ((∃ x ∈ ls, inMask x n) ∧ z.count = 0 → t'.tags[n]? = some { z with done := false, status := 0 }) ∧
      (¬ ((∃ x ∈ ls, inMask x n) ∧ z.count = 0) → t'.tags[n]? = some z)))

/-- R196, R201, R204: MZERO and MLOAD of the group's lowest lane queue a tile operation; a tile the team lacks takes 0x0E,
whose frame names no operand code (log entry 18). -/
def Obligations.TileLoadsIssue : Prop := ∀ (s : State) (sl : IssueSlot) (t : Team) (g : Guard) (tile : BitVec 6) (a : Reg) (x : Thread)
  (rest : List Thread) (zero : Bool), Issuing s sl t → lanesOf t sl g = x :: rest → (zero = false → ∀ r ∈ pairCodes a, holds (t.crewOf x) r = true) →
  let i : Instr := if zero then .mzero g tile else .mload g tile a
  (t.tiles.length ≤ tile.toNat → exec i s = .next (s.deliver sl.team x.tid sl.clause sl.idx (plainFault 0x0E))) ∧
  (tile.toNat < t.tiles.length → ∃ (u : State) (e : EngOp), exec i s = .next u ∧ GivenTo t x e ∧ e.tile = tile.toNat ∧
    e.kind = (if zero then .mzero else .mload (low64 (rd64 t x a)) (high64 (rd64 t x a))) ∧ e.parts = [] ∧ e.queued = false ∧ e.signal = none ∧
    e.after = (if zero then [] else x.mfence) ∧ Queued s u t e (tileIssued t tile.toNat s.nextId none))

/-- R195, R200 to R203: MISSUE and MGANG read the parameter block at issue and queue the product with the descriptors read then: `tl` rises,
a named barrier expects a signal, and with no register operand nothing of the threads changes; teams that have no part of it, memory and the
rest of the machine stay as they are; a read of global memory is seen on its link and leaves its translation in the die's unit. A block that cannot
be read takes its fault, which names the structure of a data error (log entry 24), then the default chunk at PORTABLE 0x0A, then a masked rank
that has retired 0x0F (in this order: log entry 92). -/
def Obligations.ProductsIssue : Prop := ∀ (s : State) (sl : IssueSlot) (t : Team) (g : Guard) (gang win : Bool) (a b c : Reg) (x : Thread)
  (rest : List Thread), Issuing s sl t → lanesOf t sl g = x :: rest →
  (∀ r ∈ (if win then [a] else pairCodes a) ++ pairCodes b ++ pairCodes c, holds (t.crewOf x) r = true) →
  let i : Instr := if gang then .mgang g win a b c else .missue g win a b c
  let addr := if win then un (rd t x a) else rd64 t x a
  let ranks := ((s.grid? t.grid).map fun q => q.launch.w * q.launch.h).getD 1
  let gone (m : Nat) : Prop := ∃ r, r < ranks ∧ m.testBit r = true ∧ ∀ u ∈ s.teams, u.cluster = t.cluster → u.rank = r → u.res ≠ .resident
  let asked : State := if win then s else s.agentRead t.die t.asid addr 64 .read .program
  (∀ q, s.readBlock t win addr = .error q →
    exec i s = .next (s.deliver sl.team x.tid sl.clause sl.idx { targetFault q addr with
      access := some 0, detail := if q ≠ 0x09 then 0 else if win = true then 2 else s.virtErrorClass t.die t.asid addr 64 })) ∧
  ∀ d, s.readBlock t win addr = .ok d →
    (defaultChunk (blockOf d) = true → detOf s t = 3 → exec i s = .next (asked.deliver sl.team x.tid sl.clause sl.idx (plainFault 0x0A))) ∧
    ((defaultChunk (blockOf d) = true → detOf s t ≠ 3) → gang = true → gone (blockOf d).mask →
      exec i s = .next (asked.deliver sl.team x.tid sl.clause sl.idx (plainFault 0x0F))) ∧
    ((defaultChunk (blockOf d) = true → detOf s t ≠ 3) → (gang = true → ¬ gone (blockOf d).mask) →
      ∃ (u : State) (e : EngOp), exec i s = .next u ∧ u.engs = s.engs ++ [e] ∧ e.id = s.nextId ∧ u.nextId = s.nextId + 1 ∧
        u = { s with engs := u.engs, nextId := u.nextId, teams := u.teams, grids := u.grids, clusters := u.clusters, out := asked.out,
                     tlb := asked.tlb, walked := asked.walked, draws := u.draws } ∧
        (∀ id, id ≠ t.id → (∀ q ∈ e.parts, q.team ≠ id) → u.team? id = s.team? id) ∧
        ((s.cluster? t.cluster).isSome = true → ∀ j, let z := s.bar ⟨.cluster, t.cluster, 0, j⟩
          u.bar ⟨.cluster, t.cluster, 0, j⟩ = if (blockOf d).signal = true ∧ j = (blockOf d).bar then { z with expected := z.expected + 1 } else z) ∧
        GivenTo t x e ∧ e.queued = false ∧ e.tile = (blockOf d).tile ∧ e.after = x.mfence ∧
        e.kind = .mma ⟨d, low64 (rd64 t x b), high64 (rd64 t x b), low64 (rd64 t x c), high64 (rd64 t x c), gang, x.crew, detOf s t⟩ ∧
        e.signal = (if (blockOf d).signal then some (blockOf d).bar else none) ∧
        (∀ q ∈ e.parts, gang = true ∧ q.status = none ∧ (blockOf d).mask.testBit q.rank = true) ∧
        ∃ t', u.team? t.id = some t' ∧ t'.tl = t.tl + 1 ∧ t'.cp = t.cp ∧ t'.tags = t.tags ∧ t'.crews = t.crews ∧
          ((blockOf d).aReg = false → (blockOf d).bReg = false → t'.threads = t.threads))

/-- R206, R208: MDRAIN of the group's lowest lane queues a drain with its operands as read then; a `.tk` drain waits for its ticket. A tile
the team lacks takes 0x0E (log entry 18), a format code that `q` does not take 0x02, the whole register being the code (log entry 93), a `.tk`
drain after ticket 0 was passed 0x14, and an unordered `.add` from REPEAT up 0x0A, checked in this order (log entry 92). -/
def Sys2Proof.Spec.DrainsIssue : Prop := ∀ (s : State) (sl : IssueSlot) (t : Team) (g : Guard) (z : Drain) (x : Thread) (rest : List Thread),
  Issuing s sl t → lanesOf t sl g = x :: rest →
  (∀ r ∈ (if z.fmt = .q then [z.d] else []) ++ (if z.glob then pairCodes z.a else [z.a]) ++ [z.b] ++ (if z.amax.isSome then pairCodes z.c else []) ++
    (if z.sr then pairCodes (if z.amax.isSome then z.c + 2#8 else z.c) else []), holds (t.crewOf x) r = true) →
  let code := match z.fmt with | .f32 => 0 | .bf16 => 1 | .f16 => 2 | .e4m3 => 8 | .e5m2 => 9 | .q => un (rd t x z.d)
  let fault (c : Byte) : Prop := exec (.mdrain g z) s = .next (s.deliver sl.team x.tid sl.clause sl.idx (plainFault c))
  let badCode : Prop := z.fmt = .q ∧ ((5 < code ∧ isFp8 code = false) ∨ (z.sat = false ∧ (code = 4 ∨ code = 5)))
  let passed : Prop := z.tk = true ∧ ∃ p ∈ t.passed, p.n = 0
  let unordered : Prop := z.add = true ∧ z.tk = false ∧ 1 ≤ detOf s t
  (t.tiles.length ≤ z.tile.toNat → fault 0x0E) ∧
  (z.tile.toNat < t.tiles.length → badCode → fault 0x02) ∧
  (z.tile.toNat < t.tiles.length → ¬ badCode → passed → fault 0x14) ∧
  (z.tile.toNat < t.tiles.length → ¬ badCode → ¬ passed → unordered → fault 0x0A) ∧
  (z.tile.toNat < t.tiles.length → ¬ badCode → ¬ passed → ¬ unordered → ∃ (u : State) (e : EngOp) (k : DrainArgs), exec (.mdrain g z) s = .next u ∧
    GivenTo t x e ∧ e.tile = z.tile.toNat ∧ e.queued = z.tk ∧ e.parts = [] ∧ e.signal = none ∧ e.kind = .drain k ∧
    k.form = z ∧ k.code = code ∧ k.dest = (if z.glob then rd64 t x z.a else un (rd t x z.a)) ∧ k.vpitch = rd t x z.b ∧ k.written = false ∧
    (z.amax.isSome = true → k.amaxAddr = rd64 t x z.c) ∧
    (z.sr = true → k.ka = low64 (rd64 t x (if z.amax.isSome then z.c + 2#8 else z.c)) ∧ k.kb = high64 (rd64 t x (if z.amax.isSome then z.c + 2#8 else z.c))) ∧
    Queued s u t e (tileIssued t z.tile.toNat s.nextId none))

/-- R37 to R43, R201, R204: a tile operation that nothing holds ends: MZERO leaves the tile and its record zero, a valid MLOAD the 64 × 64
words of its descriptor (those of its elements that it has not read before, R184), an integer product each element's start value plus the exact products. `tl` falls and the sticky status takes
the status; a product whose block or operands break a condition ends with status 2 and changes no element (said where nothing is
traced and no element is spoiled). -/
def Sys2Proof.Spec.TileOperationsComplete : Prop := ∀ (s : State) (e : EngOp) (t : Team) (z : Tile), Untraced s → Startable s e t →
  t.tiles[e.tile]? = some z → z.spoiled = [] → e.signal = none →
  (e.kind = .mzero → ∃ u : State, exec (.tileOpComplete e.id) s = .next (u.wakeTwait e.team).settle ∧
    u = { s with engs := s.engs.filter fun y => y.id != e.id, teams := u.teams, nextId := s.nextId + 1 } ∧
    u.team? e.team = some (tileEnded { t with tiles := t.tiles.set e.tile { z with fill := none, elems := [], record := [0, 0, 0, 0] } } e.tile 0 0 s.nextId)) ∧
  (∀ w0 w1, e.kind = .mload w0 w1 → s.descOk t w0.toNat w1.toNat 64 64 4 = false → ∃ u : State,
    exec (.tileOpComplete e.id) s = .next (u.wakeTwait e.team).settle ∧ u.team? e.team = some (tileEnded t e.tile 2 0 s.nextId)) ∧
  (∀ w0 w1 v o, e.kind = .mload w0 w1 → s.descOk t w0.toNat w1.toNat 64 64 4 = true → s.windowTarget t w0.toNat = some (v, o) → v.scratchPoison = [] →
    ∃ (u : State) (t' : Team), exec (.tileOpComplete e.id) s = .next (u.wakeTwait e.team).settle ∧ u.mem = s.mem ∧ u.team? e.team = some t' ∧
      (∀ i k, i < 64 → k < 64 → tabFind (State.seenKey 0 0 i k) e.seen = none → elemOf t' e.tile i k = some (BitVec.ofNat 32 (ofBytes ((State.elemOffsets w0.toNat w1.toNat 4 i k).map v.scratchByte)))) ∧
      t'.tl = t.tl - 1 ∧ t'.tstat.last = 0 ∧ ∀ n, n ≠ e.tile → t'.tiles[n]? = t.tiles[n]?) ∧
  (∀ x, e.kind = .mma x → x.gang = false → blockOk (blockOf x.block) false t.tiles.length
      (((s.grid? t.grid).map fun g => g.launch.w * g.launch.h).getD 1) t.rank = false → ∃ u : State,
    exec (.tileOpComplete e.id) s = .next (u.wakeTwait e.team).settle ∧
    ∃ t', u.team? e.team = some t' ∧ t' = { tileEnded t e.tile 2 0 s.nextId with threads := t'.threads } ∧ FragsSettled t t') ∧
  (∀ x, e.kind = .mma x → x.gang = false →
    let b := blockOf x.block
    let oa := s.operandOf t t e.crew (State.seenOf e t.rank 0) b.aReg x.a0 x.a1 b.fa b.m b.k
    let ob := s.operandOf t t e.crew (State.seenOf e t.rank 1) b.bReg x.b0 x.b1 b.fb b.n b.k
    blockOk b false t.tiles.length (((s.grid? t.grid).map fun g => g.launch.w * g.launch.h).getD 1) t.rank = true →
    b.tile = e.tile → oa.ok = true → ob.ok = true → oa.poisoned = false → ob.poisoned = false → isIntCode b.fa = true →
    ∃ (u : State) (t' : Team), exec (.tileOpComplete e.id) s = .next (u.wakeTwait e.team).settle ∧ u.mem = s.mem ∧ u.team? e.team = some t' ∧
      (∀ i j, i < b.m → j < b.n → elemOf t' e.tile i j = some (elementInt (if b.op = 2 then 0 else z.get i j)
        ((List.range b.k).map fun k => operandInt b.fa (oa.raw i k) * operandInt b.fb (ob.raw j k)))) ∧
      (∀ i j, i < 64 → j < 64 → (b.m ≤ i ∨ b.n ≤ j) → elemOf t' e.tile i j = some (z.get i j)) ∧ t'.tl = t.tl - 1 ∧ t'.tstat.last = 0)

/-- R208: a queued drain begins when ticket counter 0 of its grid has its team's number, a `.tk` drain also under a freeze, and not before. -/
def Sys2Proof.Spec.TicketedDrainsStart : Prop := ∀ (s : State) (e : EngOp) (t : Team), s.eng? e.id = some e → s.team? e.team = some t → Untraced s →
  (e.queued = true → t.res = .resident → (s.enginesFrozen e.asid = false ∨ ∃ x, e.kind = .drain x ∧ x.form.tk = true) → (s.ticket t.grid 0).value = number s t →
    ∃ s' : State, exec (.tkDrainStart e.id) s = .next s' ∧ s' = { s with engs := s'.engs } ∧
      s'.eng? e.id = some { e with queued := false, inHand := true }) ∧
  ((e.queued = false ∨ (s.ticket t.grid 0).value ≠ number s t) → exec (.tkDrainStart e.id) s = .next s)

/-- R201, R43, R184: TWAIT with no tile operation of the team outstanding acts as a device acquire, covers the team's operations on its own tiles, and
on members' tiles those of gangs without a signal (log entry 35), returns the fragment registers, and then writes the sticky status to its
lanes and nothing else; otherwise its lanes sleep. -/
def Obligations.TwaitReturnsStatus : Prop := ∀ (s : State) (sl : IssueSlot) (t : Team) (g : Guard) (d : Reg) (x : Thread) (rest : List Thread),
  Issuing s sl t → Distinct t → AllHold t sl g [d] → lanesOf t sl g = x :: rest →
  let covered : Team := { t with
    tstat := { t.tstat with returned := true, fresh := ⟨0, 0, 0⟩ }
    tiles := t.tiles.map fun k => { k with opens := k.opens.filter fun o => o.team != t.id }
    threads := t.threads.map fun y => { y with regs := y.frags.foldl (fun r f => tabPut 0#32 f.code f.val r) y.regs, frags := [] } }
  (t.tl = 0 → ∃ s' u : State, exec (.twait g d) s = .next s' ∧
    u = { s with l1 := l1Without s t, teams := u.teams } ∧ u.team? t.id = some covered ∧
    (∀ id q, id ≠ t.id → s.team? id = some q → u.team? id = some { q with tiles := q.tiles.map fun k =>
      { k with opens := k.opens.filter fun o => o.team != t.id || o.bar.isSome } }) ∧
    RegsWritten u s' sl covered (Active covered sl g) false (fun _ _ => [(d,
      BitVec.ofNat 32 (t.tstat.status + 256 * (if t.tstat.status = 0 then 0 else t.tstat.tile) + 65536 * t.tstat.failed.toNat))]) (fun x _ => x.preds)) ∧
  (t.tl ≠ 0 → ∃ s' : State, exec (.twait g d) s = .next s' ∧
    s' = { s with teams := s'.teams, issue := some (without sl ((x :: rest).map (·.tid))) } ∧
    Rethreaded s' t fun y => if y ∈ x :: rest then asleepAt sl (.twait (laneDest (x :: rest) y d)) y else y)

/-- R205, R199, R43, R3: MREAD writes each active lane its row's element of the tile, MSWR each lane the four words of the swamping record,
clearing it under `.clr`: the element and the record themselves on a tile that no uncovered operation holds; while one is pending what is
read is not said, and once it is complete and not yet covered one fixed pattern is read. MWRITE writes the elements of its lanes' rows and
no other. A tile the team lacks takes 0x0E of each lane, whose frame names no operand code (log entry 18). MFENCE marks, for each lane, its earlier acquires and its earlier stores and
atomics to scratchpad. -/
def Obligations.TileReadsAndWrites : Prop := ∀ (s : State) (sl : IssueSlot) (t : Team) (g : Guard) (T hi clr : Bool) (col tile : BitVec 6) (d : Reg),
  Issuing s sl t → Distinct t →
  let ls := lanesOf t sl g
  let row (x : Thread) : Nat := x.lane + if hi then 32 else 0
  let lacks (i : Instr) : Prop := exec i s = .next (ls.foldl (fun u x => u.deliver sl.team x.tid sl.clause sl.idx (plainFault 0x0E)) s)
  (exec (.mfence g) s = .next (s.modTeam t.id fun t => { t with threads := t.threads.map fun y => if ls.any (fun x => x.tid == y.tid) then
    { y with mfence := (s.accs.filter fun a => a.ofThread t.id y.tid && (a.acq || ((a.isStore || a.isAtom) &&
      (match a.space with | .window _ => true | _ => false)))).map (·.id) } else y })) ∧
  (t.tiles[tile.toNat]? = none → (AllHold t sl g [d] → lacks (.mread g T hi col tile d) ∧ lacks (.mwrite g hi col tile d)) ∧
    (AllHold t sl g (quadCodes d) → lacks (.mswr g T clr tile d))) ∧
  ∀ z, t.tiles[tile.toNat]? = some z →
    (AllHold t sl g [d] → ∃ (s' u : State) (f : Thread → Word), exec (.mread g T hi col tile d) s = .next s' ∧ s' = { u with draws := s.draws + 1 } ∧
      RegsWritten s u sl t (Active t sl g) T (fun x _ => [(d, f x)]) (fun x _ => x.preds) ∧
      (z.opens = [] → ∀ x ∈ ls, f x = z.get (row x) col.toNat) ∧
      (z.opens ≠ [] → s.tilePending z = false → ∀ x ∈ ls, f x = Config.undefWord z.hidden (64 * row x + col.toNat))) ∧
    (AllHold t sl g (quadCodes d) → ∃ (s' u : State) (f : Thread → Nat → Word), exec (.mswr g T clr tile d) s = .next s' ∧
      s' = { u with teams := s'.teams, draws := s.draws + 1 } ∧
      RegsWritten s u sl t (Active t sl g) T (fun x _ => (List.range 4).map fun i => (d + BitVec.ofNat 8 i, f x i)) (fun x _ => x.preds) ∧
      (z.opens = [] → ∀ x ∈ ls, ∀ i, i < 4 → f x i = z.record.getD i 0) ∧
      (clr = false ∨ ls = [] → s'.teams = u.teams) ∧
      (clr = true → ls ≠ [] → ∃ t' t'', u.team? t.id = some t' ∧ s'.team? t.id = some t'' ∧ t'' = { t' with tiles := t''.tiles } ∧
        t''.tiles[tile.toNat]? = some { z with record := [0, 0, 0, 0] } ∧ ∀ n, n ≠ tile.toNat → t''.tiles[n]? = t.tiles[n]?)) ∧
    (AllHold t sl g [d] → (ls.map (·.lane)).Nodup → ∃ (s' : State) (t' : Team) (z' : Tile),
      exec (.mwrite g hi col tile d) s = .next s' ∧ s' = { s with teams := s'.teams } ∧ s'.team? t.id = some t' ∧ t' = { t with tiles := t'.tiles } ∧
        t'.tiles[tile.toNat]? = some z' ∧ z' = { z with elems := z'.elems, spoiled := z'.spoiled } ∧ (∀ n, n ≠ tile.toNat → t'.tiles[n]? = t.tiles[n]?) ∧
        (∀ x ∈ ls, z'.get (row x) col.toNat = rd t x d) ∧
        (∀ i k, i < 64 → k < 64 → (k ≠ col.toNat ∨ ∀ x ∈ ls, row x ≠ i) → z'.get i k = z.get i k) ∧
        (s.tilePending z = false → z'.spoiled = z.spoiled))


/-! ### Control flow and system instructions (chapters 6 and 10) -/

namespace Sys2Proof.Spec

open Machine

/-- 16 × imm32 bytes from a clause header (R114), and the clause that a code index names (R61). -/
def relative (clause : Nat) (imm : Word) : Nat := (((clause : Int) + 16 * imm.toInt) % 2 ^ 64).toNat
def codeIndex (s : State) (t : Team) (v : Word) : Nat := (s.window t.asid + 16 * un v) % 2 ^ 64

/-- Thread x of team t has gone to the clause at `va`, whose header is `hdr` and whose words are `ws`: it stands at index 0 there, has left its
group, its link register (with its T bit) is written and its call depth has moved; registers with transient results are undefined (R54), also as
the old value of a register whose load no wait has covered, which reads its old or its new value (R55). Besides that only the core's instruction
cache, the die's cached translations and what fetches and walks asked of a link differ. -/
structure Moved (s s' : State) (t : Team) (x : Thread) (idx va : Nat) (hdr : DWord) (ws : List DWord) (link : Option (Bool × Reg × Word))
    (depth : BitVec 16) : Prop where
  machine : s' = { s with teams := s'.teams, icache := s'.icache, tlb := s'.tlb, out := s'.out,
                          issue := s.issue.map fun sl => if sl.team = t.id then without sl [x.tid] else sl }
  others : ∀ id, id ≠ t.id → s'.team? id = s.team? id
  team : ∃ t' : Team, s'.team? t.id = some t' ∧ t' = { t with threads := t'.threads } ∧ (∀ n, n ≠ x.tid → t'.thread? n = t.thread? n) ∧
    ∃ y z : Thread, t'.thread? x.tid = some y ∧ LaneWrote ((link.map (·.1)).getD false) idx (link.map (·.2)).toList x.preds x z ∧
      y = { z with regs := y.regs, frags := y.frags, flips := y.flips, callDepth := x.callDepth + depth, clause := va, idx := 0, hdr := hdr, words := ws,
                   run := .active, window := [], trans := [], stamp := none, skipBpt := false, arrive := none } ∧
      y.frags.map (fun f => (f.code, f.settled)) = z.frags.map (fun f => (f.code, f.settled)) ∧
      y.flips.map (fun f => (f.code, f.new, f.written)) = z.flips.map (fun f => (f.code, f.new, f.written)) ∧
      (∀ c r, isV r = true → (∀ q ∈ z.trans, q.1 ≠ r.toNat) → (∀ f ∈ x.flips, f.code ≠ r.toNat) → readReg y c r = readReg z c r) ∧
      ∀ f ∈ y.flips, (y.flips.map (·.code)).Nodup → (∀ q ∈ y.frags, q.code ≠ f.code) → tabGet 0#32 f.code y.regs = f.new ∨ tabGet 0#32 f.code y.regs = f.old

/-- No store of the thread to its private memory is pending. -/
def PrivateQuiet (s : State) (t : Team) (x : Thread) : Prop := ∀ a ∈ s.accs, a.team = t.id → a.tid = x.tid → a.space ≠ .priv

/-- A special register (Table 4.4). -/
def specialReg (s : State) (t : Team) (x : Thread) (r : SReg) : Nat :=
  let g := s.grid? t.grid
  match r with
  | .tid => x.tid | .lane => x.lane % 32 | .crew => x.crew % 32
  | .teamX => t.x | .teamY => t.y | .teamZ => t.z
  | .nteams => (g.map fun g => g.launch.gx * g.launch.gy * g.launch.gz).getD 0
  | .crank => t.rank % 8
  | .cshape => (g.map fun g => g.launch.w + 2 ^ 4 * g.launch.h).getD 0
  | .core => t.core % 32 + 2 ^ 8 * (t.core / 32 % 32)
  | .die => t.core / 1024 % 2 + 2 ^ 8 * (g.map fun g => g.dies.length).getD 0
  | .depth => (g.map fun g => g.launch.depth).getD 0
  | .rgen => un t.rgen
  | .cyc => (s.die (t.core / 1024)).cyc
  | .ncyc => (s.die (t.core / 1024)).ncyc / 2 ^ 16
  | .ref => s.now % 2 ^ 64
  | .tagmap => ((List.range t.tags.length).map fun n => if (t.tags[n]?.map (·.done)) = some true then 2 ^ n else 0).sum
  | .tlstat => t.tl % 64 + 2 ^ 8 * (t.cp % 64) + 2 ^ 16 * (t.tstat.last % 4)
  | .detlvl => detOf s t
  | .trapvec => un x.trapvec
  | .fault => un x.sfault
/-- From which determinism level SREAD traps. -/
def hiddenFrom : SReg → Nat
  | .cyc | .ncyc | .ref => 1
  | .core | .die => 2
  | _ => 4

/-- n bytes at offset o of some bytes, as a number. -/
def field (bs : List Byte) (o n : Nat) : Nat := ofBytes ((bs.drop o).take n)

/-- The frame of a fault (Table 4.5): clause address, index, cause, flags, size code, thread, address, generator, predicates and time. -/
structure FrameOf (bs : List Byte) (s : State) (t : Team) (x : Thread) (clause idx : Nat) (f : FaultInfo) (live : Bool) : Prop where
  length : bs.length = 192
  clause : field bs 0 8 = clause % 2 ^ 64
  idx : field bs 8 1 = idx % 16
  cause : field bs 9 1 = f.cause.toNat
  flags : field bs 10 1 = (if f.addrValid then 1 else 0) + (if live then 2 else 0) + (if f.resumeAfter then 8 else 0)
  size : field bs 11 1 = f.sizeCode % 256
  thread : field bs 12 4 = (32 * x.crew + x.lane) % 2 ^ 32
  addr : field bs 16 8 = (if f.addrValid then f.addr else 0) % 2 ^ 64
  rgen : field bs 24 4 = un t.rgen
  preds : field bs 28 4 = x.preds.toNat
  time : field bs 32 8 = s.now % 2 ^ 64

end Sys2Proof.Spec

/-- R75, R77, R114 to R121: BRA, BRX, CALL, CALLX and RET send their lanes, in ascending order, to the target; CALL and CALLX put the
return index into d and raise the call depth, RET lowers it, and a RET to 0xFFFFFFFF ends the thread. CALLX reads its entry as an acquire at
device scope, or takes the fault of that read, as a load of eight bytes (that the frame tells the read so is the model's reading, log entry
18). A transfer goes to a clause whose header and footprint pass the checks; a target that is misaligned, cannot be fetched (a data error in that
word, 0x09, among it: the model's reading, log entry 84), or is no header charges its fault to the thread, and a clause that fails the checks
of entry charges them at its index 0. A thread that an ICSYNC holds (R223) stays at its transfer until the invalidation (log entry 71). -/
def Obligations.BranchesAndCalls : Prop := ∀ (s : State) (sl : IssueSlot) (t : Team) (g : Guard) (imm : Word) (T : Bool) (d a : Reg) (entry : BitVec 11),
  Issuing s sl t →
  let ls := lanesOf t sl g
  let back (u : State) : Word := BitVec.ofNat 32 ((sl.clause + (State.hdrN sl.hdr + 2) / 2 * 16 - u.window t.asid) / 16)
  exec (.bra g imm) s = .next (ls.foldl (fun u x => u.transfer sl x.tid (relative sl.clause imm) none 0#16) s) ∧
  (AllHold t sl g [a] → exec (.brx g a) s = .next (ls.foldl (fun u x => u.transfer sl x.tid (codeIndex u t (rd t x a)) none 0#16) s)) ∧
  (AllHold t sl g [d] →
    exec (.call g d imm) s = .next (ls.foldl (fun u x => u.transfer sl x.tid (relative sl.clause imm) (some (false, d, back u)) 1#16) s)) ∧
  (AllHold t sl g [d, a] → exec (.callx g ⟨d, T⟩ a entry) s = .next (ls.foldl (fun u x =>
    let at_ := u.window t.asid + 16 * (un (rd t x a) + entry.toNat)
    if 2 ^ 32 ≤ un (rd t x a) + entry.toNat then u.deliver sl.team x.tid sl.clause sl.idx (accessFault 0x07 at_ 3 0)
    else match u.readVirt t.die t.asid at_ 8 .entry .program with
      | .error c => u.deliver sl.team x.tid sl.clause sl.idx
          { accessFault c at_ 3 0 with detail := if c = 0x09#8 then u.virtErrorClass t.die t.asid at_ 8 else 0 }
      | .ok bs => (({ u.askVirt t.die t.asid at_ 8 .entry .program with l1 := l1Without u t } : State).cacheWalks t.die t.asid
          .entry .program [at_]).transfer sl x.tid (ofBytes bs) (some (T, d, back u)) 1#16) s)) ∧
  (AllHold t sl g [a] → exec (.ret g a) s = .next (ls.foldl (fun u x =>
    if rd t x a = 0xFFFFFFFF#32 then u.exitThread sl.team x.tid else u.transfer sl x.tid (codeIndex u t (rd t x a)) none 0xFFFF#16) s)) ∧
  ∀ (u : State) (v : Team) (x : Thread) (target : Nat) (link : Option (Bool × Reg × Word)) (depth : BitVec 16),
    u.team? sl.team = some v → v.thread? x.tid = some x →
    let u' := u.transfer sl x.tid target link depth
    let bad (from' : State) (c : Byte) : Prop := u' = from'.deliver sl.team x.tid sl.clause sl.idx
      { targetFault c target with detail := if c = 0x09#8 then u.virtErrorClass (v.core / 1024) v.asid target 8 else 0 }
    let read := u.fetched v.core v.asid target 1
    (target % 16 ≠ 0 → bad u 0x03) ∧
    (target % 16 = 0 → x.icsync ≠ [] → u' = u.holdArrival sl.team x.tid sl.clause sl.idx (.jump target link depth)) ∧
    (target % 16 = 0 → x.icsync = [] → (∀ c, u.fetchWord v.core v.asid target = .error c → bad u c) ∧
      ∀ w, u.fetchWord v.core v.asid target = .ok w → (w.toNat / 2 ^ 56 = 0xFB → bad read 0x05) ∧ (w.toNat / 2 ^ 56 ≠ 0xFA → w.toNat / 2 ^ 56 ≠ 0xFB → bad read 0x04) ∧
        (w.toNat / 2 ^ 56 = 0xFA → (∀ ws, u.entryFetch v.core v.asid target w = .ok ws → Moved u u' v x sl.idx target w ws link depth) ∧
          ∀ f, u.entryFetch v.core v.asid target w = .error f → ∃ m : State, Moved u m v x sl.idx target w [] link depth ∧
            u' = m.deliver sl.team x.tid target 0 f))

/-- R123, R124, R231: EXIT ends its lanes, which never issue again, marked as ended by a fault where their frame is live (said of one lane); NOP changes
nothing; YIELD marks its lanes, and a hold whose time has come is lifted. -/
def Obligations.ThreadsEndAndYield : Prop := ∀ (s : State) (sl : IssueSlot) (t : Team) (g : Guard), Issuing s sl t → Distinct t →
  let ls := lanesOf t sl g
  (exec (.nop g) s = .next s) ∧
  (∃ u : State, exec (.yield g) s = .next u ∧ u = { s with teams := u.teams } ∧
    Rethreaded u t fun y => if y ∈ ls then { y with yielded := true } else y) ∧
  ((∀ x ∈ ls, PrivateQuiet s t x) → ∃ (u : State) (e : Nat → Bool), exec (.exit g) s = .next u ∧
    u = { s with teams := u.teams, issue := some (without sl (ls.map (·.tid))), tlb := u.tlb, out := u.out } ∧
    (∀ x, ls = [x] → e x.tid = (s.frameLive t x == some true) ∧
      (s.frameLive t x = none → u.tlb = s.tlb ∧ u.out = s.out) ∧
      (s.frameLive t x ≠ none → u.tlb = (s.askPriv t x.tid (x.sfault.toNat + 10) 1).tlb ∧ u.out = (s.askPriv t x.tid (x.sfault.toNat + 10) 1).out)) ∧
    Rethreaded u t fun y => if y ∈ ls then
      { y with run := .exited, stamp := none, hold := none, watch := none, yielded := false, arrive := none,
               endedByFault := y.endedByFault || e y.tid }
      else y) ∧
  ∀ x ∈ t.threads, ∃ u : State, exec (.yieldHoldExpiry t.id x.tid) s = .next u ∧ u = { s with teams := u.teams } ∧
    Rethreaded u t fun y => if y = x ∧ ((x.hold.map fun h => decide (h ≤ (s.die (t.core / 1024)).cyc)) = some true) ∧ t.res = .resident then { y with hold := none } else y

/-- R213, R214, R60: SREAD gives each lane the register of Table 4.4, a pair for a wide one, and takes 0x0A from the level on that hides
it; SWRITE sets `s.trapvec` or `s.fault` of its lanes, which must be a multiple of 64 (0x12) with 192 bytes behind it (0x13), and the frame
of a refused one tells the value as its address (the model's reading, log entry 17). -/
def Obligations.SpecialRegisters : Prop := ∀ (s : State) (sl : IssueSlot) (t : Team) (g : Guard) (T : Bool) (sel : SReg) (d a : Reg), Issuing s sl t →
  let ls := lanesOf t sl g
  let dst := if sel.wide then pairCodes d else [d]
  (AllHold t sl g dst → detOf s t < hiddenFrom sel → ∃ s' : State, exec (.sread g T sel d) s = .next s' ∧
    RegsWritten s s' sl t (Active t sl g) T (fun x _ =>
      let v := specialReg s t x sel
      if sel.wide = false then [(d, low64 v)] else if d = 0xFF#8 then [] else [(d, low64 v), (d + 1#8, high64 v)]) (fun x _ => x.preds)) ∧
  (AllHold t sl g dst → hiddenFrom sel ≤ detOf s t →
    exec (.sread g T sel d) s = .next (ls.foldl (fun u x => u.deliver sl.team x.tid sl.clause sl.idx (plainFault 0x0A)) s)) ∧
  (Distinct t → AllHold t sl g [a] → (sel ≠ .trapvec → ∀ x ∈ ls, un (rd t x a) % 64 = 0 ∧ un (rd t x a) + 192 ≤ s.privSize t) →
    ∃ u : State, exec (.swrite g sel a) s = .next u ∧ u = { s with teams := u.teams } ∧
      Rethreaded u t fun y => if y ∈ ls then (if sel = .trapvec then { y with trapvec := rd t y a } else { y with sfault := rd t y a }) else y) ∧
  ∀ x, ls = [x] → AllHold t sl g [a] → sel ≠ .trapvec →
    let v := un (rd t x a)
    (v % 64 ≠ 0 → exec (.swrite g sel a) s = .next (s.deliver sl.team x.tid sl.clause sl.idx { targetFault 0x12 v with access := none })) ∧
    (v % 64 = 0 → s.privSize t < v + 192 →
      exec (.swrite g sel a) s = .next (s.deliver sl.team x.tid sl.clause sl.idx { targetFault 0x13 v with access := none }))

/-- R222, R223: CJOIN without unretired children goes on as a device acquire, and otherwise puts its lanes to sleep. ICSYNC makes its
lanes wait for their stores and copies; once they are done the instruction caches in its scope lose every word, and not before, and a thread
that has come to the end of its clause meanwhile then enters what it was on its way to (log entry 71: the model's order). -/
def Obligations.JoinsAndCodeSync : Prop := ∀ (s : State) (sl : IssueSlot) (t : Team) (g : Guard) (sc : Scope), Issuing s sl t → Distinct t →
  let ls := lanesOf t sl g
  let children := s.grids.filter fun h => h.parent == some t.id && (match h.state with | .retired _ => false | _ => true)
  (ls ≠ [] → children = [] → exec (.cjoin g) s = .next { s with l1 := l1Without s t }) ∧
  (children ≠ [] → ∃ u : State, exec (.cjoin g) s = .next u ∧ u = { s with teams := u.teams, issue := some (without sl (ls.map (·.tid))) } ∧
    Rethreaded u t fun y => if y ∈ ls then asleepAt sl .cjoin y else y) ∧
  (∃ u : State, exec (.icsync g sc) s = .next u ∧ u = { s with teams := u.teams } ∧
    Rethreaded u t fun y => if y ∈ ls then
      { y with icsync := y.icsync ++ [⟨s.nextAcc, sc, (s.accs.filter fun a => a.ofThread t.id y.tid && a.isStore).map (·.id),
                               (s.engs.filter fun e => e.team == t.id && (match e.kind with | .copy .. => true | _ => false)).map (·.id)⟩] }
      else y) ∧
  ∀ x w ws, x ∈ t.threads → x.icsync = w :: ws →
    let busy : Prop := (∃ i ∈ w.stores, ∃ a ∈ s.accs, a.id = i) ∨ ∃ i ∈ w.copies, ∃ e ∈ s.engs, e.id = i
    let within (c : Nat) : Bool := match w.scope with
      | .crew | .team => c == t.core
      | .cluster => s.teams.any fun u => u.cluster == t.cluster && u.core == c
      | _ => true
    (busy → exec (.invalidationComplete t.id x.tid) s = .next s.settle) ∧
    (¬ busy → ∃ u : State, exec (.invalidationComplete t.id x.tid) s = .next (u.arriveNow t.id x.tid).settle ∧
      (x.run ≠ .active ∨ ws ≠ [] ∨ x.arrive = none → u.arriveNow t.id x.tid = u) ∧
      (x.run = .active → ws = [] → let v := u.modThread t.id x.tid fun y => { y with arrive := none }
        (∀ target link depth, x.arrive = some (.jump target link depth) → u.arriveNow t.id x.tid = v.jump t.id x.tid x.clause x.idx target link depth) ∧
        (x.arrive = some .fall → u.arriveNow t.id x.tid = v.fallThrough t.id x.tid) ∧
        (∀ target f, x.arrive = some (.handler target f) → u.arriveNow t.id x.tid = v.enterHandler t.id x.tid x.clause x.idx target f) ∧
        (x.arrive = some .rett → u.arriveNow t.id x.tid = v.rettThread t.id x.tid x.clause x.idx)) ∧
      u = { s with teams := u.teams, icache := s.icache.filter fun k => !within k.core } ∧
      Rethreaded u t fun y => if y = x then { y with icsync := ws } else y)

/-- R220, R308: CLAUNCH of the group's lowest lane. A record that is accepted becomes a waiting child grid of the next number, and a
release marker follows the thread's stores; one that R308 turns away makes no grid, and has 2 written into its completion word where it has
one (that the thread goes on, and the front end that writes it, are the model's, log entry 22). A misaligned record takes 0x12, one that cannot
be read the cause of that read, a launch at depth 9 0x0B, a field out of its range 0x0E (with detail 0, log entry 18), a level above the grid's
own 0x0A, in this order (the model's, log entry 22). -/
def Obligations.ChildLaunch : Prop := ∀ (s : State) (sl : IssueSlot) (t : Team) (g : Guard) (a : Reg) (x : Thread) (rest : List Thread) (q : Grid),
  Issuing s sl t → lanesOf t sl g = x :: rest → (∀ r ∈ pairCodes a, holds (t.crewOf x) r = true) → s.grid? t.grid = some q →
  (∀ y ∈ s.accs, y.kind ≠ .store) →
  let p := rd64 t x a
  let s₀ := s
  let fault (f : FaultInfo) : Prop := exec (.claunch g a) s = .next (s.deliver sl.team x.tid sl.clause sl.idx f)
  (p % 64 ≠ 0 → fault { targetFault 0x12 p with access := some 0 }) ∧
  (∀ c, p % 64 = 0 → s.readVirt t.die t.asid p 64 .read .program = .error c →
    fault { targetFault c p with access := some 0, detail := if c = 0x09#8 then s.virtErrorClass t.die t.asid p 64 else 0 }) ∧
  ∀ bs, p % 64 = 0 → s.readVirt t.die t.asid p 64 .read .program = .ok bs →
    let s := s.agentRead t.die t.asid p 64 .read .program
    let fault (f : FaultInfo) : Prop := exec (.claunch g a) s₀ = .next (s.deliver sl.team x.tid sl.clause sl.idx f)
    let l := recordLaunch bs (q.launch.depth + 1) 1 q.launch.maxDies q.launch.hint
    let fits : Prop := l.inRange = true ∧ field bs 24 4 < 2 ^ 29 ∧ field bs 28 4 < 2 ^ 10 ∧ field bs 60 4 = 0 ∧
      (detOf s t = 0 → (s.childrenOf t.id).length < 64)
    (q.launch.depth = 9 → fault (plainFault 0x0B)) ∧
    (q.launch.depth ≠ 9 → ¬ fits → fault (plainFault 0x0E)) ∧
    (q.launch.depth ≠ 9 → fits → detOf s t < l.detmin → fault (plainFault 0x0A)) ∧
    (q.launch.depth ≠ 9 → fits → l.detmin ≤ detOf s t → s.refused l t.asid (detOf s t) q.dies (some t.id) = true → l.completion = 0 →
      exec (.claunch g a) s₀ = .next s) ∧
    (q.launch.depth ≠ 9 → fits → l.detmin ≤ detOf s t → s.refused l t.asid (detOf s t) q.dies (some t.id) = true → l.completion ≠ 0 →
      exec (.claunch g a) s₀ = .next (s.reportWrite (s.medlar t.queue) t.asid l.completion 3 t.queue (toBytes 8 2))) ∧
    (q.launch.depth ≠ 9 → fits → l.detmin ≤ detOf s t → s.refused l t.asid (detOf s t) q.dies (some t.id) = false →
      ∃ (u : State) (child : Grid) (m : Access), exec (.claunch g a) s₀ = .next u.settle ∧
        u = { s with grids := s.grids ++ [child], nextId := s.nextId + 1, accs := s.accs ++ [m], nextAcc := s.nextAcc + 1 } ∧
        child = { child with id := s.nextId, launch := l, parent := some t.id, queue := t.queue, asid := t.asid, packet := q.packet,
                             dies := q.dies, killed := q.killed, qrpAtStart := q.qrpAtStart, state := .waiting, tickets := List.replicate 4 ⟨l.ticketBase, false⟩, placed := 0, next := 0 } ∧
        m = { newAccess sl t x (.launch s.nextId) .global 0 0 .b8 .device .rel .normal 0xFF#8 [] 0 with
              id := s.nextAcc, group := m.group, after := m.after
              relAt := some (match x.fenceRel with | some f => wider .device f | none => .device) })

/-- R63 to R65, R215, R216, R217: a trap of one lane. TRAP (cause 0x11) and, with no debugger, BPT (0x10) resume after themselves. A
thread that has a trap vector and whose frame is not live stores the frame, frame-live set, and goes to the handler, where an ICSYNC holds it after
the invalidation (R223, log entry 71); a live frame, no vector, a frame that cannot be read or written and a handler that cannot be entered take
the path of R65: the thread stops (where it stands there is the model's reading, log entry 13), the fault is recorded, and the
thread is an origin of its debugger's wave or of the end of its context. -/
def Obligations.ExceptionEntry : Prop := ∀ (s : State) (sl : IssueSlot) (t : Team) (g : Guard) (code : BitVec 11) (x : Thread), Issuing s sl t →
  Distinct t → lanesOf t sl g = [x] →
  (let u := s.note sl.team x.tid sl.idx none true
   exec (.trap g code) s = .next (u.deliver sl.team x.tid sl.clause sl.idx { plainFault 0x11 with resumeAfter := true }) ∧
   (s.attached t.asid = false → exec (.bpt g) s = .next (u.deliver sl.team x.tid sl.clause sl.idx { plainFault 0x10 with resumeAfter := true })) ∧
   ∃ y, u.thread? sl.team x.tid = some y ∧ y = { x with window := ⟨sl.idx, 0, 0, 0xFF, true, false, false, none⟩ :: x.window.filter fun w => w.idx != sl.idx }) ∧
  ∀ (u : State) (v : Team) (y : Thread) (clause idx : Nat) (f : FaultInfo), u.team? v.id = some v → v.thread? y.tid = some y → PrivateQuiet u v y →
    let u' := u.deliver v.id y.tid clause idx f
    let bs := u.frameBytes y clause idx y.preds v.rgen y.window f true false
    FrameOf bs u v y clause idx f true ∧
    let asked := u.askPriv v y.tid (un y.sfault + 10) 1
    (y.trapvec = 0xFFFFFFFF#32 ∨ u.frameLive v y = none → u' = u.r65Path v.id y.tid clause idx f) ∧
    (y.trapvec ≠ 0xFFFFFFFF#32 → u.frameLive v y = some true → u' = asked.r65Path v.id y.tid clause idx f) ∧
    (∀ c, y.trapvec ≠ 0xFFFFFFFF#32 → u.frameLive v y = some false → asked.writeFrame v y bs = .error c → u' = asked.r65Path v.id y.tid clause idx f) ∧
    (∀ (w₀ : State) v' y', y.trapvec ≠ 0xFFFFFFFF#32 → u.frameLive v y = some false → asked.writeFrame v y bs = .ok w₀ →
      let w := w₀.keepShadow v.id y clause (idx + if f.resumeAfter then 1 else 0)
      let handler := w.window v.asid + 16 * un y.trapvec
      w.team? v.id = some v' → v'.thread? y.tid = some y' →
      (y.icsync ≠ [] → u' = w.holdArrival v.id y.tid clause idx (.handler handler f)) ∧
      (y.icsync = [] → ∀ c, w.landing v.core v.asid handler = .error c → u' = (w.fetched v.core v.asid handler 1).r65Path v.id y.tid clause idx f) ∧
      (y.icsync = [] → ∀ hdr, w.landing v.core v.asid handler = .ok hdr →
        (∀ ws, w.entryFetch v.core v.asid handler hdr = .ok ws → Moved w u' v' y' idx handler hdr ws none 0#16) ∧
        ∀ f', w.entryFetch v.core v.asid handler hdr = .error f' → ∃ m : State, Moved w m v' y' idx handler hdr [] none 0#16 ∧
          u' = m.r65Path v.id y.tid handler 0 f')) ∧
    ∃ w : State, w = { u with teams := w.teams, issue := u.issue.map fun k => if k.team = v.id then without k [y.tid] else k } ∧
      (∃ z, w.thread? v.id y.tid = some z ∧ z = { y with clause := clause, idx := idx + (if f.resumeAfter then 1 else 0), run := .stopped false, stamp := none }) ∧
      (u.fbReady v.die = true → (∀ k ∈ u.waits, k.die ≠ v.die) → ∃ e : List Byte, field e 10 1 = f.cause.toNat ∧ field e 8 2 = v.asid % 2 ^ 16 ∧
        field e 0 8 = (match f.access with | some _ => f.addr | none => clause) % 2 ^ 64 ∧
        u.r65Path v.id y.tid clause idx f = (w.fbWrite v.die e).afterR65 v.id y.tid f.cause)

/-- R218, R64: RETT of one lane. With a live frame it takes its position, predicates and transient results from the frame, clears
frame-live, and goes on at the saved index, or behind it where the frame says so; at the end of the clause it falls through, unchecked. A
frame that is not live takes 0x02, a misaligned saved clause 0x03, a saved clause with no header there and one that fails the checks of entry
their fault, all at RETT's own place (the last is the model's choice, log entry 100). A thread that an ICSYNC holds waits at RETT (R223, log entry
71). -/
def Obligations.ExceptionReturn : Prop := ∀ (s : State) (sl : IssueSlot) (t : Team) (g : Guard) (x : Thread) (fr : List Byte), Issuing s sl t →
  Distinct t → lanesOf t sl g = [x] → (x.icsync ≠ [] → exec (.rett g) s = .next (s.holdArrival t.id x.tid sl.clause sl.idx .rett)) ∧
  (x.icsync = [] → PrivateQuiet s t x → s.privRead t x.tid (un x.sfault) 192 = .ok fr →
  let flags := field fr 10 1
  let clause := field fr 0 8
  let rho := field fr 8 1 % 16 + (if flags.testBit 3 then 1 else 0)
  let asked := s.askPriv t x.tid (un x.sfault) 192
  let fault (f : FaultInfo) : Prop := exec (.rett g) s = .next (asked.deliver sl.team x.tid sl.clause sl.idx f)
  let stands (y : Thread) (hdr : DWord) (ws : List DWord) : Prop :=
    y = { x with clause := clause, idx := rho, hdr := hdr, words := ws, preds := BitVec.ofNat 7 (field fr 28 4), run := .active, stamp := none,
                 skipBpt := false, arrive := none, regs := y.regs, frags := y.frags, flips := y.flips, window := y.window, trans := y.trans } ∧
    (∀ k ∈ y.window, k.idx < rho ∧ rho ≤ k.idx + 8 ∧ (rho ≤ k.idx + 7 → k.trans = true →
      let o := 64 + 16 * (k.idx + 8 - rho)
      (field fr (o + 9) 1).testBit 0 = true ∧ k.lo = BitVec.ofNat 32 (field fr o 4) ∧ (k.wide = true → k.hi = BitVec.ofNat 32 (field fr (o + 4) 4)))) ∧
    ((∀ k ∈ y.window, k.trans = false) → y.trans = [] ∧ ∀ c r, isV r = true → (∀ q ∈ x.trans, q.1 ≠ r.toNat) → (∀ q ∈ x.flips, q.code ≠ r.toNat) →
      (∀ q ∈ x.frags, q.code ≠ r.toNat) → readReg y c r = readReg x c r)
  (flags.testBit 1 = false → fault (plainFault 0x02)) ∧
  (flags.testBit 1 = true → clause % 16 ≠ 0 →
    (∀ hdr, asked.fetchWord t.core t.asid clause = .ok hdr → hdr.toNat / 2 ^ 56 = 0xFA → rho ≠ State.hdrN hdr) → fault (targetFault 0x03 clause)) ∧
  (∀ hdr f, flags.testBit 1 = true → clause % 16 = 0 → asked.landing t.core t.asid clause = .ok hdr → rho ≠ State.hdrN hdr →
    asked.entryFetch t.core t.asid clause hdr = .error f →
    exec (.rett g) s = .next ((asked.fetchedTo t.core t.asid clause hdr f).deliver sl.team x.tid sl.clause sl.idx f)) ∧
  (∀ c, flags.testBit 1 = true → clause % 16 = 0 → asked.landing t.core t.asid clause = .error c →
    exec (.rett g) s = .next ((asked.fetched t.core t.asid clause 1).deliver sl.team x.tid sl.clause sl.idx
      { targetFault c clause with detail := if c = 0x09#8 then asked.virtErrorClass t.die t.asid clause 8 else 0 })) ∧
  (∀ hdr ws w, flags.testBit 1 = true → clause % 16 = 0 → asked.landing t.core t.asid clause = .ok hdr → asked.entryFetch t.core t.asid clause hdr = .ok ws →
    asked.privWriteByte t x.tid (un x.sfault + 10) (BitVec.ofNat 8 (flags - 2)) = .ok w → rho < State.hdrN hdr →
    ∃ (u : State) (y : Thread), exec (.rett g) s = .next u ∧
      u = { w with teams := u.teams, icache := u.icache, tlb := u.tlb, out := u.out, issue := some (without sl [x.tid]) } ∧
      u.thread? t.id x.tid = some y ∧ stands y hdr ws) ∧
  ∀ hdr w, flags.testBit 1 = true → asked.fetchWord t.core t.asid clause = .ok hdr → hdr.toNat / 2 ^ 56 = 0xFA → rho = State.hdrN hdr →
    asked.privWriteByte t x.tid (un x.sfault + 10) (BitVec.ofNat 8 (flags - 2)) = .ok w →
    ∃ (u : State) (y : Thread), exec (.rett g) s = .next (u.fallThrough t.id x.tid) ∧
      u = { w with teams := u.teams, issue := some (without sl [x.tid]) } ∧ u.thread? t.id x.tid = some y ∧ stands y hdr [])


/-! ### Scheduling, placement, queues, collectives (chapters 11, 12, 18, 20) -/

namespace Sys2Proof.Spec

open Machine

/-- Thread x of team t may be selected on a core: it is ready (R231) and it is its turn in its team's wave (R238). -/
def Selectable (s : State) (core : Nat) (t : Team) (x : Thread) : Prop :=
  t ∈ s.teams ∧ t.core = core ∧ t.res = .resident ∧ x ∈ t.threads ∧ x.run = .active ∧ s.isReady false t x = true ∧ s.waveTurn t x = true
/-- Ready longer, or as long and of a lower lane, or both and of a lower crew (R233). -/
def Earlier (s : State) (t : Team) (x : Thread) (u : Team) (y : Thread) : Prop :=
  s.rankStamp t x < s.rankStamp u y ∨ (s.rankStamp t x = s.rankStamp u y ∧
    (x.lane % 32 < y.lane % 32 ∨ (x.lane % 32 = y.lane % 32 ∧ x.crew % 32 < y.crew % 32)))
/-- Thread y of team t may be selected, stands where x does, and is ready for the words that x has fetched too. -/
def AtPlace (s : State) (core : Nat) (t : Team) (x y : Thread) : Prop :=
  Selectable s core t y ∧ y.clause = x.clause ∧ y.idx = x.idx ∧ s.isReady false t (State.asFetched x y) = true
/-- Team and grid numbers are each used once, and are below the next number (R228, R309). -/
def FreshNumbers (s : State) : Prop :=
  (s.teams.map (·.id)).Nodup ∧ (s.grids.map (·.id)).Nodup ∧ (∀ t ∈ s.teams, t.id < s.nextId ∧ Distinct t) ∧ ∀ g ∈ s.grids, g.id < s.nextId

/-- Nothing but queue q differs, and it is y. -/
structure OnlyQueue (s u : State) (q : Nat) (y : Queue) : Prop where
  machine : u = { s with queues := u.queues }
  queue : u.queue q = y
  others : ∀ r, r ≠ q → u.queue r = s.queue r

/-- A queue past the packet or node at its cursor, which counts as started (R299, R307, R377). -/
def passed (x : Queue) (target : Nat) : Queue :=
  let y : Queue := { x with state := .idle, held := none, parkedWord := none, retrying := false, test := none, startCount := x.startCount + 1 }
  if x.cursor ≠ 0 ∧ target ≠ 0 then { y with cursor := target } else { y with cursor := 0, rp := x.rp + 1 }
/-- A queue turned OFF, and one in FAULT (R298, R307). -/
def turnedOff (x : Queue) : Queue :=
  { x with state := .off, cause := 0, cursor := 0, held := none, parkedWord := none, retrying := false, test := none, ctl := x.ctl &&& 0xFFFFFFFFFFFFF7FF }
def faultedQueue (x : Queue) (cause : Nat) : Queue :=
  { x with state := .fault, cause := cause, held := none, parkedWord := none, retrying := false, test := none }
/-- A queue that lets its started packets finish (R298). -/
def draining (x : Queue) : Queue := { x with state := .drain, held := none, parkedWord := none, retrying := false, test := none }
/-- A queue's vector, raised if it is enabled; a packet's vector (bit 9). -/
def queueVector (u : State) (x : Queue) : State := if x.ctl.getLsbD 23 then u.raise (x.ctl.toNat / 2 ^ 12 % 2 ^ 11) else u
def word (x : Queue) (i : Nat) : Nat := ((x.held.getD []).getD i 0).toNat
def packetVector (u : State) (w0 : Nat) : State := if w0.testBit 9 then u.raise (w0 / 2 ^ 11 % 2 ^ 11) else u

/-- The walker of queue q works: its context serves, its front end is not frozen, and no fault of it waits for room in a fault buffer. -/
def Serving (s : State) (q : Nat) (x : Queue) : Prop :=
  (∀ w ∈ s.waits, ∀ c k, w.act ≠ .word q c k) ∧ s.enginesFrozen (x.ctl.toNat / 2 ^ 32 % 2 ^ 16) = false ∧ ∃ c, s.ctx? (x.ctl.toNat / 2 ^ 32 % 2 ^ 16) = some c ∧ c.suspended = false ∧
    c.suspending = false ∧ c.terminated = false ∧ c.terminating = false
/-- The held packet of queue q, of this kind, may start (R306). -/
structure Starts (s : State) (q kind : Nat) (x : Queue) : Prop where
  queue : s.queue q = x
  serving : Serving s q x
  order : x.state = .order ∧ x.parkedWord = none ∧ ∃ d, x.held = some d
  kind : word x 0 % 2 ^ 8 = kind
  room : x.started.length < 16 ∧ ((word x 0).testBit 8 = true ∨ x.started = [])

/-- The test of R302. -/
def testTrue (code : Nat) (w value : DWord) : Prop :=
  match code with
  | 0 => w = value | 1 => w ≠ value | 2 => w.toNat < value.toNat | 3 => value.toNat ≤ w.toNat
  | 4 => w.toInt < value.toInt | _ => value.toInt ≤ w.toInt
/-- What a queue reads at the address of its test. -/
def testWordOf (x : Queue) (bs : List Byte) : DWord := BitVec.ofNat 64 (ofBytes bs) &&& BitVec.ofNat 64 (word x 2)

/-- The translations of these addresses stand ready for queue q, and no row they lie in is being copied to a spare (R326, R401). -/
def WalksReady (s : State) (q : Nat) (vas : List Nat) : Prop :=
  ∀ va ∈ vas, s.canWalk (s.medlar q) ((s.queue q).ctl.toNat / 2 ^ 32 % 2 ^ 16) va = true ∧
    s.rowBusy (s.medlar q) ((s.queue q).ctl.toNat / 2 ^ 32 % 2 ^ 16) va = false
/-- The answers of the walks that queue q asked for have been used. -/
def usedBy (q : Nat) (vas : List Nat) (s : State) : State := s.useWalks (s.medlar q) ((s.queue q).ctl.toNat / 2 ^ 32 % 2 ^ 16) vas

/-- Nothing but queue q differs from a machine in which n bytes have been read for it at an address, which leaves their translation in the
die's unit and its requests at a link (R253, R325). -/
def ReadThen (s u : State) (q n va : Nat) (y : Queue) : Prop :=
  OnlyQueue (usedBy q [va] (s.agentRead (s.medlar q) ((s.queue q).ctl.toNat / 2 ^ 32 % 2 ^ 16) va n .read .frontEnd)) u q y

/-- A collective that runs, without a regulator. -/
structure Running (s : State) (c : Coll) : Prop where
  known : s.coll? c.id = some c
  free : s.enginesFrozen c.asid = false ∧ c.parked = none ∧ c.ending = none ∧ ∀ w ∈ s.waits, ∀ f k, w.act ≠ .coll c.id f k
  paid : s.cregOf (s.medlar c.queue) c.asid = none
/-- No loop of the collective ends at step n. -/
def NoLoopEnd (c : Coll) (n : Nat) : Prop := ∀ i, i < 4 → (c.ctrs.getD i LoopCtr.idle).active = true → (c.ctrs.getD i LoopCtr.idle).stop ≠ n
/-- S and R of a collective are one buffer, or do not overlap (R341). -/
def Apart (c : Coll) : Prop := c.w 3 = c.w 4 ∨ c.w 3 + c.elems * c.esize ≤ c.w 4 ∨ c.w 4 + c.elems * c.esize ≤ c.w 3
/-- Past a data step (R346, R351). -/
def stepDone (c : Coll) : Coll := { c with pc := c.pc + 1, seq := c.seq + 1, begun := false, half := false }
/-- A port that is none of the six of a die in service (R11). -/
def PortDead (s : State) (port : Nat) : Prop := 12 ≤ port ∨ (s.die (port / 6)).live = false
/-- The collective of this group that has begun. -/
def groupOf (s : State) (group : Word) : Option Coll := s.colls.find? fun c => c.group == group && !c.peers.isEmpty
/-- A collective once an accelerator it names can no longer be reached (R354). -/
def withoutPeer (peer : Nat) (c : Coll) : Coll :=
  match c.peers.find? fun p => c.ranks.getD p.rank 1024 == peer with
  | some p => if c.ending = none then { c with ending := some (1, 1, some p.rank) } else c
  | none => c
def peersOf (c : Coll) (r : Nat) (f : PeerRec → PeerRec) : List PeerRec := c.peers.map fun p => if p.rank = r then f p else p
/-- The peers of a collective that a chunk of one of them has reached: where it awaits that peer's message, the peer's time starts anew (R354). -/
def heardBy (c : Coll) (src : Nat) : List PeerRec :=
  if State.awaitsMsg c src = true then peersOf c src fun p => { p with waited := 0 } else c.peers
/-- A collective that may still take a higher number of its group for a message of a peer: nothing of that peer has reached it. -/
def Fresh (c : Coll) (src : Nat) : Prop :=
  (∀ m ∈ c.inbox, m.src ≠ src) ∧ ∃ p, c.peers.find? (fun p => p.rank == src) = some p ∧ p.grantedBy = 0 ∧ p.takes = 0

end Sys2Proof.Spec

/-- R233, R234, R238, R366: with the issue slot empty the ready thread that ranks first fills it, with the ready threads of its team at
its place, one per lane and of the lowest crew there, or of its crew for a crew-bound clause (a first threshold of 0 covers the loads that
have returned to them, R55: log entry 12), all with the words that the chosen thread has fetched (log entry 101); nothing issues when none is ready. A wave
opens when every thread of a team is settled and some are held, for those held. A team of an unfrozen job that has done nothing for the
watchdog's period sends its lowest live thread down the path of R65 with cause 0x16, a frame written first where none is live; a thread
asleep in a waiting instruction stays so (log entry 39: the frame and the sleep are the model's reading of R366). -/
def Obligations.SchedulerSelects : Prop := ∀ (s : State), FreshNumbers s →
  (∀ sl core, s.issue = some sl → exec (.issueSelection core) s = .next s) ∧
  (∀ core, s.clockStopped core = true ∨ (∀ t x, ¬ Selectable s core t x) → exec (.issueSelection core) s = .next s) ∧
  (∀ core t x, s.issue = none → s.clockStopped core = false → Selectable s core t x → (∀ u y, Selectable s core u y → (u, y) ≠ (t, x) → Earlier s t x u y) →
    ∃ (u : State) (t' : Team) (tids : List Nat), exec (.issueSelection core) s = .next u ∧
      u = { s with teams := u.teams, issue := some ⟨core, t.id, x.clause, x.hdr, x.words, x.idx, tids, s.rankStamp t x, none, [], tids⟩ } ∧
      (∀ n, n ∈ tids ↔ ∃ y, y.tid = n ∧ AtPlace s core t x y ∧ (if s.crewBound t x (State.clauseBody x) = true then y.crew = x.crew
         else ∀ z, AtPlace s core t x z → z.lane = y.lane → y.crew ≤ z.crew)) ∧
      (∀ id, id ≠ t.id → u.team? id = s.team? id) ∧ u.team? t.id = some t' ∧
      t' = { t with wave := t'.wave, watchdog := 0,
                    threads := t.threads.map fun y => if y.tid ∈ tids then
                      let y' : Thread := { y with stamp := none, yielded := x.hdr.getLsbD 31, hdr := x.hdr, words := x.words, issued := some (s.die (core / 1024)).cyc }
                      if x.hdr.toNat / 2 ^ 44 % 2 ^ 4 = 0 then s.coverFlips y' else y'
                    else y } ∧
      (t.wave = none → t'.wave = none)) ∧
  (∀ t, t ∈ s.teams →
    let held := t.threads.filter fun x => s.waitsForWave t x
    let opens : Prop := t.wave = none ∧ held ≠ [] ∧ s.frozen t.asid = false ∧ (∀ x ∈ t.threads, s.settled t x = true) ∧
      ∀ a ∈ s.accs, a.team = t.id → a.isAtom = true → a.narrow = true → a.served ≠ none
    (¬ opens → exec (.waveOpen t.id) s = .next s) ∧
    (opens → ∃ u : State, exec (.waveOpen t.id) s = .next u ∧ u = { s with teams := u.teams } ∧
      u.team? t.id = some { t with wave := some (held.map (·.tid)) })) ∧
  ∀ t x, t ∈ s.teams → t.res = .resident → x ∈ t.threads → x.run ≠ .exited → (∀ y ∈ t.threads, y.run ≠ .exited → y ≠ x → x.tid < y.tid) →
    (s.dbg.wdper = 0 ∨ t.watchdog < s.dbg.wdper.toNat * 10 ^ 6 ∨ s.frozen t.asid = true → exec (.watchdogFire t.id) s = .next s) ∧
    (s.dbg.wdper ≠ 0 → s.dbg.wdper.toNat * 10 ^ 6 ≤ t.watchdog → s.frozen t.asid = false → (∀ a ∈ s.accs, a.team = t.id → a.tid = x.tid → a.space ≠ .priv) →
      ∃ u v : State, u = { s with teams := u.teams } ∧ u.team? t.id = some { t with watchdog := 0 } ∧
      let asked := u.askPriv t x.tid (x.sfault.toNat + 10) 1
      (u.frameLive t x = none → v = u) ∧ (u.frameLive t x = some true → v = asked) ∧
      (∀ w, u.frameLive t x = some false →
        asked.writeFrame t x (asked.frameBytes x x.clause x.idx x.preds t.rgen x.window (plainFault 0x16) false false) = .ok w →
        v = w.keepShadow t.id x x.clause x.idx) ∧
      (∀ c, u.frameLive t x = some false →
        asked.writeFrame t x (asked.frameBytes x x.clause x.idx x.preds t.rgen x.window (plainFault 0x16) false false) = .error c → v = asked) ∧
      ((∀ w, x.run ≠ .asleep w) → exec (.watchdogFire t.id) s = .next (v.r65Path t.id x.tid x.clause x.idx (plainFault 0x16))) ∧
      ∀ w, x.run = .asleep w → exec (.watchdogFire t.id) s = .next (v.r65Record t.id x.tid x.clause (plainFault 0x16)))

/-- R123, R221, R228 to R230, R312, R313: the next cluster of a running launch takes a free rectangle, and the threads of its teams
start at the kernel's first clause with the launch values in their registers: team r of the cluster at the rectangle's core r, row by row from
one origin, with rank r (said of a cluster of several teams whose first clause the die's unit can translate). A team whose threads have all
exited, with nothing pending, leaves its core; each ticket counter that it has not passed is passed at once, abandoned, if it has reached the
team's number, and otherwise when it does (R241; said where nobody waits in TKWAIT). A grid whose clusters have all been placed and whose teams have retired ends with its completion word. -/
def Obligations.PlacementAndRetirement : Prop := ∀ (s : State) (g : Grid), FreshNumbers s → Untraced s → g ∈ s.grids →
  (∀ die x y i (hdr : Nat → DWord) (ws : Nat → List DWord), s.nextCluster g die x y = some i → s.canPlace g die x y = true →
    s.turnQueue die = some g.queue → (s.frontGrid g.queue die).map (·.id) = some g.id →
    let n := g.launch.w * g.launch.h
    let core (r : Nat) : Nat := 1024 * die + 32 * (y + r / g.launch.w) + (x + r % g.launch.w)
    (n = 1 ∨ ∀ k, k < 18 → (s.tlbFind die g.asid (g.launch.code + 8 * k)).isSome = true) →
    (∀ r, r < n → s.landing (core r) g.asid g.launch.code = .ok (hdr r) ∧ s.entryFetch (core r) g.asid g.launch.code (hdr r) = .ok (ws r)) →
    ∃ u : State, exec (.clusterPlacement g.id die x y) s = .next u ∧ u.teams.length = s.teams.length + n ∧
      (∀ k, k < s.teams.length → u.teams[k]? = s.teams[k]?) ∧
      u.clusters = s.clusters ++ [⟨s.nextId, g.id, i, die, x, y, g.launch.w, g.launch.h, []⟩] ∧ u.mem = s.mem ∧
      ∀ r, r < n → ∃ t : Team, u.teams[s.teams.length + r]? = some t ∧
      t.core = core r ∧ t.rank = r ∧ t.res = .resident ∧ t.grid = g.id ∧ t.cluster = s.nextId ∧ t.linear = i * n + r ∧ t.x = t.linear % g.launch.gx ∧
      t.y = t.linear / g.launch.gx % g.launch.gy ∧ t.z = t.linear / (g.launch.gx * g.launch.gy) ∧ t.rgen = 0 ∧ t.tags.length = g.launch.tags ∧
      t.tiles.length = g.launch.tiles ∧ t.threads.length = 32 * g.launch.crews ∧
      ∀ n z, t.threads[n]? = some z → z.tid = n ∧ z.lane = n % 32 ∧ z.crew = n / 32 ∧ z.clause = g.launch.code ∧ z.idx = 0 ∧ z.hdr = hdr r ∧
        z.words = ws r ∧ z.run = .active ∧ z.trapvec = 0xFFFFFFFF#32 ∧ un z.sfault = (g.launch.privSize - 192) / 64 * 64 % 2 ^ 32 ∧ z.preds = 0 ∧
        (∀ k, k < 8 → readReg z (t.crewOf z) (BitVec.ofNat 8 k) = BitVec.ofNat 32 (field g.params (4 * k) 4)) ∧
        readReg z (t.crewOf z) 28#8 = g.launch.linkage ∧ readReg z (t.crewOf z) 29#8 = z.sfault ∧
        readReg z (t.crewOf z) 30#8 = z.sfault ∧ readReg z (t.crewOf z) 31#8 = 0xFFFFFFFF#32) ∧
  (∀ t ∈ s.teams, t.res = .resident → s.shareHeld t = false → t.cp = 0 → t.tl = 0 →
    (∀ x ∈ t.threads, x.run = .exited ∧ x.ld = 0 ∧ x.st = 0 ∧ x.icsync = []) → (∀ a ∈ s.accs, a.team ≠ t.id) → ∀ h, s.grid? t.grid = some h →
    (∀ v ∈ s.teams, ∀ z ∈ v.threads, ∀ n r, z.run ≠ .asleep (.ticket n r)) →
    let left (n : Nat) : Prop := ∀ p ∈ t.passed, p.n ≠ n
    let value (n : Nat) : Word := (h.tickets.getD n ⟨0, false⟩).value
    let retires (u : State) (t' : Team) (h' : Grid) : Prop := exec (.teamRetire t.id) s = .next u ∧
      u = { s with teams := u.teams, grids := u.grids, engs := s.engs.filter fun e => e.team != t.id, draws := s.draws + 1 } ∧
      u.team? t.id = some t' ∧ t'.res = .retired ∧ u.grid? t.grid = some h' ∧ h' = { h with faulted := h'.faulted, tickets := h'.tickets } ∧
      (h'.faulted = true ↔ h.faulted = true ∨ ∃ x ∈ t.threads, x.endedByFault = true)
    ((∀ v ∈ s.teams, v.grid = t.grid → v.parkedTickets = []) → ∃ (u : State) (t' : Team) (h' : Grid), retires u t' h' ∧
      (∀ id, id ≠ t.id → u.team? id = s.team? id) ∧ ∀ n, n < 4 → n < h.tickets.length →
        (¬ left n → n ∉ t'.parkedTickets ∧ h'.tickets[n]? = h.tickets[n]?) ∧
        (left n → value n ≠ number s t → n ∈ t'.parkedTickets ∧ h'.tickets[n]? = h.tickets[n]?) ∧
        (left n → value n = number s t → n ∉ t'.parkedTickets ∧ h'.tickets[n]? = some ⟨value n + 1, true⟩)) ∧
    ∀ (v : Team) (n : Nat), v ∈ s.teams → v ≠ t → v.grid = t.grid → v.res = .retired → n < 4 → n < h.tickets.length → v.parkedTickets = [n] →
      (∀ w ∈ s.teams, w ≠ v → w.grid = t.grid → w.parkedTickets = []) → (∀ m, m < 4 → (left m ↔ m = n)) → value n = number s t →
      number s v = value n + 1 → ∃ (u : State) (t' v' : Team) (h' : Grid), retires u t' h' ∧ t'.parkedTickets = [] ∧
        u.team? v.id = some v' ∧ v' = { v with parkedTickets := [] } ∧ h'.tickets[n]? = some ⟨value n + 2, true⟩) ∧
  (let last : Prop := (∀ t ∈ s.teams, t.grid = g.id → t.res = .retired) ∧ ∀ h ∈ s.grids, ∀ t ∈ s.teams, t.grid = g.id → h.parent ≠ some t.id
   let status := if g.killed then 3 else if g.faulted then 1 else 0
   (¬ last → exec (.gridRetire g.id) s = .next s) ∧
   (last → g.state = .running → (g.killed = true ∨ g.launch.clusters ≤ g.placed) → ∃ u : State,
     exec (.gridRetire g.id) s = .next (match g.parent with | some p => u.wakeJoin p | none => u) ∧
     u.grids = s.grids.filter (fun h => h.id != g.id) ∧ u.teams = s.teams.filter (fun t => t.grid != g.id) ∧
     u.clusters = s.clusters.filter (fun c => c.grid != g.id) ∧ (g.launch.completion = 0 → u.mem = s.mem) ∧
     (∀ pa, g.launch.completion ≠ 0 → s.writable (s.medlar g.queue) g.asid g.launch.completion .frontEnd = .ok pa →
       ∀ k, k < 8 → some (memByte u.mem (pa + k)) = (toBytes 8 status)[k]?) ∧
     (g.parent = none → (u.queue g.queue).started = (s.queue g.queue).started.filter fun p => p.id != g.packet)))

/-- R331 to R333: the teams of a cluster that must make way stop issuing; once quiet they leave for save slots with their threads'
state, monitor sleeps ended, a yield hold with what is left of it, and the part's own image of the team is written to its slot (log entry 26;
that watch entries without sleepers stay is the model's choice, log entry 75). A saved cluster comes back on a rectangle with room, its stamps
in their order and its yield holds running on (log entry 37; said of one team). -/
def Obligations.ClustersSaveAndRestore : Prop := ∀ (s : State) (c : Cluster) (t : Team), FreshNumbers s → s.cluster? c.id = some c →
  s.clusterTeams c.id = [t] →
  let base := ((s.ctx? t.asid).map fun c => c.desc.saveBase).getD 0
  let written (k : Nat) := (s.writeSpan t.die t.asid ((base + 2 ^ 21 * k) % 2 ^ 64) .frontEnd 33 ((Config.saveImage s.draws).take (2 ^ 21))).1
  (t.res = .resident → t.stopping = false → s.mayPreempt c = true → ∃ u : State, exec (.preemption c.id) s = .next u ∧
    u = { s with teams := u.teams } ∧ u.team? t.id = some { t with stopping := true }) ∧
  (t.stopping = false → s.mayPreempt c = false → exec (.preemption c.id) s = .next s) ∧
  (∀ k rest, t.stopping = true → ((s.grid? t.grid).map (·.killed)).getD false = false → s.freeSaves t.asid = k :: rest →
    (s.quiet t = false → exec (.preemption c.id) s = .next s) ∧
    (s.quiet t = true → ∃ u : State, exec (.preemption c.id) s = .next u ∧
      u = { written k with teams := u.teams, watch := u.watch, draws := (written k).draws + 1 } ∧
      u.watch = (written k).watch.map (fun w => { w with sleepers := w.sleepers.filter fun p => p.1 != t.id }) ∧
      (∀ id, id ≠ t.id → u.team? id = s.team? id) ∧ u.team? t.id = some { t with res := .saved k, stopping := false, threads := t.threads.map fun x =>
        { x with watch := none, hold := x.hold.map (· - (s.die (t.core / 1024)).cyc),
                 run := match x.run with | .asleep (.monitor _) => .active | r => r } })) ∧
  ∀ die x y, (s.canRestore c die x y = false → exec (.restore c.id die x y) s = .next s) ∧
    (s.canRestore c die x y = true → (∀ v ∈ s.teams, ∀ z ∈ v.threads, ∀ w, z.run ≠ .asleep w) →
      (∀ z ∈ t.threads, z.run = .active → z.arrive = none ∧ z.words ≠ [] ∧ z.idx < State.hdrN z.hdr) → ∃ (u : State) (t' : Team),
      exec (.restore c.id die x y) s = .next u ∧ u.mem = s.mem ∧ u.team? t.id = some t' ∧ t'.res = .resident ∧
      t'.core = 1024 * die + 32 * (y + t.rank / c.w) + (x + t.rank % c.w) ∧ t'.crews = t.crews ∧ t'.scratch = t.scratch ∧ t'.tiles = t.tiles ∧
      t' = { t with res := .resident, core := t'.core, slot := t'.slot, threads := t'.threads } ∧ t'.threads.length = t.threads.length ∧
      ∀ (n : Nat) (z z' : Thread), t.threads[n]? = some z → t'.threads[n]? = some z' → z' = { z with stamp := z'.stamp, hold := z.hold.map ((s.die die).cyc + ·), issued := none } ∧
        ∀ (m : Nat) (y y' : Thread) (a b : Nat), t.threads[m]? = some y → t'.threads[m]? = some y' → z.stamp = some a → y.stamp = some b → a ≤ b →
          ∃ a' b', z'.stamp = some a' ∧ y'.stamp = some b' ∧ a' ≤ b')

/-- R297 to R299, R307, R319: the queue registers. Enabling an OFF queue with a legal ring and a readable descriptor makes it IDLE at
slot 0, and otherwise leaves cause 6; disabling drains it to OFF; a doorbell beyond the ring is cause 4; QRESUME leaves FAULT; the
destroy commands finish or kill, and one with a reserved bit is ignored. That a successful QRESUME clears the cause is the model's reading (log
entry 42). In recovery and after a critical shutdown none of them acts (R397, R403). -/
def Obligations.QueueRegisters : Prop := ∀ (s : State) (q : Nat) (x : Queue) (v : DWord) (w : Word) (cmd : List DWord), s.queue q = x →
  ((s.svc.recovery = true ∨ s.svc.shutdown = true) → ∀ i ∈ [Instr.queueEnable q v, .queueDisable q v, .qwp q w, .qresume q v, .destroyFinish q cmd,
    .destroyKill q cmd], exec i s = .next s) ∧
  (s.svc.recovery = false → s.svc.shutdown = false →
  let asid := v.toNat / 2 ^ 32 % 2 ^ 16
  let ctl := v &&& 0x0000FFFF00FFF79F
  let slots := 2 ^ (v.toNat % 2 ^ 5)
  let legal : Prop := 4 ≤ v.toNat % 2 ^ 5 ∧ v.toNat % 2 ^ 5 ≤ 16 ∧ x.base.toNat % (64 * slots) = 0
  let irqOnly : Queue := { x with ctl := (x.ctl &&& ~~~0xFFF000#64) ||| (v &&& 0xFFF000#64) }
  let offs : Prop := ∀ p ∈ s.queues, p.2.state = .off ∨ p.2.ctl.toNat / 2 ^ 32 % 2 ^ 16 ≠ asid
  let over_ (wp rp : Word) : Prop := 2 ^ (x.ctl.toNat % 2 ^ 5) < (wp - rp).toNat
  let zero (code : DWord) : Prop := ∀ i, i < 8 → cmd.getD i 0 = if i = 0 then code else 0
  (x.state = .off → ¬ legal → ∃ u : State, exec (.queueEnable q v) s = .next u ∧ OnlyQueue s u q { x with ctl := ctl, cause := 6 }) ∧
  (x.state = .off → legal → offs → s.readDescriptor asid = none → ∃ u : State, exec (.queueEnable q v) s = .next u ∧
    OnlyQueue s u q { x with ctl := ctl, cause := 6 }) ∧
  (∀ d, x.state = .off → legal → offs → s.readDescriptor asid = some d → s.ctx? asid = none → ∃ u : State, exec (.queueEnable q v) s = .next u ∧
    OnlyQueue { s.readCtx asid with
      ctxs := s.ctxs ++ [⟨asid, d, false, false, false, false, false, false⟩]
      waits := s.waits.map fun w => match w.act with | .word p _ _ => if p = q then { w with act := .report } else w | _ => w } u q
      { x with ctl := ctl ||| 0x800, rp := 0, wp := 0, state := .idle, cause := 0, cursor := 0, held := none, startCount := 0,
               dieCount := (if s.die0.live then 1 else 0) + (if s.die1.live then 1 else 0), parkedWord := none, retrying := false, test := none }) ∧
  (x.state ≠ .off → ∃ u : State, exec (.queueEnable q v) s = .next u ∧ OnlyQueue s u q irqOnly) ∧
  (x.state = .off → ∃ u : State, exec (.queueDisable q v) s = .next u ∧ OnlyQueue s u q { x with ctl := ctl }) ∧
  (x.state = .drain → ∃ u : State, exec (.queueDisable q v) s = .next u ∧ OnlyQueue s u q irqOnly) ∧
  (x.state ≠ .off → x.state ≠ .drain → ∃ u : State, exec (.queueDisable q v) s = .next u ∧ OnlyQueue s u q
    (if x.state = .dead ∨ x.started = [] then turnedOff irqOnly else draining irqOnly)) ∧
  (x.state = .off → exec (.qwp q w) s = .next s) ∧
  (x.state ≠ .off → (x.state = .idle ∨ x.state = .fetch ∨ x.state = .order ∨ x.state = .block) → over_ w x.rp → ∃ u : State,
    exec (.qwp q w) s = .next (queueVector u x) ∧ OnlyQueue s u q (faultedQueue { x with wp := w } 4)) ∧
  (x.state ≠ .off → (¬ over_ w x.rp ∨ x.state = .fault ∨ x.state = .drain ∨ x.state = .dead) → ∃ u : State,
    exec (.qwp q w) s = .next u ∧ OnlyQueue s u q { x with wp := w }) ∧
  ((v.getLsbD 0 = false ∨ x.state ≠ .fault) → exec (.qresume q v) s = .next s) ∧
  (v.getLsbD 0 = true → x.state = .fault → over_ x.wp x.rp → ∃ u : State, exec (.qresume q v) s = .next u ∧ OnlyQueue s u q { x with cause := 4 }) ∧
  (v.getLsbD 0 = true → x.state = .fault → ¬ over_ x.wp x.rp → ∃ u : State, exec (.qresume q v) s = .next u ∧
    OnlyQueue s u q { x with state := .fetch, cause := 0 }) ∧
  (zero 0 → x.state ≠ .off → ∃ u : State, exec (.destroyFinish q cmd) s = .next u ∧ OnlyQueue s u q
    (if x.started = [] then turnedOff x else draining x)) ∧
  (¬ zero 0 → exec (.destroyFinish q cmd) s = .next s) ∧
  (zero 1 → x.state ≠ .off → (∀ p ∈ x.started, ∀ a b c, p.kind ≠ .copy a b c) → ∃ u : State, exec (.destroyKill q cmd) s = .next (queueVector u x) ∧
    OnlyQueue { s with
      grids := s.grids.map fun g => if g.queue = q then { g with killed := true } else g
      teams := s.teams.map fun t => if t.queue = q ∧ t.res ≠ .retired then { t with stopping := true } else t
      colls := s.colls.map fun c => if c.queue = q ∧ c.ending = none then { c with ending := some (3, 7, none) } else c } u q
      { x with state := .dead, cause := 8, held := none, parkedWord := none, retrying := false, test := none }) ∧
  (¬ zero 1 → exec (.destroyKill q cmd) s = .next s))

/-- R301 to R307, R314: fetching and starting packets and nodes. A queue with work reads the packet at its cursor whole, and takes
cause 3 for one that is not legal. NOP, SIGNAL, STEP, GRAPH, COND and WHILE have their effect and the queue goes on; WAITV blocks it
until its test is true (said where nothing is traced or logged). A WHILE whose visit word's write has parked keeps the outcome of its test
(R318). An access whose translation is missing joins the walks of its die (R326).
That NOP, WAITV, STEP, GRAPH, COND and WHILE raise no vector (log entry 40), that WAITV joins the start count when it advances (log entry 42)
and which fields make a packet legal (log entry 41) are the model's readings. -/
def Obligations.PacketsRun : Prop := ∀ (s : State) (q : Nat) (x : Queue), Untraced s → s.queue q = x →
  let asid := x.ctl.toNat / 2 ^ 32 % 2 ^ 16
  let graph : Bool := x.cursor != 0
  let at_ := if graph then x.cursor else (x.base.toNat + 64 * (x.rp.toNat % 2 ^ (x.ctl.toNat % 2 ^ 5))) % 2 ^ 64
  let onTest (bs : List Byte) : Prop := testTrue (word x 0 / 2 ^ 22 % 2 ^ 3) (testWordOf x bs) (BitVec.ofNat 64 (word x 3))
  let reads (a n : Nat) (bs : List Byte) : Prop := s.readVirt (s.medlar q) asid a n .read .frontEnd = .ok bs
  (Serving s q x → x.state = .idle → (graph = true ∨ x.rp ≠ x.wp) → ∃ u : State, exec (.packetFetch q) s = .next u ∧
    OnlyQueue s u q { x with state := .fetch }) ∧
  (x.state = .idle → graph = false → x.rp = x.wp → exec (.packetFetch q) s = .next s) ∧
  (Serving s q x → x.state = .fetch → s.canWalk (s.medlar q) asid at_ = false → exec (.packetFetch q) s = .next (s.joinWalk (s.medlar q) asid at_)) ∧
  (∀ bs d, Serving s q x → x.state = .fetch → WalksReady s q [at_] → reads at_ (if graph then 128 else 64) bs →
    d = (List.range (if graph then 16 else 8)).map (fun i => BitVec.ofNat 64 (field bs (8 * i) 8)) →
    (packetOk d graph = true → ∃ u : State, exec (.packetFetch q) s = .next u ∧
      ReadThen { s with nextId := s.nextId + 1 } u q (if graph then 128 else 64) at_ { x with state := .order, held := some d, orderStamp := s.nextId }) ∧
    (packetOk d graph = false → ∃ u : State, exec (.packetFetch q) s = .next (queueVector u x) ∧
      ReadThen s u q (if graph then 128 else 64) at_ (faultedQueue x 3))) ∧
  (Starts s q 0 x → ∃ u : State, exec (.nopPacket q) s = .next u ∧ OnlyQueue s u q (passed x (word x 8))) ∧
  (Starts s q 4 x → word x 1 = 0 → ∃ u : State, exec (.signalPacket q) s = .next (packetVector u (word x 0)) ∧ OnlyQueue s u q (passed x (word x 8))) ∧
  (∀ pa, Starts s q 4 x → word x 1 ≠ 0 → WalksReady s q [word x 1] → s.writable (s.medlar q) asid (word x 1) .frontEnd = .ok pa → ∃ u : State,
    exec (.signalPacket q) s = .next (packetVector u (word x 0)) ∧ poked s.mem u.mem pa (toBytes 8 (word x 2)) ∧ u.queue q = passed x (word x 8)) ∧
  (Starts s q 5 x → ∃ u : State, exec (.waitv q) s = .next u ∧ OnlyQueue s u q { x with state := .block }) ∧
  (∀ bs, Serving s q x → x.state = .block → x.parkedWord = none → WalksReady s q [word x 1] → reads (word x 1) 8 bs →
    (onTest bs → ∃ u : State, exec (.waitvWake q) s = .next u ∧ ReadThen s u q 8 (word x 1) (passed x (word x 8))) ∧
    (¬ onTest bs → ∃ u : State, exec (.waitvWake q) s = .next u ∧ ReadThen s u q 8 (word x 1) { x with retrying := false })) ∧
  (Starts s q 6 x →
    let n := word x 0 / 2 ^ 22 % 4
    let live := (if s.die0.live then 1 else 0) + (if s.die1.live then 1 else 0)
    let free := (([0, 1] : List Nat).filter fun d => (s.die d).live && (List.range 1024).any fun c => s.teams.all fun t => !(t.core == 1024 * d + c && t.res == .resident)).length
    ∃ u : State, exec (.stepPacket q) s = .next u ∧ OnlyQueue s u q { passed x (word x 8) with
      dieCount := if n ≠ 0 then min n live else if x.ctl.toNat / 2 ^ 9 % 4 ≠ 0 then x.dieCount else max 1 free }) ∧
  (Starts s q 7 x → ∃ u : State, exec (.graph q) s = .next u ∧
    OnlyQueue s u q { x with state := .idle, held := none, cursor := word x 1, startCount := x.startCount + 1 }) ∧
  (∀ bs, Starts s q 8 x → WalksReady s q [word x 1] → reads (word x 1) 8 bs →
    (onTest bs → ∃ u : State, exec (.cond q) s = .next u ∧ ReadThen s u q 8 (word x 1) (passed x (word x 4))) ∧
    (¬ onTest bs → ∃ u : State, exec (.cond q) s = .next u ∧ ReadThen s u q 8 (word x 1) (passed x (word x 8)))) ∧
  let visits (hit : Prop) (pa : Nat) : Prop :=
    let n := word x 9 % 2 ^ 32
    let limit := word x 5 % 2 ^ 32
    let body : Prop := hit ∧ (limit = 0 ∨ n < limit)
    (body → ∃ u : State, exec (.whileNode q) s = .next u ∧ poked s.mem u.mem pa (toBytes 8 (n + 1)) ∧ u.queue q = passed x (word x 4)) ∧
    (¬ body → ∃ u : State, exec (.whileNode q) s = .next u ∧ poked s.mem u.mem pa (toBytes 8 0) ∧ u.queue q = passed x (word x 8))
  (∀ bs pa, Starts s q 9 x → x.test = none → WalksReady s q [word x 1, x.cursor + 72] → reads (word x 1) 8 bs →
    (s.agentRead (s.medlar q) asid (word x 1) 8 .read .frontEnd).writable (s.medlar q) asid (x.cursor + 72) .frontEnd = .ok pa → visits (onTest bs) pa) ∧
  ∀ b pa, Starts s q 9 x → x.test = some b → WalksReady s q [x.cursor + 72] → s.writable (s.medlar q) asid (x.cursor + 72) .frontEnd = .ok pa →
    visits (b = true) pa

/-- R303, R306, R308, R309, R314, R341, R345: LAUNCH starts a grid on the dies that its queue's count and its own limits give, with its
parameter area read once; one that is refused completes with 2. COPY moves its bytes and completes, at once for none. COLL starts a
collective that has granted eight chunks to each in-peer; one whose program is refused ends with status 2, reason 4. What a credit carries, a
count from the collective's start behind the collective's number in its group, is the model's (log entry 45), as is that it is sent at the start (log
entry 46). -/
def Obligations.StartedPackets : Prop := ∀ (s : State) (q : Nat) (x : Queue), Untraced s → FreshNumbers s → (∀ p ∈ x.started, p.id ≠ s.nextId) →
  let asid := x.ctl.toNat / 2 ^ 32 % 2 ^ 16
  let irq : Option Nat := if (word x 0).testBit 9 then some (word x 0 / 2 ^ 11 % 2 ^ 11) else none
  let started (k : StartedKind) : Queue :=
    { passed x (word x 8) with started := x.started ++ [⟨s.nextId, k, irq, none, (x.startCount + 1).toNat⟩] }
  (Starts s q 1 x →
    let l := packetLaunch ((x.held.getD []).take 8)
    let dies := s.launchDies (x.ctl.toNat / 2 ^ 9 % 4) (min (max x.dieCount l.minDies) l.maxDies) s.nextId none
    let refused := s.refused l asid (x.ctl.toNat / 2 ^ 9 % 4) dies none
    (∀ bs, refused = false → WalksReady s q (State.spanAddrs l.paramAddr l.paramSize) →
      s.readSpan (s.medlar q) asid l.paramAddr .read .frontEnd 3 l.paramSize = .ok bs →
      ∃ (u : State) (g : Grid), exec (.launch q) s = .next u ∧
        OnlyQueue (usedBy q (State.spanAddrs l.paramAddr l.paramSize)
            (({ s with nextId := s.nextId + 1, grids := s.grids ++ [g] } : State).spanRead (s.medlar q) asid l.paramAddr l.paramSize .read .frontEnd))
          u q (started (.launch s.nextId)) ∧
        g = { g with id := s.nextId, queue := q, asid := asid, launch := l, params := bs, parent := none, packet := s.nextId, dies := dies,
                     tickets := List.replicate 4 ⟨l.ticketBase, false⟩, faulted := false, killed := false, placed := 0, state := .running }) ∧
    (refused = true → l.completion = 0 → ∃ (u : State) (g : Grid), exec (.launch q) s = .next (packetVector u (word x 0)) ∧
        OnlyQueue { s with nextId := s.nextId + 1, grids := s.grids ++ [g] } u q (passed x (word x 8)) ∧ g.id = s.nextId ∧ g.state = .retired 2)) ∧
  (Starts s q 3 x →
    let len := word x 3 % 2 ^ 40
    (len ≠ 0 → ∃ u : State, exec (.copyPacket q) s = .next u ∧
      OnlyQueue { s with nextId := s.nextId + 1 } u q (started (.copy (word x 1) (word x 2) len))) ∧
    (len = 0 → ∃ u : State, exec (.copyPacket q) s = .next (packetVector u (word x 0)) ∧
      OnlyQueue { s with nextId := s.nextId + 1 } u q (passed x (word x 8)))) ∧
  (∀ p src dst bs pa, s.queue q = x → x.started.find? (fun y => y.id == p.id) = some p → p.kind = .copy src dst bs.length → p.parked = none →
    s.enginesFrozen asid = false → (∀ w ∈ s.waits, ∀ c k, w.act ≠ .copy q p.id c k) →
    WalksReady s q (State.spanAddrs src bs.length ++ State.spanAddrs dst bs.length) → (∀ n o, s.region pa ≠ .peer n o) → bs ≠ [] → dst % 2 ^ 16 + bs.length ≤ 2 ^ 16 → (dst + bs.length ≤ src ∨ src + bs.length ≤ dst) → x.state ≠ .drain →
    s.readSpan (s.medlar q) asid src .read .frontEnd (bs.length / 2 ^ 16 + 2) bs.length = .ok bs →
    (s.spanRead (s.medlar q) asid src bs.length .read .frontEnd).writable (s.medlar q) asid dst .frontEnd = .ok pa →
    ∃ u : State, exec (.copyPacketComplete q p.id) s = .next (match p.irq with | some v => u.raise v | none => u) ∧ poked s.mem u.mem pa bs ∧
      u.queue q = { x with started := x.started.filter fun y => y.id != p.id }) ∧
  (Starts s q 2 x → s.collTurn q = true → WalksReady s q (s.programAddrs q) →
    let n := word x 2 / 2 ^ 32
    let rank := word x 2 % 2 ^ 32
    let red := word x 6 / 2 ^ 8 % 2 ^ 8
    let added (u : State) (c : Coll) : Prop := u.colls = s.colls ++ [c] ∧ c.id = s.nextId ∧ c.queue = q ∧ c.asid = asid ∧ c.packet = s.nextId ∧
      c.pc = 0 ∧ c.seq = 0 ∧ u.queue q = started (.coll s.nextId) ∧ u.mem = s.mem
    (∀ group, s.loadProgram (s.medlar q) asid (word x 1) n = .ok (group, none) → ∃ (u : State) (c : Coll), exec (.coll q) s = .next u ∧
      added u c ∧ c.group = group ∧ c.ending = some (2, 4, none) ∧ u.out = s.out) ∧
    ∀ group steps ranks, s.loadProgram (s.medlar q) asid (word x 1) n = .ok (group, some (steps, ranks)) →
      let legal : Prop := (∀ r ∈ ranks, r < 1024) ∧ ranks.Nodup ∧ ranks.getD rank 1024 = s.ual.uaid ∧ programOk steps n rank red = true ∧
        ¬ (x.ctl.toNat / 2 ^ 9 % 4 = 3 ∧ red = 1 ∧ word x 6 % 2 ^ 8 ≠ 3)
      (¬ legal → ∃ (u : State) (c : Coll), exec (.coll q) s = .next u ∧ added u c ∧ c.group = group ∧ c.ending = some (2, 4, none) ∧ u.out = s.out) ∧
      (legal → s.ual.early = [] → (∀ y ∈ s.colls, y.id ≠ s.nextId) → ∃ (u : State) (c : Coll), exec (.coll q) s = .next u ∧ added u c ∧ c.group = group ∧ c.ending = none ∧
        c.steps = steps ∧ c.ranks = ranks ∧ c.round = tabGet 0 group.toNat s.ual.rounds ∧ (∀ r, (∃ p ∈ c.peers, p.rank = r) ↔ r < n ∧ (r ∈ allPeers steps n rank true ∨ r ∈ allPeers steps n rank false)) ∧
        ∃ asks : List OutMsg, (∀ o ∈ asks, ∃ k, o = .hostRequest k .read ∨ ∃ id, o = .peerRequest id k .read) ∧
        u.out = s.out ++ asks ++ (c.peers.filter fun p => (allPeers steps n rank true).contains p.rank).map fun p => .credit (ranks.getD p.rank 0) group rank
          (c.round * 2 ^ 32 + 8)))

/-- R346 to R348, R351, R354, R405: the steps of a collective without a regulator. A data step begins; SEND hands over its message as its
peer's credit allows; RECV and RRS take the complete message of the step, RRS combining it with its own elements, and acknowledge it;
COPY moves a region; WAIT and END wait for acknowledgements, LOOP sets its counter; END writes the completion record. A peer that is
awaited for the loss time ends the collective with reason 1 (said where nothing is traced, of messages of one chunk). The number, first
element and length that a message carries (log entry 45), the elements' index in dst (log entry 48) and which peer is awaited when (log entry
47) are the model's readings. -/
def Obligations.CollectiveSteps : Prop := ∀ (s : State) (c : Coll), Untraced s → Running s c →
  let op := c.step.op
  let ran (b : State) (i : Instr) (c' : Coll) : Prop := ∃ u : State, exec i s = .next u ∧ u = { b with colls := u.colls } ∧ u.coll? c.id = some c'
  let run (i : Instr) (c' : Coll) : Prop := ran s i c'
  (c.begun = false → (op = 1 → run (.collSend c.id) { c with begun := true }) ∧ (op = 2 → run (.collRecv c.id) { c with begun := true }) ∧
    (op = 3 → run (.collRrs c.id) { c with begun := true }) ∧ (op = 4 → run (.collCopy c.id) { c with begun := true })) ∧
  (∀ bs r, op = 1 → c.begun = true → c.half = false → WalksReady s c.queue (State.regionAddrs c c.step.src) → s.readRegion c c.step.src = .ok bs →
    bs.length ≤ 4096 → (∀ p ∈ c.outbox, p.seq ≠ c.seq) →
    c.peers.find? (fun p => p.rank == c.outPeer) = some r →
    let b := usedBy c.queue (State.regionAddrs c c.step.src) (s.regionRead c c.step.src)
    (r.grantedBy ≤ r.sentTo → ran b (.collSend c.id) { c with
      half := true
      peers := peersOf c c.outPeer fun p => { p with posts := p.posts + 1 }
      outbox := c.outbox ++ [⟨c.outPeer, c.seq, r.posts, bs, 0, false⟩] }) ∧
    (r.sentTo < r.grantedBy → NoLoopEnd c (c.pc + 1) → ∃ u : State, exec (.collSend c.id) s = .next u ∧
      u.out = b.out ++ [.chunk (c.ranks.getD c.outPeer 0) c.group c.rank (c.round * 2 ^ 32 + r.posts) 0 (bs.length / c.esize) bs] ∧ u.mem = s.mem ∧
      u.coll? c.id = some { stepDone c with
        peers := peersOf c c.outPeer fun p => { p with posts := p.posts + 1, sentTo := p.sentTo + 1 }
        outbox := c.outbox ++ [⟨c.outPeer, c.seq, r.posts, bs, bs.length, true⟩] })) ∧
  (∀ m r, c.begun = true → c.half = false → c.peers.find? (fun p => p.rank == c.inPeer) = some r →
    c.inbox.find? (fun m => m.src == c.inPeer && m.seq == r.takes) = some m → c.step.send = false →
    (m.total ≠ (c.region c.step.dst).2 → (op = 2 → run (.collRecv c.id) { c with ending := some (1, 5, none) }) ∧
      (op = 3 → run (.collRrs c.id) { c with ending := some (1, 5, none) })) ∧
    (m.total = (c.region c.step.dst).2 → m.total * c.esize ≤ m.got → NoLoopEnd c (c.pc + 1) →
      ∀ (rrs : Bool) (own data : List Byte) (w : State), op = (if rrs then 3 else 2) →
      WalksReady s c.queue (State.regionAddrs c c.step.dst ++ if rrs then State.regionAddrs c c.step.src else []) → (rrs = true → s.readRegion c c.step.src = .ok own) →
      data = (if rrs then ((((elemsOf c.esize own).zip (elemsOf c.esize m.data)).zip (List.range m.total)).map fun p =>
        toBytes c.esize (combine c.fmt c.red c.rank c.seq ((c.region c.step.dst).1 + p.2) p.1.1 p.1.2)).flatten else m.data) →
      (if rrs then s.regionRead c c.step.src else s).writeRegion c c.step.dst data = (w, none) → ∃ (u : State) (c' : Coll), exec (if rrs then .collRrs c.id else .collRecv c.id) s = .next u ∧
        u.mem = w.mem ∧ (∃ more, u.out = w.out ++ .collAck (c.ranks.getD m.src 0) c.group c.rank (c.round * 2 ^ 32 + m.seq) :: more ∧
          ∀ o ∈ more, ∃ k, o = .credit (c.ranks.getD m.src 0) c.group c.rank k) ∧
        u.coll? c.id = some c' ∧ c' = { stepDone c with peers := c'.peers, inbox := c.inbox.filter fun y => !(y.src == m.src && y.seq == m.seq) } ∧
        ∀ p ∈ c'.peers, p.rank = m.src → ∃ p' ∈ c.peers, p'.rank = m.src ∧ p.takes = p'.takes + 1 ∧ p.lastSeq = some (max c.seq (p'.lastSeq.getD c.seq)))) ∧
  (∀ bs w, op = 4 → c.begun = true → WalksReady s c.queue (State.regionAddrs c c.step.src ++ State.regionAddrs c c.step.dst) → s.readRegion c c.step.src = .ok bs →
    (s.regionRead c c.step.src).writeRegion c c.step.dst (bs.take ((c.region c.step.dst).2 * c.esize)) = (w, none) → NoLoopEnd c (c.pc + 1) →
    ∃ u : State, exec (.collCopy c.id) s = .next u ∧
      u = { usedBy c.queue (State.regionAddrs c c.step.src ++ State.regionAddrs c c.step.dst) w with colls := u.colls } ∧ u.coll? c.id = some (stepDone c)) ∧
  (op = 5 → (c.outbox ≠ [] → exec (.collWait c.id) s = .next s) ∧
    (c.outbox = [] → NoLoopEnd c (c.pc + 1) → run (.collWait c.id) { c with pc := c.pc + 1 })) ∧
  (op = 6 →
    let n := match c.step.countMode with | 0 => c.step.literal | 1 => c.size - 1 | 2 => c.size - 2 | _ => Nat.log2 c.size
    (n = 0 → run (.collLoop c.id) { c with pc := c.step.stop }) ∧
    (n ≠ 0 → c.pc + 1 < c.step.stop → NoLoopEnd c (c.pc + 1) →
      run (.collLoop c.id) { c with pc := c.pc + 1, ctrs := listSet c.step.ctr ⟨true, 0, c.pc + 1, c.step.stop, n⟩ c.ctrs })) ∧
  (∀ bs pa, op = 0 → c.outbox = [] → WalksReady s c.queue (State.spanAddrs (c.w 4) (c.elems * c.esize)) → (∀ n o, s.region pa ≠ .peer n o) → Apart c → s.readSpan (s.medlar c.queue) c.asid (c.w 4) .read .program (c.elems * c.esize / 2 ^ 16 + 2) (c.elems * c.esize) = .ok bs →
    let b := s.spanRead (s.medlar c.queue) c.asid (c.w 4) (c.elems * c.esize) .read .program
    c.w 7 % 2 ^ 16 + 832 ≤ 2 ^ 16 → c.w 7 + 832 ≤ 2 ^ 64 → b.writable (s.medlar c.queue) c.asid (c.w 7) .frontEnd = .ok pa →
    b.writable (s.medlar c.queue) c.asid (c.w 7 + 831) .frontEnd = .ok (pa + 831) → ∃ u : State, exec (.collEnd c.id) s = .next u ∧
      poked s.mem u.mem pa (collRecord c 0 0 none (s.now % 2 ^ 64) (some (histogram c.fmt c.esize bs))) ∧
      u.colls = s.colls.filter (fun y => y.id != c.id) ∧ (u.queue c.queue).started = (s.queue c.queue).started.filter fun p => p.id != c.packet) ∧
  ∀ p, c.peers.find? (fun y => y.rank == p.rank) = some p →
    (Config.lossTimer ≤ p.waited → (s.awaited c).contains p.rank = true → run (.peerLossTimeout c.id p.rank) { c with ending := some (1, 1, some p.rank) }) ∧
    (p.waited < Config.lossTimer → exec (.peerLossTimeout c.id p.rank) s = .next s)

/-- R338 to R340, R347, R353, R354: what peers send and what the links do. Chunks, credits, acknowledgements and aborts reach the running
collective of their group and number; early ones wait for it, as does a chunk for which the regulator's bucket holds too little, and a collective
that has heard nothing of their sender takes a higher number of theirs (log entry 45; whose time starts anew, log entry 47; a
group that is not known, log entry 46; the sequence noted at an acknowledgement, log entry 48: the model's readings). A peer's request goes through the export table or is answered with a completer
error, counted as is a message that is not listed, and one to a row that is being copied waits (R401); a port of a fenced die brings nothing. A bucket fills at its rate to its burst. -/
def Obligations.PeersAndLinks : Prop := ∀ (s : State) (group : Word) (src seq first total reason : Nat) (data : List Byte),
  (∀ m ∈ s.ual.early, groupOf s m.group = none) →
  let counted : Ualink := { s.ual with uaErr := min (s.ual.uaErr + 1) (2 ^ 32 - 1) }
  (groupOf s group = none →
    exec (.collectiveChunk group src seq first total data) s =
      .next { s with ual := { s.ual with early := s.ual.early ++ [⟨group, src, seq, some (first, total, data)⟩] } } ∧
    exec (.collectiveCredit group src seq) s = .next { s with ual := { s.ual with early := s.ual.early ++ [⟨group, src, seq, none⟩] } } ∧
    exec (.collectiveAbort group src reason) s = .next s ∧ exec (.collectiveAcknowledgement group src seq) s = .next s) ∧
  (∀ c, groupOf s group = some c → (s.colls.map (·.id)).Nodup →
    let no := seq % 2 ^ 32
    let only (i : Instr) (c' : Coll) : Prop := exec i s = .next { s with colls := s.colls.map fun y => if y.id = c.id then c' else y }
    (c.round < seq / 2 ^ 32 → Fresh c src → exec (.collectiveCredit group src seq) s = .next { s with
      ual := { s.ual with rounds := tabPut 0 group.toNat (seq / 2 ^ 32 + 1) s.ual.rounds }
      colls := s.colls.map fun y =>
        if y.id = c.id then { c with round := seq / 2 ^ 32, peers := peersOf c src fun p => { p with grantedBy := max p.grantedBy no } } else y
      out := s.out ++ (c.peers.filter fun p => p.grantedTo != 0).map fun p =>
        .credit (c.ranks.getD p.rank 0) group c.rank (seq / 2 ^ 32 * 2 ^ 32 + p.grantedTo) }) ∧
    (c.round < seq / 2 ^ 32 → ¬ Fresh c src →
      exec (.collectiveChunk group src seq first total data) s =
        .next { s with ual := { s.ual with early := s.ual.early ++ [⟨group, src, seq, some (first, total, data)⟩] } } ∧
      exec (.collectiveCredit group src seq) s = .next { s with ual := { s.ual with early := s.ual.early ++ [⟨group, src, seq, none⟩] } }) ∧
    (seq / 2 ^ 32 < c.round → exec (.collectiveChunk group src seq first total data) s = .next s ∧ exec (.collectiveCredit group src seq) s = .next s) ∧
    (seq / 2 ^ 32 = c.round → s.cregOf (s.medlar c.queue) c.asid = none → (∀ m ∈ c.inbox, m.src ≠ src ∨ m.seq ≠ no) → only (.collectiveChunk group src seq first total data) { c with
      inbox := c.inbox ++ [⟨src, no, total, data.length, List.replicate (first * c.esize) 0 ++ data⟩]
      peers := heardBy c src }) ∧
    (∀ i r, seq / 2 ^ 32 = c.round → s.cregOf (s.medlar c.queue) c.asid = some (i, r) → r.tokens < data.length → exec (.collectiveChunk group src seq first total data) s =
      .next { s with
        colls := s.colls.map fun y => if y.id = c.id then { c with peers := heardBy c src } else y
        ual := { s.ual with early := s.ual.early ++ [⟨group, src, seq, some (first, total, data)⟩] } }) ∧
    (seq / 2 ^ 32 = c.round → only (.collectiveCredit group src seq)
      { c with peers := peersOf c src fun p => { p with grantedBy := max p.grantedBy no } }) ∧
    only (.collectiveAbort group src reason) (if c.ending = none then { c with ending := some (1, 6, none) } else c) ∧
    (let mine (p : OutPost) : Bool := p.dst == src && c.round * 2 ^ 32 + p.no == seq && p.posted
     (∀ m, c.outbox.find? mine = some m → only (.collectiveAcknowledgement group src seq) { c with
       outbox := c.outbox.filter fun p => !mine p
       peers := peersOf c src fun p => { p with lastSeq := some (max m.seq (p.lastSeq.getD m.seq)) } }) ∧
     (c.outbox.find? mine = none → exec (.collectiveAcknowledgement group src seq) s = .next s))) ∧
  (∀ peer, exec (.peerUnreachable peer) s = .next { s with colls := s.colls.map (withoutPeer peer) }) ∧
  (∀ t, exec (.unlistedMessage t) s = .next { s with ual := counted }) ∧
  (∀ port r, PortDead s port → exec (.peerRequest port r) s = .next s) ∧
  (∀ port off len op wide v cmp, ¬ PortDead s port → s.exported off 16 .read = none → s.exported off 17 .write = none → s.exported off 18 .write = none →
    ∀ r ∈ [PeerReq.read off len, .write off data, .atom off op wide v cmp],
      exec (.peerRequest port r) s = .next { s with ual := counted, out := s.out ++ [.completerError port] }) ∧
  (∀ port off len pa, ¬ PortDead s port → s.exported off 16 .read = some pa →
    (s.rowHeld pa = true → exec (.peerRequest port (.read off len)) s = .next { s with inputs := .peerRequest port (.read off len) :: s.inputs }) ∧
    (s.rowHeld pa = false → s.poisoned pa len = none →
      let asked := s.peerAsks off len .read .read pa
      exec (.peerRequest port (.read off len)) s =
        .next { asked with out := asked.out ++ [.completion port ((List.range len).map fun i => memByte s.mem (pa + i))] })) ∧
  (∀ port off pa, ¬ PortDead s port → s.exported off 17 .write = some pa → s.rowHeld pa = false → ∃ u : State,
    exec (.peerRequest port (.write off data)) s = .next u ∧ poked s.mem u.mem pa data ∧
    u.out = (s.peerAsks off data.length .write .write pa).out ++ [.completion port []]) ∧
  (∀ port off pa (op : AtomOp) (wide : Bool) (v cmp : DWord), ¬ PortDead s port → s.exported off 18 .write = some pa → s.rowHeld pa = false → op ≠ .fadd →
    let n := if wide then 8 else 4
    let old := ofBytes ((List.range n).map fun i => memByte s.mem (pa + i))
    s.poisoned pa n = none → ∃ u : State, exec (.peerRequest port (.atom off op wide v cmp)) s = .next u ∧
      poked s.mem u.mem pa (toBytes n (atomicValue op (8 * n) old (v.toNat % 2 ^ (8 * n)) (cmp.toNat % 2 ^ (8 * n)))) ∧
      u.out = (s.peerAsks off n .write .atomic pa).out ++ [.completion port (toBytes n old)]) ∧
  (∀ port lanes peer, ¬ PortDead s port →
    let p : Port := ⟨if 4 ≤ lanes then 4 else if 2 ≤ lanes then 2 else lanes, decide (0 < lanes) && peer.isSome && peer != some s.ual.uaid, peer⟩
    exec (.portTraining port lanes peer) s = .next { s with ual := { s.ual with ports := tabSet port p s.ual.ports } }) ∧
  (∀ port lanes p, tabFind port s.ual.ports = some p →
    let left := p.lanes - lanes
    let w := if 4 ≤ left then 4 else if 2 ≤ left then 2 else left
    exec (.ualinkLaneFailure port lanes) s = .next { s with ual := { s.ual with ports := tabSet port { p with lanes := w, up := p.up && decide (0 < w) } s.ual.ports } }) ∧
  ∀ slot r, tabFind slot s.die0.cregs = some r → 
    let full := 1024 * max 4 (r.word.toNat / 2 ^ 32 % 2 ^ 16)
    let r' : CReg := { r with tokens := min full (r.tokens + r.word.toNat / 2 ^ 16 % 2 ^ 16 * (s.now - r.filled)), filled := s.now }
    exec (.tokenBucketFill 0 slot) s = .next { s with die0 := { s.die0 with cregs := tabSet slot r' s.die0.cregs } }

/-! ### Contexts, debugger, clocks, service (chapters 19, 21 to 24) -/

namespace Sys2Proof.Spec

open Machine

/-- A context command with code k for ASID a: reserved fields zero (R329, Table 19.6). -/
structure CmdFor (cmd : List DWord) (k a : Nat) : Prop where
  head : (cmd.getD 0 0).toNat = k + 2 ^ 16 * a
  range : a < 2 ^ 16 ∧ a ≠ 0
  rest : cmd.getD 3 0 = 0
/-- What every command does first, and when it has completed: the descriptor is read again, and one command more is counted. -/
def commanded (s : State) (a : Nat) (d : Descriptor) : State :=
  { s.readCtx a with cxDone := s.cxDone + 1, ctxs := s.ctxs.map fun c => if c.asid = a then { c with desc := d } else c }
/-- The status word of a context (R321). -/
def statusWord (c : Context) : Nat := (if c.failed then 1 else 0) + (if c.terminated then 2 else 0) + if c.suspended then 4 else 0

/-- A debug command page after a command: status, cause and data, one command more done (R360). -/
def answered (p : DbgPage) (status : Nat) (data : Option DWord) : DbgPage :=
  { p with res := BitVec.ofNat 64 status, data := data.getD p.data, done := p.done + 1, busy := false }
/-- Only page n differs, and it is p. -/
structure OnlyPage (s u : State) (n : Nat) (p : DbgPage) : Prop where
  machine : u = { s with dbg := { s.dbg with pages := u.dbg.pages } }
  page : u.page n = p
  others : ∀ m, m ≠ n → u.page m = s.page m
/-- Command of code k in slot n with nothing against it: a page at rest, a valid slot with its handle and right, zero reserved fields. -/
structure Ordered (s : State) (n k right : Nat) (cmd : List DWord) : Prop where
  rest : (s.page n).busy = false
  slot : (s.cap n).word8.getLsbD 6 = true ∧ (s.cap n).handle ≠ 0 ∧ cmd.getD 1 0 = (s.cap n).handle ∧ (s.cap n).word8.getLsbD right = true
  code : (cmd.getD 0 0).toNat = k
  fields : ∀ i, 4 ≤ i → i < 8 → cmd.getD i 0 = 0
/-- A slot's list of peers has been read: the request to a link, where it lies behind one (R253). -/
def listRead (s : State) (c : CapSlot) : State := if c.peerCount = 0 then s else s.askLink c.peerList (2 * c.peerCount) .read
/-- That of the slot that names a job's peers. -/
def jobRead (s : State) (job : Word) : State := match s.jobSlot job with | some c => listRead s c | none => s
/-- The slot that a slot descends from directly, and descent (R359): there are 256 slots. -/
def parentSlot (s : State) (m : Nat) : Option Nat := if (s.cap m).word8.getLsbD 7 then some ((s.cap m).word8.toNat / 2 ^ 8 % 2 ^ 8) else none
def descendsFrom (s : State) (n m : Nat) : Prop := ∃ k, k ≤ 256 ∧ (fun o : Option Nat => o.bind (parentSlot s))^[k] (some m) = some n
def jobOf (s : State) (n : Nat) : Word := ((s.cap n).word8 >>> 32).setWidth 32
def asidOf (s : State) (n : Nat) : Nat := (s.cap n).word8.toNat / 2 ^ 16 % 2 ^ 16
/-- A STEP waits: a clause stands in the issue slot, or its core's clock is stopped (R310). -/
def StepWaits (s : State) (n : Nat) (cmd : List DWord) : Prop :=
  s.issue ≠ none ∨ ∃ t, s.targetTeam (asidOf s n) (State.targetOf (cmd.getD 2 0).toNat) = some t ∧ s.clockStopped t.core = true

/-- The next entry of the service log after an event (R400, Table 24.5): at SLWP, modulo 256, with the time, kind, class, instance, detail
and value. -/
def LogsFirst (s u : State) (kind cls die inst detail value : Nat) : Prop :=
  ∃ e, tabFind (s.svc.slwp.toNat % 256) u.svc.log = some e ∧ e.length = 32 ∧ field e 0 8 = s.now % 2 ^ 64 ∧
    field e 8 1 = kind % 256 ∧ field e 9 1 = cls % 256 ∧ field e 10 2 = (die * 2 ^ 15 + inst % 2 ^ 11) % 2 ^ 16 ∧ field e 12 4 = detail % 2 ^ 32 ∧
    field e 16 8 = value % 2 ^ 64
/-- One entry more, and no other. -/
def Logged (s u : State) (kind cls die inst detail value : Nat) : Prop :=
  u.svc.slwp = s.svc.slwp + 1 ∧ LogsFirst s u kind cls die inst detail value

/-- The part serves: neither in recovery (R397) nor shut down (R403). -/
def InService (s : State) : Prop := s.svc.recovery = false ∧ s.svc.shutdown = false

/-- Two errors lie in one instance of Table 24.4: the class, the die, the unit, and, but for an L2 slice, a core's register file and a core's
L1, the detail (R400). -/
def sameInstance (a b : ErrInst) : Bool :=
  a.cls == b.cls && a.die == b.die && a.unit == b.unit && (a.cls == 1 || a.cls == 3 || a.cls == 4 || a.detail == b.detail)

def putDie (s : State) (d : Nat) (x : Die) : State := if d = 0 then { s with die0 := x } else { s with die1 := x }
def code : Master → Nat | .host => 1 | .bmc => 2

end Sys2Proof.Spec

/-- R325, R327, R329, R330, R332, R391: commands 1 to 6 for a known context, with none in front of them, read its descriptor again, have
their effect and complete; one that is not legal only completes. An invalidation drops whole pages, ends sleeps in MWAIT, and takes the kept
code words of its pages (log entry 67). REPLAY lets the parked accesses and operations be made again; it is complete once each of these has been retried, and the next command waits. CANCEL gives a parked access the outcome that it has in fatal mode.
When the commands act and complete is the model's reading (log entry 51), and so is which die writes a status word (log entry 41). A consumer's
write of FBRP makes room. The memory aperture reaches physical memory while the link is up, but for a row that is being copied (R401). In recovery and after a critical shutdown no command acts. -/
def Obligations.ContextCommands : Prop := (∀ (s : State) (cmd : List DWord) (v : DWord), ¬ InService s →
    ∀ i ∈ [Instr.invalidateTranslations cmd, .replay cmd, .cancel cmd, .suspend cmd, .contextResume cmd, .terminate cmd, .fbrp 0 v, .fbrp 1 v],
      exec i s = .next s) ∧
  (∀ (s : State) (cmd : List DWord) (rs : List Retry) (a : Nat), s.cmds = [⟨cmd, true, rs⟩] → CmdFor cmd 2 a → (∀ c ∈ s.ctxs, c.suspending = false) →
    ((∀ r ∈ rs, s.retried r = true) → State.settleCmds 2 s = { s with cmds := [], cxDone := s.cxDone + 1 }) ∧
    ((∃ r ∈ rs, s.retried r = false) → State.settleCmds 2 s = s)) ∧
  ∀ (s : State) (cmd : List DWord) (a : Nat) (c : Context) (d : Descriptor), InService s → s.cmds = [] →
  (s.ctxs.map (·.asid)).Nodup → s.ctx? a = some c → s.readDescriptor a = some d → (∀ c ∈ s.ctxs, c.suspending = false) →
  let s' := commanded s a d
  let front := if s.die0.live then 0 else 1
  (∀ k, (cmd.getD 0 0).toNat = k + 2 ^ 16 * a → a < 2 ^ 16 → cmd.getD 3 0 ≠ 0 →
    let done : Host.Outcome State Fault Refusal := .next ({ s with cxDone := s.cxDone + 1 } : State).settle
    (k = 1 → exec (.invalidateTranslations cmd) s = done) ∧ (k = 2 → exec (.replay cmd) s = done) ∧ (k = 3 → exec (.cancel cmd) s = done) ∧
    (k = 4 → exec (.suspend cmd) s = done) ∧ (k = 5 → exec (.contextResume cmd) s = done) ∧ (k = 6 → c.terminating = false → exec (.terminate cmd) s = done)) ∧
  (CmdFor cmd 1 a →
    let start := (cmd.getD 1 0).toNat % 2 ^ 57 / 65536 * 65536
    let stop := (start + (cmd.getD 2 0).toNat + 65535) / 65536 * 65536
    let covers (base size : Nat) : Bool := (cmd.getD 2 0).toNat == 0 || (decide (base < stop) && decide (start < base + size)) ||
      (decide (base + 2 ^ 57 < stop) && decide (start < base + 2 ^ 57 + size))
    exec (.invalidateTranslations cmd) s = .next ({ s' with
      l1 := s.l1.filter fun x => x.asid != a
      watch := s.watch.map fun w => if s.teams.any fun t => t.core == w.core && t.asid == a && t.res == .resident then { w with fired := true } else w
      icache := s.icache.filter fun w => !(w.asid == a && covers (w.addr % 2 ^ 57 / 65536 * 65536) 65536)
      tlb := s.tlb.filter fun e => !(e.asid == a && covers e.base e.size) } : State).settle) ∧
  (∀ tok, CmdFor cmd 2 a → cmd.getD 1 0 = 0 → (cmd.getD 2 0).toNat = tok → (∀ y ∈ s.accs, y.parked = none) → (∀ g ∈ s.grids, ∀ n, g.state ≠ .parked n) →
    let rs := s.retriesOf a tok
    let free (p : Option Nat) : Option Nat := match p with | some n => if tok = 0 ∨ tok = n then none else some n | none => none
    let w : State := { s' with
      engs := s.engs.map fun e => if e.asid = a then { e with parked := free e.parked } else e
      colls := s.colls.map fun x => if x.asid = a then { x with parked := free x.parked } else x
      queues := s.queues.map fun p => if p.2.ctl.toNat / 2 ^ 32 % 2 ^ 16 = a then
        (p.1, { p.2 with parkedWord := (match p.2.parkedWord with | some (n, k) => if tok = 0 ∨ tok = n then none else some (n, k) | none => none)
                         retrying := p.2.retrying || (match p.2.parkedWord with | some (n, _) => decide (tok = 0 ∨ tok = n) | none => false)
                         started := p.2.started.map fun y => { y with parked := free y.parked } }) else p }
    ((∀ r ∈ rs, w.retried r = true) → exec (.replay cmd) s = .next w.settle) ∧
    ((∃ r ∈ rs, w.retried r = false) → exec (.replay cmd) s = .next ({ w with cxDone := s.cxDone, cmds := [⟨cmd, true, rs⟩] } : State).settle)) ∧
  (∀ (tok n : Nat) (x : Access), CmdFor cmd 2 a → cmd.getD 1 0 = 0 → (cmd.getD 2 0).toNat = tok → s.retriesOf a tok = [.acc x.id] →
    x ∈ s.accs → (∀ y ∈ s.accs, y ≠ x → y.id ≠ x.id ∧ y.parked = none) → x.asid = a → x.parked = some n → (tok = 0 ∨ tok = n) →
    s.engs = [] → s.colls = [] → s.queues = [] → (∀ g ∈ s.grids, ∀ n, g.state ≠ .parked n) →
    let y : Access := { x with parked := none, bad := none }
    let w : State := { s' with accs := s.accs.map fun z => if z.id = x.id then y else z }
    ((w.accPhys y).isSome = true → exec (.replay cmd) s = .next w.settle) ∧
    (w.accPhys y = none → exec (.replay cmd) s = .next ({ w with cxDone := s.cxDone, cmds := [⟨cmd, true, [.acc x.id]⟩] } : State).settle)) ∧
  (∀ (tok n : Nat) (x : Access), CmdFor cmd 3 a → cmd.getD 1 0 = 0 → (cmd.getD 2 0).toNat = tok → s.engs = [] → s.queues = [] → s.colls = [] →
    s.grids = [] → x ∈ s.accs → (∀ y ∈ s.accs, y ≠ x → y.id ≠ x.id ∧ y.parked = none) → x.asid = a → x.parked = some n → (tok = 0 ∨ tok = n) →
    exec (.cancel cmd) s = .next ({ ({ s' with cxDone := s.cxDone } : State).lateFatal x (x.bad.getD 0x06) with cxDone := s.cxDone + 1 } : State).settle) ∧
  (∀ tok, CmdFor cmd 3 a → cmd.getD 1 0 = 0 → (cmd.getD 2 0).toNat = tok → s.accs = [] → s.engs = [] → s.queues = [] →
    (∀ g ∈ s.grids, ∀ n, g.state ≠ .parked n) → exec (.cancel cmd) s = .next ({ s' with colls := s.colls.map fun x =>
      if x.asid = a ∧ (∃ n, x.parked = some n ∧ (tok = 0 ∨ tok = n)) then { x with parked := none, ending := some (1, 2, none) } else x } : State).settle) ∧
  (CmdFor cmd 4 a → cmd.getD 1 0 = 0 → cmd.getD 2 0 = 0 → c.suspended = false → c.terminated = false → c.terminating = false →
    ((s.teams.filter fun t => t.asid == a && t.res == .resident).length ≤ (s'.freeSaves a).length →
      (∃ t ∈ s.teams, t.asid = a ∧ t.res = .resident) → exec (.suspend cmd) s = .next ({ s.readCtx a with
        ctxs := s.ctxs.map fun c => if c.asid = a then { c with desc := d, suspending := true } else c, cmds := [⟨cmd, true, []⟩] } : State).settle) ∧
    (∀ pa, (∀ t ∈ s.teams, t.asid = a → t.res ≠ .resident) → (∀ x ∈ s.colls, x.asid ≠ a) → s.frozen a = false →
      s'.writable front a d.statusAddr .frontEnd = .ok pa → ∃ u : State, exec (.suspend cmd) s = .next u.settle ∧
        u.ctx? a = some { c with desc := d, suspended := true, suspending := false } ∧ u.cxDone = s.cxDone + 1 ∧ u.cmds = [] ∧
        poked s.mem u.mem pa (toBytes 8 (statusWord { c with suspended := true })))) ∧
  (∀ pa, CmdFor cmd 5 a → cmd.getD 1 0 = 0 → cmd.getD 2 0 = 0 → c.suspended = true → s'.writable front a d.statusAddr .frontEnd = .ok pa →
    ∃ u : State, exec (.contextResume cmd) s = .next u.settle ∧ u.ctx? a = some { c with desc := d, suspended := false } ∧ u.cxDone = s.cxDone + 1 ∧
      poked s.mem u.mem pa (toBytes 8 (statusWord { c with suspended := false }))) ∧
  (CmdFor cmd 6 a → cmd.getD 1 0 = 0 → cmd.getD 2 0 = 0 → c.terminated = false → c.terminating = false → s.issue = none → ∃ u : State,
    exec (.terminate cmd) s = .next u.settle ∧ u.cxDone = s.cxDone + 1 ∧ u.cmds = [] ∧ (∀ t ∈ u.teams, t.asid ≠ a) ∧ (∀ e ∈ u.tlb, e.asid ≠ a) ∧
    u.ctx? a = some { c with desc := d, failed := ((u.ctx? a).map (·.failed)).getD false, terminated := true, suspended := c.suspended } ∧
    ∀ q, (s.queue q).state ≠ .off → (s.queue q).ctl.toNat / 2 ^ 32 % 2 ^ 16 = a → (u.queue q).state = .dead ∧ (u.queue q).cause = 7) ∧
  (∀ v : DWord, s.waits = [] → exec (.fbrp 0 v) s = .next { s with die0 := { s.die0 with fb := { s.die0.fb with rp := v.toNat % 2 ^ 14 } } } ∧
    exec (.fbrp 1 v) s = .next { s with die1 := { s.die1 with fb := { s.die1.fb with rp := v.toNat % 2 ^ 14 } } }) ∧
  (s.link.up = false → ∀ off n data, exec (.hostApertureAccess off data n) s = .next s) ∧
  ∀ off n (bs : List Byte), s.link.up = true → s.svc.recovery = false → 0 < n → bs.length = n → off + n ≤ 2 ^ s.link.bar2Log2 →
    let pa := s.svc.apBase + off
    let there : Prop := s.region pa ≠ .nowhere ∧ s.region (pa + n - 1) ≠ .nowhere
    let refused : State := { s with svc := { s.svc with hostErr := min (s.svc.hostErr + 1) (2 ^ 32 - 1) }, out := s.out ++ [.unsupportedRequest] }
    (¬ there → exec (.hostApertureAccess off (some bs) 0) s = .next refused ∧ exec (.hostApertureAccess off none n) s = .next refused) ∧
    let held : Prop := s.rowHeld pa = true ∨ s.rowHeld (pa + n - 1) = true
    (there → held → ∀ i ∈ [Instr.hostApertureAccess off (some bs) 0, .hostApertureAccess off none n], exec i s = .next { s with inputs := i :: s.inputs }) ∧
    (there → ¬ held → (∃ u : State, exec (.hostApertureAccess off (some bs) 0) s = .next u ∧ poked s.mem u.mem pa bs ∧
          u.out = (s.askLink pa n .write).out) ∧
      ((∀ i, i < n → (pa + i) / 8 ∉ s.poison) → exec (.hostApertureAccess off none n) s = .next { s with
        out := (s.askLink pa n .read).out ++ [.hostCompletion ((List.range n).map fun i => memByte s.mem (pa + i))], draws := s.draws + 1 }))

/-- R358 to R376: the commands of a capability slot. A busy page answers 8; a wrong handle or slot 3, a missing right 2, a command that
needs the job frozen 1. HALT freezes the job, or on a frozen job is recorded and reported, RESUME starts it again after its delay, READ and WRITE reach the registers of a stopped
thread, TRIGGER tells the peers of its slot, STEP runs a group's clause and reports when it and its operations are done, and waits while a clause stands in
the issue slot or the core's clock is stopped (log entry 59); revoking makes invalid a slot and every slot that descends from it, no other, and a
frozen job that has none left resumes. That the number of a wave goes from 0xFFFFFFFF to 1 is the model's reading (log entry 102). The order of the checks, and that a busy page
answers 8 without counting, are the model's reading (log entry 50). In recovery and after a critical shutdown no command acts. -/
def Obligations.DebugCommands : Prop := (∀ (s : State) (n : Nat) (cmd : List DWord), ¬ InService s →
    ∀ i ∈ [Instr.halt n cmd, .stepCmd n cmd, .resume n cmd, .readCmd n cmd, .writeCmd n cmd, .trigger n cmd, .capabilityRevoke n], exec i s = .next s) ∧
  ∀ (s : State) (n : Nat) (cmd : List DWord), InService s →
  let job := jobOf s n
  let p := s.page n
  let frozen := s.frozenJob (jobOf s n)
  let turned (i : Instr) (status : Nat) : Prop := ∃ u : State, exec i s = .next u ∧ OnlyPage s u n (answered p status none)
  let code := (cmd.getD 0 0).toNat
  (∀ i ∈ ([(1, .halt n cmd), (2, .stepCmd n cmd), (3, .resume n cmd), (4, .readCmd n cmd), (5, .writeCmd n cmd), (6, .trigger n cmd)] : List (Nat × Instr)),
    code = i.1 →
    (p.busy = true → ∃ u : State, exec i.2 s = .next u ∧ OnlyPage s u n { p with res := 8 }) ∧
    (p.busy = false →
      let valid : Prop := (s.cap n).word8.getLsbD 6 = true ∧ (s.cap n).handle ≠ 0 ∧ cmd.getD 1 0 = (s.cap n).handle
      let right := if i.1 = 4 then 1 else if i.1 = 5 then 2 else if i.1 = 6 then 4 else 0
      (¬ valid → turned i.2 3) ∧ (valid → (s.cap n).word8.getLsbD right = false → turned i.2 2) ∧
      (valid → (s.cap n).word8.getLsbD right = true → cmd.getD 4 0 ≠ 0 → turned i.2 7) ∧
      (Ordered s n i.1 right cmd → cmd.getD 2 0 = 0 → (if i.1 = 3 then cmd.getD 3 0 = 1000 else cmd.getD 3 0 = 0) → frozen = false →
        (i.1 = 2 ∨ i.1 = 3 ∨ i.1 = 4 ∨ i.1 = 5) → turned i.2 1))) ∧
  (Ordered s n 2 0 cmd → frozen = true → (cmd.getD 2 0).toNat / 2 ^ 25 % 2 ^ 7 = 0 → cmd.getD 3 0 = 0 → StepWaits s n cmd → ∃ u : State,
    exec (.stepCmd n cmd) s = .next u ∧ OnlyPage s u n { p with busy := true, held := some cmd }) ∧
  (∀ c, p.held = some c → (StepWaits s n c → exec (.stepReport n) s = .next s) ∧
    (¬ StepWaits s n c → frozen = false → ∃ u : State, exec (.stepReport n) s = .next u ∧ OnlyPage s u n (answered { p with held := none } 1 none)) ∧
    (¬ StepWaits s n c → frozen = true → exec (.stepReport n) s = .next ((s.modPage n fun p => { p with held := none }).runStep n c))) ∧
  (Ordered s n 1 0 cmd → cmd.getD 2 0 = 0 → cmd.getD 3 0 = 0 → (∀ r ∈ s.dbg.reached, r.asid ∉ s.jobAsids job) → s.frozenJob job = false → (∃ k, s.dbg.caps = [(n, k)]) →
    s.engs = [] → (s.cap n).word8.getLsbD 4 = false → (s.cap n).peerCount = 0 → ∃ (u : State) (e : List Byte), exec (.halt n cmd) s = .next u ∧ u.frozenJob job = true ∧
      u.dbg.frozen = s.dbg.frozen ++ [⟨job, [asidOf s n], true, none⟩] ∧ u.page n = answered p 0 none ∧ u.mem = s.mem ∧
      u.dbg.waveSeq = (if s.dbg.waveSeq = 0xFFFFFFFF#32 then 1 else s.dbg.waveSeq + 1) ∧
      (s.dbg.causes.length < 16 → u.dbg.causes = s.dbg.causes ++ [e] ∧ e.length = 32 ∧ field e 0 4 = u.dbg.waveSeq.toNat ∧ field e 12 1 = 0)) ∧
  (Ordered s n 1 0 cmd → cmd.getD 2 0 = 0 → cmd.getD 3 0 = 0 → (∀ r ∈ s.dbg.reached, r.asid ∉ s.jobAsids job) → frozen = true → ∃ (u : State) (e : List Byte), exec (.halt n cmd) s = .next u ∧
    u.page n = answered p 0 none ∧ u.mem = s.mem ∧ u.dbg.frozen = s.dbg.frozen ∧ u.dbg.waveSeq = s.dbg.waveSeq ∧ field e 12 1 = 0 ∧
    (s.dbg.causes.length < 16 → u.dbg.causes = s.dbg.causes ++ [e]) ∧ ∃ sent : List OutMsg, u.out = (jobRead s job).out ++ sent ∧ sent.length = (s.jobPeers job).length) ∧
  (Ordered s n 3 0 cmd → cmd.getD 2 0 = 0 → 1000 ≤ (cmd.getD 3 0).toNat → (cmd.getD 3 0).toNat ≤ 10 ^ 9 → frozen = true → ∃ u : State,
    exec (.resume n cmd) s = .next u ∧ u.page n = answered p 0 none ∧ u.dbg.frozen = (s.dbg.frozen.map fun f =>
      if f.job = job ∧ f.resumeAt = none then { f with resumeAt := some (s.now + (cmd.getD 3 0).toNat) } else f) ∧
    u.out = (jobRead s job).out ++ (s.jobPeers job).map fun q => .sloeResume q (toBytes 4 job.toNat ++ toBytes 2 s.ual.uaid ++ toBytes 8 (s.now % 2 ^ 64) ++ toBytes 4 (cmd.getD 3 0).toNat)) ∧
  (∀ (t : Team) (x : Thread) (r : Nat) (v : DWord), frozen = true → t.res = .resident → r < 192 → holds (t.crewOf x) (BitVec.ofNat 8 r) = true →
    let w := (cmd.getD 2 0).toNat
    w = 2 ^ 32 * r + 2 ^ 19 * x.lane + 2 ^ 14 * x.crew + 2 ^ 11 * t.slot + t.core → x.lane < 32 → x.crew < 32 → t.slot < 8 → t.core < 2048 → Distinct t →
    s.teams.find? (fun u => u.res == .resident && u.asid == asidOf s n && u.core == t.core && u.slot == t.slot) = some t → s.team? t.id = some t →
    t.threads.find? (fun y => y.crew == x.crew && y.lane == x.lane) = some x → x.pend = [] → x.flips = [] → x.frags = [] →
    (Ordered s n 4 1 cmd → cmd.getD 3 0 = 0 → ∃ u : State, exec (.readCmd n cmd) s = .next u ∧
      OnlyPage { s with draws := s.draws + 1 } u n (answered p 0 (some ((rd t x (BitVec.ofNat 8 r)).setWidth 64)))) ∧
    (Ordered s n 5 2 cmd → cmd.getD 3 0 = v → ∃ (u : State) (y : Thread), exec (.writeCmd n cmd) s = .next u ∧ u.page n = answered p 0 none ∧
      u.mem = s.mem ∧ u.thread? t.id x.tid = some y ∧ y = { x with regs := y.regs, trans := y.trans } ∧
      ∀ c j, isV j = true → readReg y c j = if j = BitVec.ofNat 8 r then v.setWidth 32 else readReg x c j)) ∧
  (Ordered s n 6 4 cmd → cmd.getD 2 0 = 0 → (cmd.getD 3 0).toNat < 256 → (∀ q ∈ s.dbg.caps, q.2.word8.getLsbD 4 = true → (s.page q.1).trCtl.getLsbD 0 = false) →
    ∃ u : State, exec (.trigger n cmd) s = .next u ∧ (u.page n).res = 0 ∧ (u.page n).done = p.done + 1 ∧ u.mem = s.mem ∧
      u.out = (listRead s (s.cap n)).out ++ (s.slotPeers (s.cap n)).map fun q => .triggerMsg q (toBytes 4 job.toNat ++ toBytes 2 s.ual.uaid ++ toBytes 1 (cmd.getD 3 0).toNat ++ toBytes 8 (s.now % 2 ^ 64))) ∧
  (∀ (t : Team) (x : Thread), Ordered s n 2 0 cmd → s.issue = none → frozen = true → cmd.getD 3 0 = 0 → FreshNumbers s → t ∈ s.teams → t.threads = [x] → t.res = .resident →
    x.run = .active → (cmd.getD 2 0).toNat = 2 ^ 14 * x.crew + 2 ^ 11 * t.slot + t.core → x.crew < 32 → x.lane < 32 → t.slot < 8 → t.core < 2048 → (t.crew? x.crew).isSome = true →
    s.teams.find? (fun u => u.res == .resident && u.asid == asidOf s n && u.core == t.core && u.slot == t.slot) = some t →
    s.clockStopped t.core = false → ∀ (t' : Team) (x' : Thread),
    let awake := (s.rested t.id fun y => y.crew == x.crew).restamp
    awake.team? t.id = some t' → t'.threads = [x'] →
    (awake.isReady true t' x' = false → turned (.stepCmd n cmd) 4) ∧
    (awake.isReady true t' x' = true → awake.waveTurn t' x' = true → ∃ u : State, exec (.stepCmd n cmd) s = .next u ∧ (u.page n).busy = true ∧ u.mem = s.mem ∧
      u.issue = some ⟨t.core, t.id, x.clause, x.hdr, x.words, x.idx, [x.tid], awake.rankStamp t' x', some n, [], [x.tid]⟩ ∧ ∃ w ∈ u.dbg.steps, w.slot = n ∧ w.team = t.id ∧ w.left = false)) ∧
  (∀ w, p.held = none → s.dbg.steps.find? (fun y => y.slot == n) = some w →
    let busy : Prop := w.left = false ∨ (∃ i ∈ w.ops, ∃ e ∈ s.engs, e.id = i ∧ e.parked = none ∧ s.heldBack e = false) ∨
      ∃ k ∈ s.waits, (∃ tid c, k.act = .thread w.team tid c ∧ tid ∈ w.tids) ∨ ∃ i c tok y, k.act = .late i c tok ∧ s.acc? i = some y ∧ ∃ tid ∈ w.tids, y.ofThread w.team tid = true
    (busy → exec (.stepReport n) s = .next s) ∧
    (¬ busy → ∃ u : State, exec (.stepReport n) s = .next u ∧ u.dbg.steps = s.dbg.steps.filter (fun y => y.slot != n) ∧
      u.page n = answered p (w.status + 256 * w.cause) none)) ∧
  ∃ u : State, exec (.capabilityRevoke n) s = .next u ∧ u.mem = s.mem ∧
    (∀ m, (descendsFrom s n m → u.cap m = { s.cap m with word8 := (s.cap m).word8 &&& ~~~0x40#64 }) ∧ (¬ descendsFrom s n m → u.cap m = s.cap m)) ∧
    u.dbg.frozen = s.dbg.frozen.map fun f => if f.resumeAt = none ∧ u.jobAsids f.job = [] then { f with resumeAt := some (s.now + 2000) } else f

/-- R363, R372, R373, R374, R376: what arrives from other devices and what follows a resume. A halt freezes the job's contexts here, if
there are any, and is recorded; a cause report is recorded; a resume sets the time of R0; at R0 engines and front ends go on and the
cause block is clear; 250 ns later the cores do. A trigger message leaves a record of kind 9 with the origin's `s.ref` and its arrival time in each
trace ring of the job; in window mode it closes the window: the ring goes on to arrival + post and does not overwrite what came since arrival −
pre (that it then stops early is the model's choice, log entry 81). A trace window ends at its time. -/
def Obligations.DebugMessages : Prop := ∀ (s : State) (job : Word),
  let holds_ : Prop := ∃ n c, (n, c) ∈ s.dbg.caps ∧ c.word8.getLsbD 6 = true ∧ c.handle ≠ 0 ∧ c.word8.getLsbD 0 = true ∧ (c.word8 >>> 32).setWidth 32 = job
  let recorded (u : State) (e : List Byte) : Prop :=
    (s.dbg.causes.length < 16 → u.dbg.causes = s.dbg.causes ++ [e ++ toBytes 8 (s.now % 2 ^ 64)]) ∧
    (16 ≤ s.dbg.causes.length → u.dbg.causes = s.dbg.causes ∧ u.dbg.causeOvf = min (s.dbg.causeOvf + 1) (2 ^ 32 - 1))
  let quiet : Prop := ∀ q ∈ s.dbg.caps, q.2.word8.getLsbD 4 = false
  (∀ origin seq cause ref, (¬ holds_ → exec (.sloeHalt job origin seq cause ref) s = .next s) ∧
    (holds_ → quiet → ∃ u : State, exec (.sloeHalt job origin seq cause ref) s = .next u ∧ u.frozenJob job = true ∧ u.mem = s.mem ∧
      recorded u (toBytes 4 seq.toNat ++ cause.take 12 ++ toBytes 8 ref.toNat))) ∧
  (∀ entry, (¬ holds_ → exec (.sloeCauseReport job entry) s = .next s) ∧
    (holds_ → ∃ u : State, exec (.sloeCauseReport job entry) s = .next u ∧ recorded u (entry.take 24) ∧ u = { s with dbg := { s.dbg with causes := u.dbg.causes, causeOvf := u.dbg.causeOvf } })) ∧
  (∀ origin sent (delta : Word), exec (.sloeResume job origin sent delta) s = .next { s with dbg := { s.dbg with
    frozen := s.dbg.frozen.map fun f => if f.job = job ∧ f.resumeAt = none then { f with resumeAt := some (s.now + delta.toNat) } else f } }) ∧
  (∀ origin number ref, quiet → exec (.triggerMessage job origin number ref) s = .next s) ∧
  (∀ origin number (ref : DWord) n c, s.dbg.caps = [(n, c)] → c.word8.getLsbD 6 = true → c.handle ≠ 0 → c.word8.getLsbD 4 = true →
    (c.word8 >>> 32).setWidth 32 = job → (s.page n).trCtl.getLsbD 0 = true → (s.page n).trStopped = false →
    let p := s.page n
    let size := 2 ^ (p.trCtl.toNat / 2 ^ 8 % 2 ^ 8)
    let slot := p.trBase + 32 * (p.trWp % size)
    let pre := 1000 * (p.trWin.toNat % 2 ^ 32)
    let post := 1000 * (p.trWin.toNat / 2 ^ 32)
    let entry := toBytes 8 (s.now % 2 ^ 64) ++ [9, 0] ++ toBytes 2 (3 * 2 ^ 11) ++ toBytes 12 0 ++ toBytes 8 ref.toNat
    let wrote (p' : DbgPage) : Prop := ∃ u : State, exec (.triggerMessage job origin number ref) s = .next u ∧ poked s.mem u.mem slot entry ∧ u.page n = p' ∧
      ∀ m, m ≠ n → u.page m = s.page m
    let stopped : Prop := ∃ u : State, exec (.triggerMessage job origin number ref) s = .next u ∧ OnlyPage s u n { p with trStopped := true }
    s.region slot ≠ .nowhere →
    (p.trCtl.getLsbD 1 = false → p.trWp + 1 < size → wrote { p with trWp := p.trWp + 1 }) ∧
    (p.trCtl.getLsbD 1 = true → p.trEnd = none → wrote { p with trWp := (p.trWp + 1) % 2 ^ 24, trEnd := some (s.now + post) }) ∧
    ∀ e, p.trCtl.getLsbD 1 = true → p.trEnd = some e →
      let old := ofBytes ((List.range 8).map fun i => memByte s.mem (slot + i))
      let kept : Prop := size ≤ p.trWp ∧ e - post - pre ≤ old ∧ old ≤ s.now % 2 ^ 64
      (e < s.now → stopped) ∧ (s.now ≤ e → kept → stopped) ∧ (s.now ≤ e → ¬ kept → wrote { p with trWp := (p.trWp + 1) % 2 ^ 24 })) ∧
  (let due : Prop := ∃ f ∈ s.dbg.frozen, f.job = job ∧ f.engines = true ∧ ∃ a, f.resumeAt = some a ∧ a ≤ s.now
   (¬ due → exec (.resumeEngines job) s = .next s.settle) ∧
   (due → quiet → exec (.resumeEngines job) s = .next ({ s with dbg := { s.dbg with
     frozen := s.dbg.frozen.map fun f => if f.job = job then { f with engines := false } else f, causes := [], causeOvf := 0 } } : State).settle)) ∧
  (∀ f a, s.dbg.frozen.find? (fun f => f.job == job && !f.engines) = some f → f.resumeAt = some a →
    (s.now < a + 250 → exec (.resumeCores job) s = .next s) ∧
    (a + 250 ≤ s.now → (∀ t ∈ s.teams, ∀ x ∈ t.threads, ∀ r, x.run ≠ .stopped r) → ∃ u : State, exec (.resumeCores job) s = .next u ∧
      u.dbg.frozen = s.dbg.frozen.filter (fun g => g.job != job) ∧ u.mem = s.mem ∧ u.teams.length = s.teams.length ∧
      ∀ (i : Nat) (t t' : Team), s.teams[i]? = some t → u.teams[i]? = some t' → t'.id = t.id ∧ t'.threads.map (·.clause) = t.threads.map (·.clause) ∧
        ∀ (n m : Nat) (x y x' y' : Thread) (j k : Nat), t.threads[n]? = some x → t.threads[m]? = some y → t'.threads[n]? = some x' → t'.threads[m]? = some y' →
          x.stamp = some j → y.stamp = some k → j ≤ k → ∃ j' k', x'.stamp = some j' ∧ y'.stamp = some k' ∧ j' ≤ k')) ∧
  ∀ n, ((s.page n).trEnd = none → exec (.traceWindowEnd n) s = .next s) ∧
    ∀ e, (s.page n).trEnd = some e → (s.now < e → exec (.traceWindowEnd n) s = .next s) ∧
      (e ≤ s.now → ∃ u : State, exec (.traceWindowEnd n) s = .next u ∧ OnlyPage s u n { s.page n with trStopped := true, trEnd := none })

/-- R310, R316, R334, R335, R400 to R403: operating points change through a stop of the clock, after which `s.cyc` has gained one and `s.ncyc`
three for each tick of the stop (none of it without core power, R403); throttling (to which point: log entry 77), shutdown, ageing, errors and their repair are logged; a critical
shutdown terminates every context; a forced sample waits for each group of 64 cores to be idle (log entry 52); an uncorrectable error leaves
its units in error (how it names them: log entry 54) and makes its instance lasting; a lost die takes the contexts with a team resident on it,
their queues enter DEAD, and the other die takes its place for every other launch (log entry 55). -/
def Obligations.ClocksAndErrors : Prop := ∀ (s : State) (d : Nat), d < 2 →
  let x := s.die d
  (s.svc.shutdown = true → (∀ i ∈ [Instr.operatingPointChange d, .clockStop d, .operatingPointStable d], exec i s = .next s) ∧
    exec (.relockDone d) s = .next s.settle) ∧
  (x.relock = .none → s.wantedPoint d ≠ x.hint → x.live = true → s.svc.shutdown = false →
    exec (.operatingPointChange d) s = .next (putDie s d { x with relock := .due (s.wantedPoint d) })) ∧
  (∀ h, x.relock = .due h → s.svc.shutdown = false → exec (.clockStop d) s = .next (putDie s d { x with relock := .stopped h s.now })) ∧
  (∀ h n, x.relock = .stopped h n → s.svc.shutdown = false → exec (.relockDone d) s = .next (putDie s d
    { x with relock := .settling h, hint := h, cyc := x.cyc + 1, ncyc := x.ncyc + 3 * (s.now - n) * 2 ^ 16, frac := 0 }).settle) ∧
  (∀ h, x.relock = .settling h → s.svc.shutdown = false → exec (.operatingPointStable d) s = .next (putDie s d { x with relock := .none })) ∧
  (∀ point watts tj th, ∃ u : State,
    let signed (v : Nat) : Int := (BitVec.ofNat 16 v).toInt
    let hot : Prop := s.svc.pwrCap < watts ∨ 105 * 16 < signed tj ∨ 95 * 16 < signed th
    let p := (u.die d).throttle
    exec (.throttle d point watts tj th) s = .next u ∧ (hot → p = max (point % 8) (min 7 (max x.hint x.throttle + 1))) ∧
    (¬ hot → p = min (point % 8) x.throttle) ∧
    u.svc.pwrNow = watts ∧ u.svc.tempJ = tj ∧ u.svc.tempHbm = th ∧ u.mem = s.mem ∧ (x.throttle ≠ p → Logged s u 10 0xFF d 0 0 tj)) ∧
  (∀ temp, let t := (BitVec.ofNat 16 temp).toInt
    (t < 115 * 16 ∨ s.svc.shutdown = true → exec (.criticalShutdown temp) s = .next s) ∧
    (115 * 16 ≤ t → s.svc.shutdown = false → s.issue = none → (s.ctxs.map (·.asid)).Nodup → (∀ c ∈ s.ctxs, c.terminating = false) → ∃ u : State,
      exec (.criticalShutdown temp) s = .next u ∧ u.svc.shutdown = true ∧ u.svc.tempJ = temp ∧ Logged s u 11 0xFF 0 0 0 temp ∧
      (∀ c ∈ u.ctxs, c.terminated = true) ∧ u.ctxs.map (·.asid) = s.ctxs.map (·.asid) ∧
      ∀ c ∈ s.ctxs, c.terminated = false → ∀ v ∈ u.teams, v.asid ≠ c.asid)) ∧
  (∀ ok, (x.live = false ∨ s.svc.shutdown = true → exec (.forcedAgeingSample d ok) s = .next s) ∧
    (x.live = true → s.svc.shutdown = false →
      (x.forcing = none → (s.now - x.lastSample < 168 * hourNs → exec (.forcedAgeingSample d ok) s = .next s) ∧
        (168 * hourNs ≤ s.now - x.lastSample → exec (.forcedAgeingSample d ok) s = .next (putDie s d { x with forcing := some 0 }))) ∧
      ∀ g, x.forcing = some g →
        let busy : Prop := ∃ t ∈ s.teams, t.res = .resident ∧ t.core / 64 = 16 * d + g
        (busy → exec (.forcedAgeingSample d ok) s = .next s) ∧
        (¬ busy → g < 15 → exec (.forcedAgeingSample d ok) s = .next (putDie s d { x with forcing := some (g + 1) })))) ∧
  (∀ (i : Instr) (forced : Bool) (ok : List Bool), i = (if forced then .forcedAgeingSample d ok else .ageingSample d ok) →
    let due : Prop := x.live = true ∧ s.svc.shutdown = false ∧
      if forced then x.forcing = some 15 ∧ ∀ t ∈ s.teams, t.res = .resident → t.core / 64 ≠ 16 * d + 15 else 10 ^ 9 ≤ x.idle
    let sampled : Die := { x with lastSample := s.now, idle := 0, forcing := if forced then none else x.forcing }
    (¬ due → forced = false → exec i s = .next s) ∧
    (due → (ok = [] ∨ ok.head? = some true) → exec i s = .next (putDie s d sampled)) ∧
    (due → ok = [false] → x.voffset < 10 → ∃ u : State, exec i s = .next u ∧ u.die d = { sampled with voffset := x.voffset + 1 } ∧
      Logged s u 7 0xFF d 0 0 (5 * (x.voffset + 1))) ∧
    (due → ok = [false] → 10 ≤ x.voffset → x.removed < 7 → ∃ u : State, exec i s = .next u ∧ u.die d = { sampled with removed := x.removed + 1 } ∧
      Logged s u 8 0xFF d 0 0 (x.removed + 1)) ∧
    (due → ok = [false] → 10 ≤ x.voffset → 7 ≤ x.removed → x.fenceMark = false → ∃ u : State, exec i s = .next u ∧
      u.die d = { sampled with fenceMark := true } ∧ Logged s u 5 0xFF d 0 0 0)) ∧
  (∀ (e : ErrInst) (r : ErrRec), s.svc.errs.find? (fun r => sameInstance r.inst e) = some r →
    let limit := tabGet (3, 24) e.cls s.svc.sethr
    let times := (r.times.filter fun n => decide (s.now ≤ n + limit.2 * hourNs)) ++ [s.now]
    times.length < limit.1 → ∃ u : State, exec (.correctedError e) s = .next u ∧ Logged s u 1 e.cls e.die e.unit e.detail times.length ∧
      { r with times := times } ∈ u.svc.errs ∧ u.mem = s.mem ∧ u.teams = s.teams) ∧
  (∀ (e : ErrInst) (r : ErrRec), s.svc.errs.find? (fun r => sameInstance r.inst e) = some r →
    let limit := tabGet (3, 24) e.cls s.svc.sethr
    let times := (r.times.filter fun n => decide (s.now ≤ n + limit.2 * hourNs)) ++ [s.now]
    limit.1 ≤ times.length → ∃ u : State, exec (.correctedError e) s = .next u ∧ LogsFirst s u 1 e.cls e.die e.unit e.detail times.length ∧
      (∃ r' ∈ u.svc.errs, sameInstance r'.inst e = true ∧ r'.lasting = true ∧ r'.times = times) ∧ u.mem = s.mem ∧ u.teams = s.teams) ∧
  (∀ (e : ErrInst) (units : List Nat), e.cls = 0 ∨ e.cls = 1 → ∃ u : State,
    let lies (n : Nat) : Prop := if e.cls = 0 then regionOf (8 * n) = .hbm e.die ∧ 8 * n % 2 ^ 38 / 4096 % 4 = e.unit
      else n < 2 ^ 60 ∧ s.sliceOf (8 * n / 128) = 256 * e.die + e.unit
    exec (.uncorrectableError e units) s = .next u ∧ u.mem = s.mem ∧ LogsFirst s u 2 e.cls e.die e.unit e.detail 0 ∧
    (∀ n, n ∈ u.poison ↔ n ∈ s.poison ∨ (n ∈ units ∧ lies n)) ∧ ∃ r ∈ u.svc.errs, sameInstance r.inst e = true ∧ r.lasting = true) ∧
  (∀ (e : ErrInst) (units : List Nat), 2 ≤ e.cls → ∃ u : State,
    let onSlot (size : Nat) (t : Team) : List Nat := (units.filter fun n => n / size == t.slot).map fun n => n % size
    exec (.uncorrectableError e units) s = .next u ∧ u.mem = s.mem ∧ u.poison = s.poison ∧ LogsFirst s u 2 e.cls e.die e.unit e.detail 0 ∧
    (∃ r ∈ u.svc.errs, sameInstance r.inst e = true ∧ r.lasting = true) ∧
    u.teams = (s.teams.map fun t => if t.core = e.unit ∧ t.res = .resident then
      (if e.cls = 2 then { t with scratchPoison := t.scratchPoison ++ onSlot 65536 t } else if e.cls = 3 then { t with regErrs := t.regErrs ++ onSlot (2 ^ 18) t } else t) else t) ∧
    u.l1 = (s.l1.map fun y => if e.cls = 4 ∧ y.core = e.unit then { y with bad := y.bad ++ (units.filter fun n => y.phys / 32 == n / 4).map fun n => n % 4 } else y)) ∧
  (∀ core b, s.svc.bankWaits.find? (fun b => b.unit == core) = some b →
    ((∃ t ∈ s.teams, t.core = core ∧ t.res = .resident) → exec (.scratchpadBankSpare core) s = .next s) ∧
    ((∀ t ∈ s.teams, t.core = core → t.res ≠ .resident) → ∃ u : State, exec (.scratchpadBankSpare core) s = .next u ∧
      u.svc.bankWaits = s.svc.bankWaits.erase b ∧ core ∈ u.svc.spareBanks ∧ Logged s u 4 2 b.die core b.detail 0 ∧
      ∃ r ∈ u.svc.errs, sameInstance r.inst b = true ∧ r.times = [] ∧ r.lasting = false ∧ r.repaired = true)) ∧
  (∀ row e, s.svc.rowCopies.find? (fun e => e.die == d && e.detail == row) = some e → ∃ u : State, exec (.rowSparing d row) s = .next u ∧
    u.svc.rowCopies = s.svc.rowCopies.erase e ∧ u.mem = s.mem ∧ u.poison = s.poison ∧ Logged s u 4 0 d e.unit row 0) ∧
  (x.live = false → exec (.dieLoss d) s = .next s) ∧
  (x.live = true → s.issue = none → (s.ctxs.map (·.asid)).Nodup →
    let lost (a : Nat) : Prop := ∃ t ∈ s.teams, t.die = d ∧ t.res = .resident ∧ t.asid = a
    ∃ u : State, exec (.dieLoss d) s = .next u ∧ (u.die d).live = false ∧ (∀ e ∈ u.tlb, e.die ≠ d) ∧
      u.grids.map (·.dies) = (s.grids.map fun g => g.dies.map fun y => if y = d then 1 - d else y) ∧
      (∀ t ∈ s.teams, ¬ lost t.asid → t ∈ u.teams) ∧ ((∀ a, ¬ lost a) → u.teams = s.teams ∧ u.mem = s.mem) ∧
      ∀ c ∈ s.ctxs, lost c.asid → c.terminated = false → c.terminating = false →
        (u.ctx? c.asid).map (·.terminated) = some true ∧ (∀ t ∈ u.teams, t.asid ≠ c.asid) ∧
        ∀ q, (s.queue q).state ≠ .off → (s.queue q).ctl.toNat / 2 ^ 32 % 2 ^ 16 = c.asid → (u.queue q).state = .dead ∧ (u.queue q).cause = 7)

/-- R4, R390, R391, R393 to R399, R404: owners claim, release, offer and lose the part, and registers of the owner are closed to others and
counted; an image is staged, verified and written; the resets leave what they leave; SPDM, IDE, the link and the board test port answer.
The model's readings: BAR 0 is written in aligned words (log entry 57), training carries the enable and the size of BAR 2 (log entry 64), the form
of an image (log entry 53), a part held in reset (log entry 56), the bytes of SPDM and the test port (log entry 16), the memory that a reset
leaves (log entries 1 and 66) and the values after it that the manual does not give (log entry 6). -/
def Obligations.ManagementAndLinks : Prop := ∀ (s : State) (m : Master) (v : DWord),
  let rejected : State := { s with svc := { s.svc with mgRej := min (s.svc.mgRej + 1) (2 ^ 32 - 1) } }
  let owner : Prop := s.svc.mgOwn = code m
  let svc (f : Service) : Host.Outcome State Fault Refusal := .next { s with svc := f }
  let owned (i : Instr) (n : Nat) : Prop := ∃ u : State, exec i s = .next u ∧ u.svc.mgOwn = n ∧ u.svc.mgHand = 0 ∧ u.svc.offerEnd = none ∧
    u.svc.lastBeat = s.now ∧ Logged s u 9 0xFF 0 0 0 n
  (s.svc.mgOwn = 0 → owned (.claim m) (code m)) ∧
  (∀ e, s.svc.mgOwn = 3 - code m → s.svc.offerEnd = some e → s.svc.mgHand = code m → s.now < e → owned (.claim m) (code m)) ∧
  (s.svc.mgOwn ≠ 0 → s.svc.offerEnd = none → exec (.claim m) s = .next s) ∧
  (owner → owned (.release m) 0) ∧ (¬ owner → exec (.release m) s = .next s) ∧
  (s.svc.recovery = true → exec (.mghand m v) s = .next s ∧ exec (.mgbeat m v) s = .next s) ∧
  (s.svc.recovery = false → ¬ owner → exec (.mghand m v) s = .next rejected ∧ exec (.mgbeat m v) s = .next rejected) ∧
  (s.svc.recovery = false → owner → v.toNat % 4 = 3 - code m → exec (.mghand m v) s = svc { s.svc with mgHand := 3 - code m, offerEnd := some (s.now + Config.offerLapse) }) ∧
  (s.svc.recovery = false → owner → exec (.mgbeat m v) s = svc { s.svc with lastBeat := s.now }) ∧
  (∀ e, s.svc.offerEnd = some e → (e ≤ s.now → exec .handoverLapse s = svc { s.svc with mgHand := 0, offerEnd := none }) ∧ (s.now < e → exec .handoverLapse s = .next s)) ∧
  (s.svc.mgOwn ≠ 0 → (Config.ownerLapse ≤ s.now - s.svc.lastBeat → owned .ownershipLapse 0) ∧
    (s.now - s.svc.lastBeat < Config.ownerLapse → exec .ownershipLapse s = .next s)) ∧
  (v.toNat % 256 = 1 → (¬ owner → exec (.stageImage m v) s = .next rejected) ∧
    (owner → s.svc.fwStat ≠ 1 → s.svc.fwStat ≠ 2 → (s.svc.recovery = true → s.svc.fwSrc = 0) → ∃ image : Tab Byte,
      exec (.stageImage m v) s = svc { s.svc with fwStat := 1, image := image } ∧ (s.svc.recovery = true → image = s.svc.window) ∧
      (s.svc.recovery = false → ∀ i b, (i, b) ∈ image ↔ i < 2 ^ 26 ∧ (2 ^ 51 + s.svc.fwSrc.toNat + i, b) ∈ s.mem))) ∧
  (v.toNat % 256 = 2 → (¬ owner → exec (.abortStaging m v) s = .next rejected) ∧
    (owner → exec (.abortStaging m v) s = if s.svc.fwStat = 1 then svc { s.svc with fwStat := 0, image := [] } else .next s)) ∧
  (let version := Config.imageVersion s.svc.image % 64
   (∀ rd wr first last, s.svc.fwStat = 1 → exec (.firmwareStaged rd wr first last) s =
     svc { s.svc with fwStat := if (rd = false ∧ s.svc.recovery = false) ∨ Config.signed s.svc.image = false then 4 else if version < s.svc.minVersion then 5 else 2 }) ∧
   (s.svc.fwStat = 2 → ∀ rd first last, (∃ mixed : Tab Byte, exec (.firmwareStaged rd false first last) s = svc { s.svc with fwStat := 6, flash := mixed } ∧
       ∀ i b, (i, b) ∈ mixed ↔ (i, b) ∈ (if first ≤ i ∧ i < last then s.svc.image else s.svc.flash)) ∧
     (s.svc.recovery = false → ∃ u : State, exec (.firmwareStaged rd true first last) s = .next u ∧ u.svc.fwStat = 3 ∧ u.svc.staged = some version ∧
       u.svc.flash = s.svc.image ∧ u.svc.firmware = s.svc.firmware ∧ Logged s u 12 0xFF 0 0 0 version))) ∧
  (let told (q : Nat) (bs : List Byte) : Host.Outcome State Fault Refusal := .next { s with out := s.out ++ [.spdm m q bs] }
   let given (k n : Nat) : List Byte := (List.range n).map fun i => Config.answer k i
   exec (.getVersion m) s = told 0 [0x12] ∧ exec (.getCapabilities m) s = told 1 (given 1 4) ∧ exec (.negotiateAlgorithms m) s = told 2 (given 2 4) ∧
   exec (.getDigests m) s = told 3 (given 3 48) ∧ exec (.getCertificate m) s = told 4 (given 4 4) ∧
   (∃ bs : List Byte, bs.length = 96 ∧ exec (.challenge m) s = .next { s with out := s.out ++ [.spdm m 5 bs], draws := s.draws + 1 }) ∧
   ∃ bs : List Byte, 98 ≤ bs.length ∧ exec (.getMeasurements m) s = told 6 bs) ∧
  (let port (ir : JtagIr) (bs : List Byte) : State := { s with jtag := { s.jtag with ir := ir }, out := s.out ++ [.jtag ir bs] }
   exec .bypass s = .next (port .bypass []) ∧ (∃ bs : List Byte, bs.length = 4 ∧ exec .idcode s = .next (port .idcode bs)) ∧
   (∃ bs : List Byte, exec .samplePreload s = .next { port .samplePreload bs with draws := s.draws + 1 }) ∧
   exec .extest s = .next (if s.jtag.held then port .extest [] else s)) ∧
  (∀ flit width rate atomics bar2,
    let trained : Instr := .pcieLinkTraining flit ⟨width, rate⟩ ⟨atomics, bar2⟩
    (flit = false ∨ width = 0 ∨ rate < 2 → exec trained s = .next { s with link := { s.link with
      up := false, width := 0, rate := 0 } }) ∧
    ∀ w r, flit = true → w ∈ [16, 8, 4, 2, 1] → w ≤ width → (∀ n ∈ [16, 8, 4, 2, 1], n ≤ width → n ≤ w) →
      r ∈ [64, 32, 16, 8, 5, 2] → r ≤ rate → (∀ n ∈ [64, 32, 16, 8, 5, 2], n ≤ rate → n ≤ r) →
      exec trained s = .next { s with
        link := { s.link with up := true, width := w, rate := r, atomicReq := atomics, bar2Log2 := max 28 (min bar2 39) }
        out := s.out ++ [.enumerated Config.vendorId 0x2408 0x120000] }) ∧
  (∀ go, exec (.ideKm true v go) s = .next { s with link := { s.link with ideSel := if go then some v else none } } ∧
    exec (.ideKm false v go) s = .next { s with link := { s.link with ideLink := if go then some v else none } }) ∧
  (∃ u : State, exec (.fundamentalReset false false) s = .next u ∧ u.teams = [] ∧ u.ctxs = [] ∧ u.queues = [] ∧ u.issue = none ∧ u.tlb = [] ∧ u.dbg = Debug.reset ∧
    u.svc.mgOwn = 0 ∧ u.svc.slwp = 0 ∧ u.svc.recovery = !(s.svc.flashOk && Config.signed s.svc.flash && decide (s.svc.minVersion ≤ Config.imageVersion s.svc.flash % 64)) ∧
    u.mem = s.mem.filter (fun c => match regionOf c.1 with | .hbm _ => false | _ => true) ∧ (u.svc.recovery = false → u.svc.firmware = s.svc.flash)) ∧
  (∀ powerOn, ∃ u : State, exec (.fundamentalReset powerOn true) s = .next u ∧ u.teams = [] ∧ u.queues = [] ∧ u.jtag.held = true ∧
    (∀ d, d < 2 → (u.die d).live = false) ∧ u.svc.remaps = s.svc.remaps ∧ u.svc.fence = s.svc.fence ∧ u.svc.flash = s.svc.flash) ∧
  (s.ctxs = [] → s.colls = [] → s.accs = [] → ∃ u : State, exec .functionLevelReset s = .next u ∧ u.mem = s.mem ∧ u.svc = s.svc ∧ u.teams = [] ∧ u.queues = [] ∧ u.issue = none ∧
    u.dbg = Debug.reset ∧ u.cxtBase = 0) ∧
  (∃ u : State, exec .powerLoss s = .next u ∧ u.teams = [] ∧ u.queues = [] ∧ u.jtag.held = true ∧ u.svc.remaps = s.svc.remaps ∧
    u.svc.flash = s.svc.flash ∧ u.svc.staged = s.svc.staged ∧ (s.svc.fwStat = 2 → u.svc.flashOk = false)) ∧
  (let put (off : Nat) : Host.Outcome State Fault Refusal := exec (.registerWrite m off v) s
   (∀ off, off % 8 ≠ 0 → put off = .next s) ∧
   (m = .host → s.link.up = false → ∀ off, put off = .next s) ∧
   (s.svc.recovery = false → (m = .host → s.link.up = true) →
    (¬ owner → put 0x10028 = .next rejected) ∧
    (owner → 600 ≤ v.toNat % 2 ^ 12 → v.toNat % 2 ^ 12 ≤ 2400 → put 0x10028 = svc { s.svc with pwrCap := v.toNat % 2 ^ 12 }) ∧
    (owner → put 0x10030 = svc { s.svc with svcVec := v &&& 0xFFF }) ∧ (owner → put 0x10038 = svc { s.svc with fence := v.toNat % 4 }) ∧
    (owner → put 0x10040 = svc { s.svc with apBase := v.toNat / 2 ^ 28 % 2 ^ 24 * 2 ^ 28 }) ∧
    (put 0x10008 = exec (if v.getLsbD 0 then .claim m else .release m) s) ∧
    (m = .bmc ∨ s.svc.shutdown = true → ∀ off, 0x20000 ≤ off → put off = .next s) ∧
    (m = .host → s.svc.shutdown = false → put 0x20000 = .next { s with cxtBase := v.toNat / 2 ^ 22 % 2 ^ 30 * 2 ^ 22 } ∧
      put 0x52000 = .next { s with dbg := { s.dbg with wdper := v.setWidth 32 } } ∧
      (∀ d q, d < 128 → q = 0x100000 + 0x1000 * d →
        put (q + 0x008) = exec (if v.getLsbD 11 then .queueEnable d v else .queueDisable d v) s ∧ put (q + 0x010) = exec (.qwp d (v.setWidth 32)) s ∧
        put (q + 0x030) = exec (.qresume d v) s))))

/-! ### Words, steps, reset and what every step keeps -/

namespace Sys2Proof.Spec

open Machine

/-- Words that the manual prints, each with the instruction it prints beside it. -/
def printedWords : List (DWord × Instr) :=
  let g : Guard := ⟨false, 7#3⟩
  let w (n : Nat) : DWord := BitVec.ofNat 64 n
  [(w 0x0070804C30001800, .iadd g true .satSgn 8#8 4#8 0xC3#8), (w 0x1E70302600000002, .shlImm g 3#8 2#8 2#32),
   (w 0x0870000030001000, .iadd64 g false .zx 0#8 0#8 3#8), (w 0x1A70201040008000, .plop g 8#4 2#8 ⟨false, 1#3⟩ ⟨false, 4#3⟩),
   (w 0x197020AFF0000000, .iset g false .eq 2#8 10#8 0xFF#8),
   (w 0x2370804050601000, .ffma g false .rtz 8#8 4#8 5#8 6#8), (w 0x3870A04060008040, .qcvt g false true false 8#8 10#8 4#8 6#8 0#8),
   (w 0x4070004084D00004, .ld g false ⟨.b32, .device, .acq, .normal, 4#11⟩ 8#8 4#8),
   (w 0x4670604086F09000, .atom g .cas ⟨.b64, .device, .ar, .normal, 0#11⟩ 6#8 8#8 4#8),
   (w 0x6070A0405FF01300, .shfl g false .rot 3#3 10#8 4#8 5#8 0xFF#8), (w 0x6B7000000000F780, .waitc g 0#4 15#4 15#4 0#4),
   (w 0x6570000000006000, .bar g .sync .team 0#4), (w 0x6870109000000000, .regroup g false 9#8 1#8),
   (w 0x70700020C0E00020, .cpy g .b8 1#6 2#8 12#8 14#8), (w 0x81700060A0C00000, .missue g false 6#8 10#8 12#8),
   (w 0x89700041000B4060, .mdrain g ⟨true, .e4m3, false, true, false, false, 3#6, none, 0#8, 4#8, 16#8, 0#8⟩),
   (w 0xA0700000FFFFFFFC, .bra g (-4)), (w 0xA371F1C000000000, .callx g ⟨31#8, false⟩ 28#8 0#11), (w 0xB070400000012000, .sread g false .ref 4#8),
   (w 0xB17000200001B000, .swrite g .trapvec 2#8), (w 0xB47000000000002A, .trap g 0x2A#11)]

/-- A thread that has taken part in the instruction at `idx` (R54, R64): its window snapshot has a slot for it, transient results that
have outlived their seven readers have become undefined (also as the old value of a register whose load no wait has covered), and fragment
registers and those of such loads may read differently; nothing else of it changed. -/
structure Noted (idx : Nat) (on : Bool) (x y : Thread) : Prop where
  rest : y = { x with window := y.window, regs := y.regs, flips := y.flips, frags := y.frags,
                      trans := x.trans.filter fun p => decide (idx < p.2), skipBpt := false }
  flips : y.flips.map (fun f => (f.code, f.new, f.written)) = x.flips.map (fun f => (f.code, f.new, f.written)) ∧
    ∀ f ∈ x.flips, (∀ p ∈ x.trans, p.1 = f.code → idx < p.2) → f ∈ y.flips
  frags : y.frags.map (fun f => (f.code, f.settled)) = x.frags.map (fun f => (f.code, f.settled)) ∧
    ∀ f ∈ x.frags, (∀ p ∈ x.trans, p.1 = f.code → idx < p.2) → f ∈ y.frags
  slot : ∃ w : WinSlot, y.window = w :: x.window.filter (fun v => v.idx != idx) ∧ w.idx = idx ∧ w.guard = on
  regs : ∀ c r, isV r = true → (∀ p ∈ x.trans, p.1 = r.toNat → idx < p.2) → (∀ f ∈ x.frags, f.code ≠ r.toNat) → (∀ f ∈ x.flips, f.code ≠ r.toNat) →
    readReg y c r = readReg x c r

/-- The registers of Table 24.2 as fundamental reset leaves them, read by a master (R395). -/
structure ServiceDefaults (s : State) (m : Master) : Prop where
  mgOwn : s.readRegister m 0x10000 = 0
  mgHand : s.readRegister m 0x10010 = 0 ∧ s.svc.offerEnd = none
  mgRej : s.readRegister m 0x10020 = 0
  pwrCap : s.readRegister m 0x10028 = 2400
  svcVec : s.readRegister m 0x10030 = 0
  fence : s.readRegister m 0x10038 = 0
  apBase : s.readRegister m 0x10040 = 0
  hostErr : s.readRegister m 0x10048 = 0
  slwp : s.readRegister m 0x10050 = 0
  fwSrc : s.readRegister m 0x10060 = 0
  fwStat : s.svc.recovery = false → s.readRegister m 0x10068 = 0
  sethr : ∀ k, k < 6 → s.readRegister m (0x10100 + 8 * k) = 3 + 2 ^ 16 * 24

end Sys2Proof.Spec

/-- R81, R82 and the tables of chapters 5 to 10: each word that the manual prints decodes to the instruction printed beside it. -/
def Obligations.PrintedWordsDecode : Prop := ∀ w i, (w, i) ∈ printedWords → decodeWord w = .ok i

/-- Tables 5.3 to 5.12: decoding the word of a well-formed instruction gives it back, every operand at every value the encoding
admits; and a word that decodes is the word of the instruction it decodes to, which is well-formed, so no bit is dropped. -/
def Obligations.DecodeAndEncodeAgree : Prop :=
  (∀ i : Instr, i.encoded = true → i.wellFormed = true → ∃ w, encode i = some w ∧ decodeWord w = .ok i) ∧
  (∀ (w : DWord) (i : Instr), decodeWord w = .ok i → encode i = some w ∧ i.encoded = true ∧ i.wellFormed = true)

/-- R54, R72, R76, R77, R80: a step runs the instruction that decodes from the word at the index of the issue slot, and the threads
that are still in the group go on to the next index, or fall through after the last; a word that is no instruction or stands in the
wrong place faults every thread of the group whatever its guard. The model's choices here: a load of the group may return first (log entry
11), a word both malformed and misplaced is malformed (log entry 78), an instruction that reads memory as it issues lets the memory
system, the engines and the debugger go on while that read waits, and the part's other steps and inputs run while no clause is in the slot
(log entry 5), and `after` is the time that a step takes (log entry 4). -/
def Obligations.StepRunsDecoded : Prop := ∀ (s : State),
  (∀ (sl : IssueSlot) (t : Team), Issuing s sl t →
    let w := sl.words.getD sl.idx 0
    (∀ id u, s.midReturn sl = some id → exec (.loadReturn id) s = .next u → step s = .next (s.after u)) ∧
    (s.midReturn sl = none → s.breakers sl ≠ [] → step s = .next (s.after (s.stopAt sl (s.breakers sl)))) ∧
    (s.midReturn sl = none → s.breakers sl = [] →
      (decodeWord w = .error .illegalOpcode → step s = .next (s.after (s.groupFault sl 0x01 w))) ∧
      (decodeWord w = .error .reservedField → step s = .next (s.after (s.groupFault sl 0x02 w))) ∧
      ∀ i, decodeWord w = .ok i →
        (misplaced sl.hdr sl.idx i = true → step s = .next (s.after (s.groupFault sl 0x17 w))) ∧
        (∀ u, misplaced sl.hdr sl.idx i = false → s.stalled sl i = true → s.stalledStep sl i = .next u → step s = .next (s.after u)) ∧
        (∀ u, misplaced sl.hdr sl.idx i = false → s.stalled sl i = false → exec i s = .next u →
          step s = .next (s.after (State.advance s sl (unpackWord w).guard i (State.headDone s sl i u)))))) ∧
  (∀ (sl now : IssueSlot) (g : Guard) (i : Instr) (u : State) (t : Team), s.team? sl.team = some t → u.team? sl.team = some t → Distinct t →
    Untraced u → u.issue = some now → now.group.Nodup → (∀ n ∈ now.group, (t.thread? n).isSome = true) →
    (now.group ≠ [] → sl.idx + 1 < State.hdrN sl.hdr →
      ∃ v : State, State.advance s sl g i u = v ∧ v = { u with teams := v.teams, issue := some { now with idx := sl.idx + 1 } } ∧
        (∀ id, id ≠ sl.team → v.team? id = u.team? id) ∧
        ∃ t' : Team, v.team? sl.team = some t' ∧ t' = { t with threads := t'.threads } ∧ (∀ n, n ∉ now.group → t'.thread? n = t.thread? n) ∧
          ∀ n x, n ∈ now.group → t.thread? n = some x → ∃ y, t'.thread? n = some y ∧ Noted sl.idx (guardOf x.preds g) x y) ∧
    (now.origins = [] → now.stepOf = none → (∀ c ∈ u.ctxs, c.terminating = false) → (∀ y ∈ u.teams, ∀ x ∈ y.threads, x.yielded = false) →
      (now.group = [] → State.advance s sl g i u = { u with issue := none }) ∧
      (∀ n x hdr ws, now.group = [n] → State.hdrN sl.hdr ≤ sl.idx + 1 → now.team = sl.team → t.thread? n = some x → x.icsync = [] →
        let next := (x.clause + (State.hdrN x.hdr + 2) / 2 * 16) % 2 ^ 64
        u.landing t.core t.asid next = .ok hdr → u.entryFetch t.core t.asid next hdr = .ok ws →
        ∃ v : State, State.advance s sl g i u = v ∧ v = { u with teams := v.teams, icache := v.icache, tlb := v.tlb, out := v.out, issue := none } ∧
          (∀ id, id ≠ sl.team → v.team? id = u.team? id) ∧
          ∃ t' : Team, v.team? sl.team = some t' ∧ t' = { t with threads := t'.threads } ∧ (∀ k, k ≠ n → t'.thread? k = t.thread? k) ∧
            ∃ y, t'.thread? n = some y ∧
              y = { x with regs := y.regs, flips := y.flips, frags := y.frags, clause := next, idx := 0, hdr := hdr, words := ws, run := .active,
                           window := [], trans := [], stamp := none, skipBpt := false, arrive := none } ∧
              ∀ c r, isV r = true → (∀ p ∈ x.trans, p.1 ≠ r.toNat) → (∀ f ∈ x.frags, f.code ≠ r.toNat) → (∀ f ∈ x.flips, f.code ≠ r.toNat) →
                readReg y c r = readReg x c r))) ∧
  (s.issue = none → s.pending = [] →
    (s.inputs = [] → step s = .next (s.after s)) ∧
    (∀ i is u, s.inputs = i :: is → exec i { s with inputs := is } = .next u → step s = .next (s.after u)))

/-- R395: what the registers of Table 24.2 hold at fundamental reset, in the state after power-on and after a later one whose pending
fences have been applied; service events raise no vector then; a function-level reset changes none of these registers. -/
def Obligations.ServiceRegistersAtReset : Prop :=
  (∀ m, ServiceDefaults State.reset m) ∧
  (∀ (s : State) (m : Master) (powerOn : Bool), ∃ u : State, exec (.fundamentalReset powerOn false) s = .next u ∧ ServiceDefaults u m ∧
    (∀ d, d < 2 → s.svc.fence.testBit d = true → (u.die d).live = false) ∧
    ∀ kind cls die inst detail value, (u.logEvent kind cls die inst detail value).out = u.out) ∧
  (∀ (s : State) (m : Master), ∃ u : State, exec .functionLevelReset s = .next u ∧
    ∀ off, off < 0x11000 → 0x10000 ≤ off → u.readRegister m off = s.readRegister m off)

/-- R366, R296, R330, R3: after reset the watchdog period reads 10,000, no queue is enabled, no context, team or access exists, no unit
of memory holds an error, memory is in canonical form and no number is used twice. The values that the manual does not give are the
model's (log entries 1, 5, 6 and 7). -/
def Obligations.ResetState : Prop :=
  let s := State.reset
  s.readRegister .host 0x52000 = 10000 ∧ (∀ q, (s.queue q).state = .off ∧ s.readRegister .host (0x100020 + 0x1000 * (q % 128)) = 0) ∧
  s.ctxs = [] ∧ s.teams = [] ∧ s.grids = [] ∧ s.accs = [] ∧ s.issue = none ∧ s.poison = [] ∧ MemoryOk s ∧ FreshNumbers s

/-- Memory stays in its one canonical form, so equal memories are equal data: every step keeps it (log entry 1 is the model's choice
of what an unlisted byte reads as). -/
def Obligations.MemoryCanonicalKept : Prop := ∀ s s' : State, MemoryOk s → step s = .next s' → MemoryOk s'

/-- No two teams, no two launches and no two threads of a team have one number, and numbers not yet given out are unused: every step
keeps it, so that a thread, team or launch named by its number is the one meant (R48). -/
def Obligations.NumbersDistinctKept : Prop := ∀ s s' : State, FreshNumbers s → step s = .next s' → FreshNumbers s'

/-! ### The end of tile operations (chapters 3 and 9) -/

namespace Sys2Proof.Spec

open Machine

/-- R37: consecutive groups of n, the last one with the remainder. -/
def groupsBy (n : Nat) (xs : List FVal) : List (List FVal) := (List.range ((xs.length + (n - 1)) / n)).map fun i => (xs.drop (n * i)).take n
def ones (r : Nat) : Nat := ((List.range (r.log2 + 1)).filter fun i => r.testBit i).length
/-- R38: what a group keeps of one addend in units of 2^q, the bits it loses, and whether it is swamped. -/
def keptOf (q : Int) (half : Bool) : FVal → Int × Nat × Nat
  | .fin neg num den =>
    if num = 0 then (0, 0, 0)
    else
      let u := inUnits num den q
      let n := u.1 / u.2
      let r := u.1 % u.2
      let n := if half = true ∧ (u.2 < 2 * r ∨ (2 * r = u.2 ∧ n % 2 = 1)) then n + 1 else n
      (if neg then -(n : Int) else n, ones r, if n = 0 then 1 else 0)
  | _ => (0, 0, 0)
/-- R38: cut_sum of one group of width w, with its lost bits and swamped addends. -/
def cutGroup (w : Nat) (half : Bool) (g : List FVal) : FVal × Nat × Nat :=
  match g.filterMap fun v => match v with | .fin _ n d => if n = 0 then none else some (floorLog2 n d) | _ => none with
  | [] => (.fin false 0 1, 0, 0)
  | l :: ls =>
    let q : Int := ls.foldl max l - w + 1
    let ks := g.map (keptOf q half)
    let sum : Int := (ks.map (·.1)).sum
    (if sum = 0 then .fin false 0 1 else scaled (decide (sum < 0)) sum.natAbs q, (ks.map (·.2.1)).sum, (ks.map (·.2.2)).sum)
def cutLevel (n w : Nat) (half : Bool) (xs : List FVal) : List FVal × Nat × Nat :=
  let rs := (groupsBy n xs).map (cutGroup w half)
  (rs.map (·.1), (rs.map (·.2.1)).sum, (rs.map (·.2.2)).sum)

/-- R36 to R40, Tables 3.3 and 3.4: one element of a floating operation from its start value and its products in K order: its new value, and what
it adds to the four words of the record (Table 3.2). -/
def elementFloat (chunk : Nat) (ka kb : Word) (i j : Nat) (c : Word) (ps : List FVal) : Word × (Nat → Nat) :=
  let d := if chunk = 0 then 0x028830D5 else chunk
  let field (lo n : Nat) : Nat := d / 2 ^ lo % 2 ^ n
  let l0 := cutLevel (2 ^ field 0 3) (field 9 5) (field 26 1 == 1) (ps.map fun p => match p with | .fin .. => p | _ => .fin false 0 1)
  let l1 := cutLevel (2 ^ field 3 3) (field 14 6) (field 27 1 == 1) l0.1
  let l2 := cutLevel (2 ^ field 6 3) (field 20 6) (field 28 1 == 1) l1.1
  let r : Rnd := match field 29 2 with | 0 => .rne | 1 => .rtz | _ => .sr
  let c := l2.1.zipIdx.foldl (fun c p => match p.1 with
    | .fin _ 0 _ => c
    | v => BitVec.ofNat 32 (convert fp32 r false (un (srgen ka kb (BitVec.ofNat 32 i) (BitVec.ofNat 32 (j + 64 * p.2)))) (FVal.add false (dec32 c) v))) c
  let has (v : FVal) : Prop := v ∈ ps
  (if has .nan ∨ isNaN c = true ∨ (has (.inf false) ∧ has (.inf true)) ∨ (has (.inf false) ∧ c = nInf) ∨ (has (.inf true) ∧ c = pInf) then qNaN
   else if has (.inf false) then pInf else if has (.inf true) then nInf else c,
   fun n => match n with | 0 => l0.2.1 | 1 => l1.2.1 | 2 => l2.2.1 | _ => l0.2.2 + l1.2.2 + l2.2.2)

/-- R36, R40, R41: element (i, j) of a product with these operands (A, B and their scales), from its start value. -/
def productElement (b : Block) (os : List State.Operand) (c : Word) (i j : Nat) : Word × (Nat → Nat) :=
  let raw (n : Nat) : Nat → Nat → Nat := (os.getD n State.Operand.bad).raw
  if isIntCode b.fa then
    (wrap32 (sg c + ((List.range b.k).map fun k => operandInt b.fa (raw 0 i k) * operandInt b.fb (raw 1 j k)).sum), fun _ => 0)
  else elementFloat b.chunk b.ka b.kb i j c ((List.range b.k).map fun k =>
    exactProduct (if b.fa = 0x0A then some (raw 2 i (k / 32), raw 3 j (k / 32)) else none) (operandVal b.fa (raw 0 i k)) (operandVal b.fb (raw 1 j k)))

/-- R40 to R45: a tile after a product: its M × N elements, every other element as it was, and its record, to which a floating product adds what its
elements count, each word saturating, and an integer product nothing. -/
structure ProductLeft (b : Block) (os : List State.Operand) (z z' : Tile) : Prop where
  elems : ∀ i j, i < b.m → j < b.n → z'.get i j = (productElement b os (if b.op = 2 then 0 else z.get i j) i j).1
  outside : ∀ i j, i < 64 → j < 64 → (b.m ≤ i ∨ b.n ≤ j) → z'.get i j = z.get i j
  record : ∀ n, n < 4 → un (z'.record.getD n 0) = if isIntCode b.fa then un (z.record.getD n 0) else
    min (un (z.record.getD n 0) + ((boxElems b.m b.n).map fun p =>
      (productElement b os (if b.op = 2 then 0 else z.get p.1 p.2) p.1 p.2).2 n).sum) (2 ^ 32 - 1)

/-- What a drain writes of element (r, c), whose tile value is v, over the bytes `old` (R206). -/
def drained (x : DrainArgs) (v : Word) (old : List Byte) (r c : Nat) : List Byte :=
  let n := codeBytes x.code
  if x.code = 3 then toBytes 4 (if x.form.add then (ofBytes old + un v) % 2 ^ 32 else un v)
  else
    let was : FVal := match x.code with
      | 4 => ofInteger (if ofBytes old < 128 then (ofBytes old : Int) else (ofBytes old : Int) - 256)
      | 5 => ofInteger (ofBytes old)
      | k => match fmtOf k with | some f => decodeF f (ofBytes old) | none => .nan
    let value := if x.form.add then FVal.add false was (dec32 v) else dec32 v
    let p := un x.vpitch
    let out := un (srgen x.ka x.kb (BitVec.ofNat 32 (64 * (p / 2 ^ 20 % 64) + r)) (BitVec.ofNat 32 (64 * (p / 2 ^ 26 % 64) + c)))
    let rnd : Rnd := if x.form.sr then .sr else .rne
    toBytes n (match x.code with
      | 4 => (convertInt (-128) 127 rnd out value % 256).toNat
      | 5 => (convertInt 0 255 rnd out value).toNat
      | k => match fmtOf k with | some f => convert f rnd x.form.sat out value | none => 0)

/-- A drain that may be performed now: not held, its turn, the parts of an `.add` that overlap it done, its translations at hand, no row being copied,
and no uncovered operation on its tile but its own team's later ones (R43). -/
structure Drainable (s : State) (e : EngOp) (t : Team) (z : Tile) (x : DrainArgs) : Prop where
  start : Startable s e t
  kind : e.kind = .drain x
  alone : e.parts = [] ∧ e.signal = none
  tile : t.tiles[e.tile]? = some z
  clean : z.spoiled = [] ∧ x.opened = false ∧ ∀ o ∈ z.opens, o.team = e.team
  ready : s.drainOk t x = true
  turn : s.drainTurn e x = true
  walks : ∀ va ∈ State.drainVirt e x, s.canWalk t.die t.asid va = true
  rows : s.svc.rowCopies = []

end Sys2Proof.Spec

open Sys2Proof Sys2Proof.Machine Sys2Proof.Spec

/-- R36 to R45, R201: a product of one team that nothing holds, its block accepted, ends. With its operands in reach and free of errors it leaves
its tile and record as the summation contract says, no other tile and no memory changed, and status 0; with an operand out of reach it has
status 2 and changes no tile; with an uncorrectable error in one status 3: the context is marked failed, no other tile and no element outside M × N
changes (of the record of an integer operation that ends so: log entry 73). -/
def Sys2Proof.Spec.ProductsEnd : Prop := ∀ (s : State) (e : EngOp) (t : Team) (z : Tile) (x : MmaArgs), Untraced s → Startable s e t →
  t.tiles[e.tile]? = some z → z.spoiled = [] → e.signal = none → e.parts = [] → e.kind = .mma x → x.gang = false →
  let b := blockOf x.block
  let os := s.partOperands t t e x
  blockOk b false t.tiles.length (((s.grid? t.grid).map fun g => g.launch.w * g.launch.h).getD 1) t.rank = true → b.tile = e.tile →
  let ends (status : Nat) (tile : Tile → Prop) : Prop := ∃ (u : State) (t' : Team) (z' : Tile), exec (.tileOpComplete e.id) s = .next (u.wakeTwait e.team).settle ∧
    u.engs = s.engs.filter (fun y => y.id != e.id) ∧ u.team? e.team = some t' ∧ t'.tiles[e.tile]? = some z' ∧ tile z' ∧
    (∀ n, n ≠ e.tile → t'.tiles[n]? = t.tiles[n]?) ∧ t' = { tileEnded t e.tile status 0 0 with tiles := t'.tiles, threads := t'.threads } ∧ FragsSettled t t' ∧
    (status ≠ 3 → u.mem = s.mem) ∧ (status = 3 → ∀ q, s.ctx? e.asid = some q → ∃ q', u.ctx? e.asid = some q' ∧ q'.failed = true)
  ((∀ o ∈ os, o.ok = true) → (∀ o ∈ os, o.poisoned = false) → ends 0 (ProductLeft b os z)) ∧
  ((∃ o ∈ os, o.ok = false) → ends 2 fun z' => z' = { z with hidden := z'.hidden }) ∧
  ((∀ o ∈ os, o.ok = true) → (∃ o ∈ os, o.poisoned = true) → ends 3 fun z' =>
    ∀ i j, i < 64 → j < 64 → (b.m ≤ i ∨ b.n ≤ j) → z'.get i j = z.get i j)

/-- R202, R203, R287: the part of a gang on one rank ends once, with its status; the operation of the gang itself stays in its engine. A part
whose operands are in reach and free of errors has status 0 and leaves its member's tile and record as the summation contract says; one with an
operand out of reach has status 2, and the member's sticky status takes it. A gang whose one B is refused for all starts no part. -/
def Sys2Proof.Spec.GangPartsEnd : Prop := ∀ (s : State) (e : EngOp) (t m : Team) (x : MmaArgs) (p : GangPart), Startable s e t → Untraced s → e.kind = .mma x →
  e.parts.find? (fun q => q.rank == p.rank) = some p → s.team? p.team = some m →
  let b := blockOf x.block
  let os := s.partOperands t m e x
  (p.status ≠ none → exec (.gangPartEnd e.id p.rank) s = .next s) ∧
  (s.gangRefused t e x = true → exec (.gangPartEnd e.id p.rank) s = .next s) ∧
  (p.status = none → s.gangRefused t e x = false → ∃ (s' : State) (st : Nat) (e' : EngOp) (m' : Team), exec (.gangPartEnd e.id p.rank) s = .next s' ∧ s'.eng? e.id = some e' ∧
    e'.parts = (e.parts.map fun q => if q.rank = p.rank then { q with status := some st } else q) ∧ st ≤ 3 ∧ e'.kind = e.kind ∧
    s'.team? p.team = some m' ∧ m'.tl = m.tl ∧ m'.threads = m.threads ∧
    (∀ z, m.tiles[b.tile]? = some z → (∀ o ∈ os, o.ok = true) → (∀ o ∈ os, o.poisoned = false) →
      st = 0 ∧ s'.mem = s.mem ∧ m'.tstat = m.tstat ∧ (∃ z', m'.tiles[b.tile]? = some z' ∧ ProductLeft b os z z') ∧ ∀ n, n ≠ b.tile → m'.tiles[n]? = m.tiles[n]?) ∧
    ((∃ o ∈ os, o.ok = false) → st = 2 ∧ s'.mem = s.mem ∧ (p.team ≠ e.team → m'.tstat.status = max m.tstat.status 2)) ∧
    ((∀ o ∈ os, o.ok = true) → (∃ o ∈ os, o.poisoned = true) → st = 3 ∧ (p.team ≠ e.team → m'.tstat.status = max m.tstat.status 3)))

/-- R202, R203, R287: the operation of a gang ends when every part has: its status is that of the issuer's own part, or 1 when only others failed, or 0;
the failed ranks are named, and the barrier it names gets its signal whatever the status. A gang whose one B is refused for all ends with
status 2, no part begun. -/
def Sys2Proof.Spec.GangsEnd : Prop := ∀ (s : State) (e : EngOp) (t : Team) (x : MmaArgs), Startable s e t → Untraced s → e.kind = .mma x → x.gang = true →
  blockOk (blockOf x.block) true t.tiles.length (((s.grid? t.grid).map fun g => g.launch.w * g.launch.h).getD 1) t.rank = true →
  let failed := ((e.parts.filter fun p => p.status != some 0).map fun p => 2 ^ p.rank).sum
  let own := ((e.parts.find? fun p => p.team == e.team).bind (·.status)).getD 0
  let ends (status failed : Nat) : Prop := ∃ (u : State) (t' : Team), exec (.tileOpComplete e.id) s = .next (u.wakeTwait e.team).settle ∧
    u.engs = s.engs.filter (fun y => y.id != e.id) ∧ u.mem = s.mem ∧ u.team? e.team = some t' ∧
    t' = { tileEnded t e.tile status failed 0 with tiles := t'.tiles, threads := t'.threads } ∧ FragsSettled t t' ∧
    (∀ id, id ≠ e.team → (∀ p ∈ e.parts, p.team ≠ id) → u.team? id = s.team? id) ∧
    ∀ i, e.signal = some i → (s.cluster? e.cluster).isSome = true → let z := s.bar ⟨.cluster, e.cluster, 0, i⟩
      u.bar ⟨.cluster, e.cluster, 0, i⟩ = { z with signals := z.signals + 1 }
  (s.gangRefused t e x = true → ends 2 0) ∧
  (s.gangRefused t e x = false → (∃ p ∈ e.parts, p.status = none) → exec (.tileOpComplete e.id) s = .next s) ∧
  (s.gangRefused t e x = false → (∀ p ∈ e.parts, p.status ≠ none) → ends (if own ≠ 0 then own else if failed ≠ 0 then 1 else 0) failed)

/-- R206 to R209: a drain that nothing holds ends. One that R207 does not let start has status 2 and writes nothing. Otherwise every element that it has not
written yet is converted and written at its address, under `.add` as a sum with what stands there, and no other byte of memory, or of the target
share, changes; one whose elements are written makes the amax word the maximum of what stood there and of the drained patterns without their signs
(said of destinations that do not overlap themselves, where nothing is traced). -/
def Sys2Proof.Spec.DrainsWrite : Prop := ∀ (s : State) (e : EngOp) (t : Team) (z : Tile) (x : DrainArgs), Untraced s →
  let n := codeBytes x.code
  let cells := State.drainLeft e x
  let value (p : Nat × Nat × Nat) : Word := z.get p.2.1 p.2.2
  let ended (u : State) : Prop := (∃ w, exec (.tileOpComplete e.id) s = .next { (u.wakeTwait e.team).settle with walked := w }) ∧
    u.engs = s.engs.filter fun y => y.id != e.id
  (Startable s e t → e.kind = .drain x → e.parts = [] → e.signal = none → t.tiles[e.tile]? = some z → z.spoiled = [] → s.drainOk t x = false →
    ∃ u : State, ended u ∧ u.mem = s.mem ∧ u.team? e.team = some (tileEnded t e.tile 2 0 s.nextId)) ∧
  (Drainable s e t z x → x.written = false → x.form.amax = none →
    (∀ pas, x.form.glob = true → (cells.mapM fun p => s.drainPhys t x p.2.1 p.2.2) = .ok pas →
      (∀ (i j pa pb : Nat), pas[i]? = some pa → pas[j]? = some pb → i ≠ j → pa + n ≤ pb ∨ pb + n ≤ pa) →
      ∃ u : State, ended u ∧ u.team? e.team = some (tileEnded t e.tile 0 0 s.nextId) ∧
        (∀ (i pa : Nat) (p : Nat × Nat × Nat), pas[i]? = some pa → cells[i]? = some p → u.bytesAt pa n = drained x (value p) (s.bytesAt pa n) p.2.1 p.2.2) ∧
        ∀ b, (∀ pa ∈ pas, b < pa ∨ pa + n ≤ b) → memByte u.mem b = memByte s.mem b) ∧
    (∀ (v : Team) (o : Nat), x.form.glob = false → s.windowTarget t x.dest = some (v, o) → s.team? v.id = some v → v.scratchPoison = [] →
      drainN x.vpitch * n ≤ drainPitch x.vpitch →
      ∃ (u : State) (t' v' : Team), ended u ∧ u.mem = s.mem ∧ u.team? e.team = some t' ∧ u.team? v.id = some v' ∧
        t' = { tileEnded t e.tile 0 0 s.nextId with scratch := t'.scratch, scratchPoison := t'.scratchPoison } ∧
        (∀ p ∈ cells, v'.scratchBytes? (o + (drainAddr x p.2.1 p.2.2 - x.dest)) n =
          drained x (value p) (v.scratchBytes? (o + (drainAddr x p.2.1 p.2.2 - x.dest)) n) p.2.1 p.2.2) ∧
        ∀ b, (∀ p ∈ cells, b < o + (drainAddr x p.2.1 p.2.2 - x.dest) ∨ o + (drainAddr x p.2.1 p.2.2 - x.dest) + n ≤ b) →
          v'.scratchByte b = v.scratchByte b)) ∧
  (Drainable s e t z x → x.written = true → x.form.amax ≠ none → ∀ pa, s.translate t.die t.asid x.amaxAddr .write .program = .ok pa →
    (∃ d, s.region pa = .hbm d) → s.poisoned pa 4 = none → ∃ u : State, ended u ∧ u.team? e.team = some (tileEnded t e.tile 0 0 s.nextId) ∧
      poked s.mem u.mem pa (toBytes 4 ((State.drainCells x).foldl (fun m p => max m (un (value p) % 2 ^ 31)) (s.natAt pa 4))))

/-- R207, R321, R327, R328: a drain that meets a fault on a global element. On a translation or permission fault it parks in a replayable context, once
the fault is recorded at FBWP, with the token that its entry names, the next new number (the model's choice, log entry 68), and in another it
ends with status 2; on a data error it ends with status 3 and its
context is marked failed (said where nothing is traced, no step is under way, the fault buffer has room and its rows do not overlap). -/
def Sys2Proof.Spec.DrainsFail : Prop := ∀ (s : State) (e : EngOp) (t : Team) (z : Tile) (x : DrainArgs) (q : Context) (c : Byte) (addr access : Nat), Untraced s →
  s.dbg.steps = [] → Drainable s e t z x → x.written = false → x.form.glob = true → s.ctx? e.asid = some q → s.waits = [] → s.fbReady (e.core / 1024) = true →
  drainN x.vpitch * codeBytes x.code ≤ drainPitch x.vpitch →
  ((State.drainLeft e x).mapM fun p => s.drainPhys t x p.2.1 p.2.2) = .error (c, addr, access) →
  let ends (status : Nat) (tile : Tile → Prop) : Prop := ∃ (u : State) (t' : Team) (z' : Tile),
    (∃ w, exec (.tileOpComplete e.id) s = .next { (u.wakeTwait e.team).settle with walked := w }) ∧
    u.engs = s.engs.filter (fun y => y.id != e.id) ∧ u.team? e.team = some t' ∧ t' = { tileEnded t e.tile status 0 0 with tiles := t'.tiles } ∧
    t'.tiles[e.tile]? = some z' ∧ tile z' ∧ (∀ n, n ≠ e.tile → t'.tiles[n]? = t.tiles[n]?) ∧
    (status = 3 → ∃ q', u.ctx? e.asid = some q' ∧ q'.failed = true)
  (c = 0x09 → ends 3 fun z' => ∀ i j, i < 64 → j < 64 → (drainM x.vpitch ≤ i ∨ drainN x.vpitch ≤ j) → z'.get i j = z.get i j) ∧
  (c ≠ 0x09 → (q.desc.replayable = false ∨ (c ≠ 0x06 ∧ c ≠ 0x07)) → ends 2 fun z' => z' = { z with hidden := z'.hidden }) ∧
  (q.desc.replayable = true → s.nextId ≠ 0 → (c = 0x06 ∨ c = 0x07) → ∃ (u : State) (e' : EngOp), exec (.tileOpComplete e.id) s = .next u ∧ u.teams = s.teams ∧
    u.eng? e.id = some e' ∧ e' = { e with inHand := true, parked := some s.nextId } ∧ u.nextId = s.nextId + 1 ∧
    (u.die (e.core / 1024)).fb.wp = ((s.die (e.core / 1024)).fb.wp + 1) % 16384 ∧
    ((∃ d, s.region ((s.die (e.core / 1024)).fb.base + 32 * (s.die (e.core / 1024)).fb.wp) = .hbm d) →
      poked s.mem u.mem ((s.die (e.core / 1024)).fb.base + 32 * (s.die (e.core / 1024)).fb.wp)
        (engEntry s e t 2 e.tile c addr access s.nextId ++ toBytes 8 s.refTime)))


/-! ### Statements of several parts -/

namespace Sys2Proof.Spec

open Machine

/-- R50: each lane that lacks an operand takes fault 0x0E in ascending lane order; its frame names the first code it lacks in the order d, a, b,
c (the model's choice, log entry 96). -/
def charged (sl : IssueSlot) (t : Team) (g : Guard) (codes : List Reg) (u : State) : State :=
  (lanesOf t sl g).foldl (fun s x =>
    match codes.find? fun r => !holds (t.crewOf x) r with
    | some r => s.deliver sl.team x.tid sl.clause sl.idx { plainFault 0x0E with detail := r.toNat }
    | none => s) u

/-- The lanes that hold every operand, in ascending lane order. -/
def holdersOf (t : Team) (sl : IssueSlot) (g : Guard) (codes : List Reg) : List Thread :=
  (lanesOf t sl g).filter fun x => codes.all fun r => holds (t.crewOf x) r

end Sys2Proof.Spec

/-- R50, R51, R55: the instructions whose results depend on more than one lane or on more than registers, whether or not their lanes hold the
operands. The lanes that lack one take 0x0E. The others have done what the instruction says: SHFL, VOTE, MATCH and CREDUX among themselves
alone, MXQ with +0 for the lanes that do not take part, SREAD and MREAD as ever, SREAD's with 0x0A from the level on that hides its register
(0x0E before 0x0A: the model's order, log entry 97). TGFF, MSWR, MWRITE and SWRITE are said of groups none of whose lanes holds its operands:
nothing is written or cleared. -/
def Sys2Proof.Spec.LanesLackingTrap : Prop := ∀ (s : State) (sl : IssueSlot) (t : Team), Issuing s sl t →
  (∀ i op, crossLaneOps i = some op → ∃ u, exec i s = .next (charged sl t op.g op.codes u) ∧
    RegsWritten s u sl t (Able t sl op.g op.codes) op.T (fun x _ => op.ws (holdersOf t sl op.g op.codes) t x)
      (fun x _ => op.preds (holdersOf t sl op.g op.codes) t x)) ∧
  (∀ (g : Guard) (T sr : Bool) (d a b : Reg),
    let codes := d :: if sr then [a, b] else [a]
    let block := toMxfp4
      ((List.range 32).map fun i => match laneOperand t sl g codes a i with | some w => dec32 w | none => .fin false 0 1)
      (if sr then .sr else .rne)
      ((List.range 32).map fun i => if sr then ((laneOperand t sl g codes b i).map un).getD 0 else 0)
    ∃ u, exec (.mxq g T sr d a b) s = .next (charged sl t g codes u) ∧
      RegsWritten s u sl t (Able t sl g codes) T (fun x _ => [(d,
        if x.lane < 4 then BitVec.ofNat 32 (((List.range 8).map fun j => (block.2.getD (8 * x.lane + j) 0) % 16 * 16 ^ j).sum)
        else BitVec.ofNat 32 block.1)]) (fun x _ => x.preds)) ∧
  (∀ (g : Guard) (T : Bool) (sel : SReg) (d : Reg),
    let dst := if sel.wide then pairCodes d else [d]
    (detOf s t < hiddenFrom sel → ∃ u, exec (.sread g T sel d) s = .next (charged sl t g dst u) ∧
      RegsWritten s u sl t (Able t sl g dst) T (fun x _ =>
        let v := specialReg s t x sel
        if sel.wide = false then [(d, low64 v)] else if d = 0xFF#8 then [] else [(d, low64 v), (d + 1#8, high64 v)]) (fun x _ => x.preds)) ∧
    (hiddenFrom sel ≤ detOf s t → exec (.sread g T sel d) s = .next ((holdersOf t sl g dst).foldl
      (fun u x => u.deliver sl.team x.tid sl.clause sl.idx (plainFault 0x0A)) (charged sl t g dst s)))) ∧
  ∀ (g : Guard) (T hi clr : Bool) (col tile : BitVec 6) (sel : SReg) (d a : Reg),
    (∀ z, t.tiles[tile.toNat]? = some z → z.opens = [] → ∃ u c, exec (.mread g T hi col tile d) s = .next c ∧
      c = { charged sl t g [d] u with draws := c.draws } ∧
      RegsWritten s u sl t (Able t sl g [d]) T (fun x _ => [(d, z.get (x.lane + if hi then 32 else 0) col.toNat)]) (fun x _ => x.preds)) ∧
    (holdersOf t sl g (d :: pairCodes a) = [] → exec (.tgff g T clr d a) s = .next (charged sl t g (d :: pairCodes a) s)) ∧
    (holdersOf t sl g (quadCodes d) = [] → ∃ c, exec (.mswr g T clr tile d) s = .next c ∧
      c = { charged sl t g (quadCodes d) s with draws := c.draws }) ∧
    (holdersOf t sl g [a] = [] → exec (.mwrite g hi col tile a) s = .next (charged sl t g [a] s)) ∧
    (holdersOf t sl g [a] = [] → exec (.swrite g sel a) s = .next (charged sl t g [a] s))

/-- R50, R51, R55, R140: where the register-only instructions trap: an `.ax` form at determinism level PORTABLE takes 0x0A, and a lane that
lacks the granule of an operand takes 0x0E while the others complete; the frame of one that lacks several names the first of d, a, b, c (the
model's choice, log entry 96). -/
def Obligations.RegisterInstructionsTrap : Prop := Spec.AxTrapsAtPortable ∧ Spec.OperandRangeTrap ∧ Spec.LanesLackingTrap

/-- R70, R71, R158, R163, R165: SPILL and FILL make one access for each crew, or trap for every active thread of it, and write and read the
crew's slot; PREF at most fills a sector of the L1, after a walk where its translation is not at hand (log entry 31); FENCE leaves a marker (log entry 86);
each answers a next state. -/
def Obligations.SpillsPrefetchesFences : Prop := Spec.SpillFillIssue ∧ Spec.SpillFillTrap ∧ Spec.SpillWritesSlot ∧ Spec.FillReadsSlot ∧
  Spec.PrefOnlyFillsL1 ∧ Spec.FenceOrders

/-- R164, R262: MWAIT sleeps on its line or ends at once, and a fired watch wakes its sleeper. -/
def Obligations.MonitoredWaits : Prop := Spec.MwaitSleepsOrEnds ∧ Spec.MwaitWakes

/-- R55, R56, R152 to R156: a load that has been served returns its bytes into its destination and `ld` falls; the bytes are those of
memory at its translated address. -/
def Obligations.LoadsReturnMemory : Prop := Spec.LoadReturns ∧ Spec.LoadServedFromMemory

/-- R154 to R156, R228, R247, R258: an accepted store writes exactly its bytes at its address, in memory or in scratchpad, and `st` falls; one
of narrow scope is accepted first and reaches memory later. -/
def Obligations.StoresWriteTheirBytes : Prop := Spec.StoreWritesItsBytes ∧ Spec.NarrowStoreInTwoSteps ∧ Spec.ScratchpadStores

/-- R152, R326 to R328: a late fault parks the access or terminates the context, with a token that is the model's choice (log entry 68); a
translation walk answers what waits for it. -/
def Obligations.LateFaultsAndWalks : Prop := Spec.LateFaultsParkOrTerminate ∧ Spec.TranslationWalkAnswers

/-- R175, R176: TKWAIT waits for its team's turn and says whether it was abandoned; TKPASS passes the turn on, once for a team. -/
def Obligations.Tickets : Prop := Spec.TicketWaits ∧ Spec.TicketPasses

/-- R179 to R181: REGROUP's threads sleep until all have arrived; then they move to the lanes their keys give under `.pack` or `.strict`, are
refused, or take its faults (log entry 72). -/
def Obligations.Regroup : Prop := Spec.RegroupArrives ∧ Spec.RegroupPacks ∧ Spec.RegroupStrict ∧ Spec.RegroupFaults

/-- R50, R177, R243: REGGROW and REGSHRINK move granules between a crew and the core's pool, and a crew that sleeps for them is granted
them in order. -/
def Obligations.Granules : Prop := Spec.GranulesGrowAndShrink ∧ Spec.GranuleGrants

/-- R206, R208: MDRAIN of every form is queued with its operands, and a `.tk` drain starts when the ticket is its team's. -/
def Obligations.DrainsIssueAndStart : Prop := Spec.DrainsIssue ∧ Spec.TicketedDrainsStart

/-- R36 to R45, R201 to R204, R287: what MZERO, MLOAD, a product and a gang leave in tiles, records and statuses when they and their parts end. -/
def Obligations.TileOperationsEnd : Prop := Spec.TileOperationsComplete ∧ Spec.ProductsEnd ∧ Spec.GangPartsEnd ∧ Spec.GangsEnd

/-- R193, R194: TGWANY and TGWALL wait for their tags, TGFF finds the lowest done one, TGCLR clears. -/
def Obligations.Tags : Prop := Spec.TagWaits ∧ Spec.TagsFoundAndCleared

/-- R173, R174, R239: BAR arrives, waits or does both: arrivals are on their way and a waiting lane sleeps until the phase is over, and
a complete phase ends. -/
def Obligations.BarriersArriveAndWait : Prop := Spec.BarrierArrivals ∧ Spec.BarrierWaits ∧ Spec.BarrierPhases

/-- R206 to R209: what an MDRAIN writes, its amax update, and its statuses when it ends. -/
def Obligations.DrainsEnd : Prop := Spec.DrainsWrite ∧ Spec.DrainsFail
end

