-- ==== Sys2Proof/Laws/Encoding.lean ====
section
/-! SUPPORT. Words and bytes: packing and unpacking the fields of a word, and little-endian bytes. -/

namespace Sys2Proof

theorem getLsbD_ofBool_zero (b : Bool) (k : Nat) (h : k < 1) : (BitVec.ofBool b).getLsbD k = b := by
  have : k = 0 := by omega
  subst this; cases b <;> rfl

/-- The bits of a packed word (Tables 5.3, 5.4). -/
theorem getLsbD_packWord (r : RawWord) (i : Nat) : (packWord r).getLsbD i =
    if i < 11 then r.x.getLsbD i else if i < 12 then r.t else if i < 20 then r.fn.getLsbD (i - 12) else if i < 28 then r.c.getLsbD (i - 20)
    else if i < 36 then r.b.getLsbD (i - 28) else if i < 44 then r.a.getLsbD (i - 36) else if i < 52 then r.d.getLsbD (i - 44)
    else if i < 55 then r.gp.getLsbD (i - 52) else if i < 56 then r.gneg else r.op.getLsbD (i - 56) := by
  unfold packWord
  rw [BitVec.getLsbD_cast]
  refine (BitVec.getLsbD_append ..).trans ?_
  by_cases h : i < 11
  · rw [if_pos h, if_pos h]
  rw [if_neg h, if_neg h]
  refine (BitVec.getLsbD_append ..).trans ?_
  by_cases h : i < 12
  · rw [if_pos (by omega), if_pos h, getLsbD_ofBool_zero _ _ (by omega)]
  rw [if_neg (by omega), if_neg h]
  refine (BitVec.getLsbD_append ..).trans ?_
  by_cases h : i < 20
  · rw [if_pos (by omega), if_pos h, show i - 11 - 1 = i - 12 by omega]
  rw [if_neg (by omega), if_neg h]
  refine (BitVec.getLsbD_append ..).trans ?_
  by_cases h : i < 28
  · rw [if_pos (by omega), if_pos h, show i - 11 - 1 - 8 = i - 20 by omega]
  rw [if_neg (by omega), if_neg h]
  refine (BitVec.getLsbD_append ..).trans ?_
  by_cases h : i < 36
  · rw [if_pos (by omega), if_pos h, show i - 11 - 1 - 8 - 8 = i - 28 by omega]
  rw [if_neg (by omega), if_neg h]
  refine (BitVec.getLsbD_append ..).trans ?_
  by_cases h : i < 44
  · rw [if_pos (by omega), if_pos h, show i - 11 - 1 - 8 - 8 - 8 = i - 36 by omega]
  rw [if_neg (by omega), if_neg h]
  refine (BitVec.getLsbD_append ..).trans ?_
  by_cases h : i < 52
  · rw [if_pos (by omega), if_pos h, show i - 11 - 1 - 8 - 8 - 8 - 8 = i - 44 by omega]
  rw [if_neg (by omega), if_neg h]
  refine (BitVec.getLsbD_append ..).trans ?_
  by_cases h : i < 55
  · rw [if_pos (by omega), if_pos h, show i - 11 - 1 - 8 - 8 - 8 - 8 - 8 = i - 52 by omega]
  rw [if_neg (by omega), if_neg h]
  refine (BitVec.getLsbD_append ..).trans ?_
  by_cases h : i < 56
  · rw [if_pos (by omega), if_pos h, getLsbD_ofBool_zero _ _ (by omega)]
  rw [if_neg (by omega), if_neg h, show i - 11 - 1 - 8 - 8 - 8 - 8 - 8 - 3 - 1 = i - 56 by omega]

/-- The fields of a packed word are the fields packed. -/
theorem unpackWord_packWord (r : RawWord) : unpackWord (packWord r) = r := by
  cases r
  simp only [unpackWord, RawWord.mk.injEq]
  and_intros
  all_goals try (apply BitVec.eq_of_getLsbD_eq; intro i hi; rw [BitVec.getLsbD_extractLsb', getLsbD_packWord, decide_eq_true hi, Bool.true_and])
  all_goals first
    | (rw [getLsbD_packWord]; rfl)
    | (repeat first | rw [if_neg (by omega)] | rw [if_pos (by omega)]
       simp only [Nat.add_sub_cancel_left, Nat.zero_add])

/-- Packing the fields of a word gives the word back. -/
theorem packWord_unpackWord (w : DWord) : packWord (unpackWord w) = w := by
  apply BitVec.eq_of_getLsbD_eq
  intro i hi
  rw [getLsbD_packWord]
  simp only [unpackWord, BitVec.getLsbD_extractLsb']
  have e : ∀ a n, i - a < n → a ≤ i → (decide (i - a < n) && w.getLsbD (a + (i - a))) = w.getLsbD i :=
    fun a n h1 h2 => by rw [decide_eq_true h1, Bool.true_and, Nat.add_sub_cancel' h2]
  by_cases h : i < 11
  · rw [if_pos h, decide_eq_true h, Bool.true_and, Nat.zero_add]
  rw [if_neg h]
  by_cases h : i < 12
  · rw [if_pos h, show i = 11 by omega]
  rw [if_neg h]
  by_cases h : i < 20
  · rw [if_pos h, e 12 8 (by omega) (by omega)]
  rw [if_neg h]
  by_cases h : i < 28
  · rw [if_pos h, e 20 8 (by omega) (by omega)]
  rw [if_neg h]
  by_cases h : i < 36
  · rw [if_pos h, e 28 8 (by omega) (by omega)]
  rw [if_neg h]
  by_cases h : i < 44
  · rw [if_pos h, e 36 8 (by omega) (by omega)]
  rw [if_neg h]
  by_cases h : i < 52
  · rw [if_pos h, e 44 8 (by omega) (by omega)]
  rw [if_neg h]
  by_cases h : i < 55
  · rw [if_pos h, e 52 3 (by omega) (by omega)]
  rw [if_neg h]
  by_cases h : i < 56
  · rw [if_pos h, show i = 55 by omega]
  rw [if_neg h, e 56 8 (by omega) (by omega)]
theorem ofBytes_toBytes (n x : Nat) : ofBytes (toBytes n x) = x % 256 ^ n := by
  induction n generalizing x with
  | zero => simp [toBytes, ofBytes, Nat.mod_one]
  | succ n ih =>
    have h : x % 256 ^ (n + 1) = x % 256 + 256 * (x / 256 % 256 ^ n) := by rw [Nat.pow_succ, Nat.mul_comm, Nat.mod_mul]
    rw [h]
    simp only [toBytes, ofBytes, ih, BitVec.toNat_ofNat]

theorem toBytes_length (n x : Nat) : (toBytes n x).length = n := by
  induction n generalizing x with
  | zero => rfl
  | succ n ih => simp [toBytes, ih]

theorem ofBytes_lt (bs : List Byte) : ofBytes bs < 256 ^ bs.length := by
  induction bs with
  | nil => simp [ofBytes]
  | cons b bs ih => simp only [ofBytes, List.length_cons, Nat.pow_succ]; have := b.isLt; omega

end Sys2Proof
end

