-- ==== Sys2Proof/Laws/State.lean ====
section
/-! SUPPORT. What each update of the state leaves: one lemma per field. -/

namespace Sys2Proof.Machine

/-! ### modTeam -/

@[simp] theorem State.modTeam_mem (s : State) (id : Nat) (f : Team → Team) : (s.modTeam id f).mem = s.mem := rfl
@[simp] theorem State.modTeam_poison (s : State) (id : Nat) (f : Team → Team) : (s.modTeam id f).poison = s.poison := rfl
@[simp] theorem State.modTeam_sliceErrs (s : State) (id : Nat) (f : Team → Team) : (s.modTeam id f).sliceErrs = s.sliceErrs := rfl
@[simp] theorem State.modTeam_lines (s : State) (id : Nat) (f : Team → Team) : (s.modTeam id f).lines = s.lines := rfl
@[simp] theorem State.modTeam_narrow (s : State) (id : Nat) (f : Team → Team) : (s.modTeam id f).narrow = s.narrow := rfl
@[simp] theorem State.modTeam_l1 (s : State) (id : Nat) (f : Team → Team) : (s.modTeam id f).l1 = s.l1 := rfl
@[simp] theorem State.modTeam_icache (s : State) (id : Nat) (f : Team → Team) : (s.modTeam id f).icache = s.icache := rfl
@[simp] theorem State.modTeam_tlb (s : State) (id : Nat) (f : Team → Team) : (s.modTeam id f).tlb = s.tlb := rfl
@[simp] theorem State.modTeam_walks (s : State) (id : Nat) (f : Team → Team) : (s.modTeam id f).walks = s.walks := rfl
@[simp] theorem State.modTeam_walked (s : State) (id : Nat) (f : Team → Team) : (s.modTeam id f).walked = s.walked := rfl
@[simp] theorem State.modTeam_watch (s : State) (id : Nat) (f : Team → Team) : (s.modTeam id f).watch = s.watch := rfl
@[simp] theorem State.modTeam_accs (s : State) (id : Nat) (f : Team → Team) : (s.modTeam id f).accs = s.accs := rfl
@[simp] theorem State.modTeam_issue (s : State) (id : Nat) (f : Team → Team) : (s.modTeam id f).issue = s.issue := rfl
@[simp] theorem State.modTeam_clusters (s : State) (id : Nat) (f : Team → Team) : (s.modTeam id f).clusters = s.clusters := rfl
@[simp] theorem State.modTeam_grids (s : State) (id : Nat) (f : Team → Team) : (s.modTeam id f).grids = s.grids := rfl
@[simp] theorem State.modTeam_engs (s : State) (id : Nat) (f : Team → Team) : (s.modTeam id f).engs = s.engs := rfl
@[simp] theorem State.modTeam_cxtBase (s : State) (id : Nat) (f : Team → Team) : (s.modTeam id f).cxtBase = s.cxtBase := rfl
@[simp] theorem State.modTeam_cxDone (s : State) (id : Nat) (f : Team → Team) : (s.modTeam id f).cxDone = s.cxDone := rfl
@[simp] theorem State.modTeam_cxtWords (s : State) (id : Nat) (f : Team → Team) : (s.modTeam id f).cxtWords = s.cxtWords := rfl
@[simp] theorem State.modTeam_ctxs (s : State) (id : Nat) (f : Team → Team) : (s.modTeam id f).ctxs = s.ctxs := rfl
@[simp] theorem State.modTeam_cmds (s : State) (id : Nat) (f : Team → Team) : (s.modTeam id f).cmds = s.cmds := rfl
@[simp] theorem State.modTeam_waits (s : State) (id : Nat) (f : Team → Team) : (s.modTeam id f).waits = s.waits := rfl
@[simp] theorem State.modTeam_queues (s : State) (id : Nat) (f : Team → Team) : (s.modTeam id f).queues = s.queues := rfl
@[simp] theorem State.modTeam_colls (s : State) (id : Nat) (f : Team → Team) : (s.modTeam id f).colls = s.colls := rfl
@[simp] theorem State.modTeam_ual (s : State) (id : Nat) (f : Team → Team) : (s.modTeam id f).ual = s.ual := rfl
@[simp] theorem State.modTeam_dbg (s : State) (id : Nat) (f : Team → Team) : (s.modTeam id f).dbg = s.dbg := rfl
@[simp] theorem State.modTeam_die0 (s : State) (id : Nat) (f : Team → Team) : (s.modTeam id f).die0 = s.die0 := rfl
@[simp] theorem State.modTeam_die1 (s : State) (id : Nat) (f : Team → Team) : (s.modTeam id f).die1 = s.die1 := rfl
@[simp] theorem State.modTeam_svc (s : State) (id : Nat) (f : Team → Team) : (s.modTeam id f).svc = s.svc := rfl
@[simp] theorem State.modTeam_link (s : State) (id : Nat) (f : Team → Team) : (s.modTeam id f).link = s.link := rfl
@[simp] theorem State.modTeam_msix (s : State) (id : Nat) (f : Team → Team) : (s.modTeam id f).msix = s.msix := rfl
@[simp] theorem State.modTeam_msixPending (s : State) (id : Nat) (f : Team → Team) : (s.modTeam id f).msixPending = s.msixPending := rfl
@[simp] theorem State.modTeam_jtag (s : State) (id : Nat) (f : Team → Team) : (s.modTeam id f).jtag = s.jtag := rfl
@[simp] theorem State.modTeam_now (s : State) (id : Nat) (f : Team → Team) : (s.modTeam id f).now = s.now := rfl
@[simp] theorem State.modTeam_nextAcc (s : State) (id : Nat) (f : Team → Team) : (s.modTeam id f).nextAcc = s.nextAcc := rfl
@[simp] theorem State.modTeam_nextId (s : State) (id : Nat) (f : Team → Team) : (s.modTeam id f).nextId = s.nextId := rfl
@[simp] theorem State.modTeam_inputs (s : State) (id : Nat) (f : Team → Team) : (s.modTeam id f).inputs = s.inputs := rfl
@[simp] theorem State.modTeam_out (s : State) (id : Nat) (f : Team → Team) : (s.modTeam id f).out = s.out := rfl
@[simp] theorem State.modTeam_draws (s : State) (id : Nat) (f : Team → Team) : (s.modTeam id f).draws = s.draws := rfl

/-! ### modThread -/

@[simp] theorem State.modThread_mem (s : State) (id tid : Nat) (f : Thread → Thread) : (s.modThread id tid f).mem = s.mem := rfl
@[simp] theorem State.modThread_poison (s : State) (id tid : Nat) (f : Thread → Thread) : (s.modThread id tid f).poison = s.poison := rfl
@[simp] theorem State.modThread_sliceErrs (s : State) (id tid : Nat) (f : Thread → Thread) : (s.modThread id tid f).sliceErrs = s.sliceErrs := rfl
@[simp] theorem State.modThread_lines (s : State) (id tid : Nat) (f : Thread → Thread) : (s.modThread id tid f).lines = s.lines := rfl
@[simp] theorem State.modThread_narrow (s : State) (id tid : Nat) (f : Thread → Thread) : (s.modThread id tid f).narrow = s.narrow := rfl
@[simp] theorem State.modThread_l1 (s : State) (id tid : Nat) (f : Thread → Thread) : (s.modThread id tid f).l1 = s.l1 := rfl
@[simp] theorem State.modThread_icache (s : State) (id tid : Nat) (f : Thread → Thread) : (s.modThread id tid f).icache = s.icache := rfl
@[simp] theorem State.modThread_tlb (s : State) (id tid : Nat) (f : Thread → Thread) : (s.modThread id tid f).tlb = s.tlb := rfl
@[simp] theorem State.modThread_walks (s : State) (id tid : Nat) (f : Thread → Thread) : (s.modThread id tid f).walks = s.walks := rfl
@[simp] theorem State.modThread_walked (s : State) (id tid : Nat) (f : Thread → Thread) : (s.modThread id tid f).walked = s.walked := rfl
@[simp] theorem State.modThread_watch (s : State) (id tid : Nat) (f : Thread → Thread) : (s.modThread id tid f).watch = s.watch := rfl
@[simp] theorem State.modThread_accs (s : State) (id tid : Nat) (f : Thread → Thread) : (s.modThread id tid f).accs = s.accs := rfl
@[simp] theorem State.modThread_issue (s : State) (id tid : Nat) (f : Thread → Thread) : (s.modThread id tid f).issue = s.issue := rfl
@[simp] theorem State.modThread_clusters (s : State) (id tid : Nat) (f : Thread → Thread) : (s.modThread id tid f).clusters = s.clusters := rfl
@[simp] theorem State.modThread_grids (s : State) (id tid : Nat) (f : Thread → Thread) : (s.modThread id tid f).grids = s.grids := rfl
@[simp] theorem State.modThread_engs (s : State) (id tid : Nat) (f : Thread → Thread) : (s.modThread id tid f).engs = s.engs := rfl
@[simp] theorem State.modThread_cxtBase (s : State) (id tid : Nat) (f : Thread → Thread) : (s.modThread id tid f).cxtBase = s.cxtBase := rfl
@[simp] theorem State.modThread_cxDone (s : State) (id tid : Nat) (f : Thread → Thread) : (s.modThread id tid f).cxDone = s.cxDone := rfl
@[simp] theorem State.modThread_cxtWords (s : State) (id tid : Nat) (f : Thread → Thread) : (s.modThread id tid f).cxtWords = s.cxtWords := rfl
@[simp] theorem State.modThread_ctxs (s : State) (id tid : Nat) (f : Thread → Thread) : (s.modThread id tid f).ctxs = s.ctxs := rfl
@[simp] theorem State.modThread_cmds (s : State) (id tid : Nat) (f : Thread → Thread) : (s.modThread id tid f).cmds = s.cmds := rfl
@[simp] theorem State.modThread_waits (s : State) (id tid : Nat) (f : Thread → Thread) : (s.modThread id tid f).waits = s.waits := rfl
@[simp] theorem State.modThread_queues (s : State) (id tid : Nat) (f : Thread → Thread) : (s.modThread id tid f).queues = s.queues := rfl
@[simp] theorem State.modThread_colls (s : State) (id tid : Nat) (f : Thread → Thread) : (s.modThread id tid f).colls = s.colls := rfl
@[simp] theorem State.modThread_ual (s : State) (id tid : Nat) (f : Thread → Thread) : (s.modThread id tid f).ual = s.ual := rfl
@[simp] theorem State.modThread_dbg (s : State) (id tid : Nat) (f : Thread → Thread) : (s.modThread id tid f).dbg = s.dbg := rfl
@[simp] theorem State.modThread_die0 (s : State) (id tid : Nat) (f : Thread → Thread) : (s.modThread id tid f).die0 = s.die0 := rfl
@[simp] theorem State.modThread_die1 (s : State) (id tid : Nat) (f : Thread → Thread) : (s.modThread id tid f).die1 = s.die1 := rfl
@[simp] theorem State.modThread_svc (s : State) (id tid : Nat) (f : Thread → Thread) : (s.modThread id tid f).svc = s.svc := rfl
@[simp] theorem State.modThread_link (s : State) (id tid : Nat) (f : Thread → Thread) : (s.modThread id tid f).link = s.link := rfl
@[simp] theorem State.modThread_msix (s : State) (id tid : Nat) (f : Thread → Thread) : (s.modThread id tid f).msix = s.msix := rfl
@[simp] theorem State.modThread_msixPending (s : State) (id tid : Nat) (f : Thread → Thread) : (s.modThread id tid f).msixPending = s.msixPending := rfl
@[simp] theorem State.modThread_jtag (s : State) (id tid : Nat) (f : Thread → Thread) : (s.modThread id tid f).jtag = s.jtag := rfl
@[simp] theorem State.modThread_now (s : State) (id tid : Nat) (f : Thread → Thread) : (s.modThread id tid f).now = s.now := rfl
@[simp] theorem State.modThread_nextAcc (s : State) (id tid : Nat) (f : Thread → Thread) : (s.modThread id tid f).nextAcc = s.nextAcc := rfl
@[simp] theorem State.modThread_nextId (s : State) (id tid : Nat) (f : Thread → Thread) : (s.modThread id tid f).nextId = s.nextId := rfl
@[simp] theorem State.modThread_inputs (s : State) (id tid : Nat) (f : Thread → Thread) : (s.modThread id tid f).inputs = s.inputs := rfl
@[simp] theorem State.modThread_out (s : State) (id tid : Nat) (f : Thread → Thread) : (s.modThread id tid f).out = s.out := rfl
@[simp] theorem State.modThread_draws (s : State) (id tid : Nat) (f : Thread → Thread) : (s.modThread id tid f).draws = s.draws := rfl

/-! ### modGrid -/

@[simp] theorem State.modGrid_mem (s : State) (id : Nat) (f : Grid → Grid) : (s.modGrid id f).mem = s.mem := rfl
@[simp] theorem State.modGrid_poison (s : State) (id : Nat) (f : Grid → Grid) : (s.modGrid id f).poison = s.poison := rfl
@[simp] theorem State.modGrid_sliceErrs (s : State) (id : Nat) (f : Grid → Grid) : (s.modGrid id f).sliceErrs = s.sliceErrs := rfl
@[simp] theorem State.modGrid_lines (s : State) (id : Nat) (f : Grid → Grid) : (s.modGrid id f).lines = s.lines := rfl
@[simp] theorem State.modGrid_narrow (s : State) (id : Nat) (f : Grid → Grid) : (s.modGrid id f).narrow = s.narrow := rfl
@[simp] theorem State.modGrid_l1 (s : State) (id : Nat) (f : Grid → Grid) : (s.modGrid id f).l1 = s.l1 := rfl
@[simp] theorem State.modGrid_icache (s : State) (id : Nat) (f : Grid → Grid) : (s.modGrid id f).icache = s.icache := rfl
@[simp] theorem State.modGrid_tlb (s : State) (id : Nat) (f : Grid → Grid) : (s.modGrid id f).tlb = s.tlb := rfl
@[simp] theorem State.modGrid_walks (s : State) (id : Nat) (f : Grid → Grid) : (s.modGrid id f).walks = s.walks := rfl
@[simp] theorem State.modGrid_walked (s : State) (id : Nat) (f : Grid → Grid) : (s.modGrid id f).walked = s.walked := rfl
@[simp] theorem State.modGrid_watch (s : State) (id : Nat) (f : Grid → Grid) : (s.modGrid id f).watch = s.watch := rfl
@[simp] theorem State.modGrid_accs (s : State) (id : Nat) (f : Grid → Grid) : (s.modGrid id f).accs = s.accs := rfl
@[simp] theorem State.modGrid_issue (s : State) (id : Nat) (f : Grid → Grid) : (s.modGrid id f).issue = s.issue := rfl
@[simp] theorem State.modGrid_teams (s : State) (id : Nat) (f : Grid → Grid) : (s.modGrid id f).teams = s.teams := rfl
@[simp] theorem State.modGrid_clusters (s : State) (id : Nat) (f : Grid → Grid) : (s.modGrid id f).clusters = s.clusters := rfl
@[simp] theorem State.modGrid_engs (s : State) (id : Nat) (f : Grid → Grid) : (s.modGrid id f).engs = s.engs := rfl
@[simp] theorem State.modGrid_cxtBase (s : State) (id : Nat) (f : Grid → Grid) : (s.modGrid id f).cxtBase = s.cxtBase := rfl
@[simp] theorem State.modGrid_cxDone (s : State) (id : Nat) (f : Grid → Grid) : (s.modGrid id f).cxDone = s.cxDone := rfl
@[simp] theorem State.modGrid_cxtWords (s : State) (id : Nat) (f : Grid → Grid) : (s.modGrid id f).cxtWords = s.cxtWords := rfl
@[simp] theorem State.modGrid_ctxs (s : State) (id : Nat) (f : Grid → Grid) : (s.modGrid id f).ctxs = s.ctxs := rfl
@[simp] theorem State.modGrid_cmds (s : State) (id : Nat) (f : Grid → Grid) : (s.modGrid id f).cmds = s.cmds := rfl
@[simp] theorem State.modGrid_waits (s : State) (id : Nat) (f : Grid → Grid) : (s.modGrid id f).waits = s.waits := rfl
@[simp] theorem State.modGrid_queues (s : State) (id : Nat) (f : Grid → Grid) : (s.modGrid id f).queues = s.queues := rfl
@[simp] theorem State.modGrid_colls (s : State) (id : Nat) (f : Grid → Grid) : (s.modGrid id f).colls = s.colls := rfl
@[simp] theorem State.modGrid_ual (s : State) (id : Nat) (f : Grid → Grid) : (s.modGrid id f).ual = s.ual := rfl
@[simp] theorem State.modGrid_dbg (s : State) (id : Nat) (f : Grid → Grid) : (s.modGrid id f).dbg = s.dbg := rfl
@[simp] theorem State.modGrid_die0 (s : State) (id : Nat) (f : Grid → Grid) : (s.modGrid id f).die0 = s.die0 := rfl
@[simp] theorem State.modGrid_die1 (s : State) (id : Nat) (f : Grid → Grid) : (s.modGrid id f).die1 = s.die1 := rfl
@[simp] theorem State.modGrid_svc (s : State) (id : Nat) (f : Grid → Grid) : (s.modGrid id f).svc = s.svc := rfl
@[simp] theorem State.modGrid_link (s : State) (id : Nat) (f : Grid → Grid) : (s.modGrid id f).link = s.link := rfl
@[simp] theorem State.modGrid_msix (s : State) (id : Nat) (f : Grid → Grid) : (s.modGrid id f).msix = s.msix := rfl
@[simp] theorem State.modGrid_msixPending (s : State) (id : Nat) (f : Grid → Grid) : (s.modGrid id f).msixPending = s.msixPending := rfl
@[simp] theorem State.modGrid_jtag (s : State) (id : Nat) (f : Grid → Grid) : (s.modGrid id f).jtag = s.jtag := rfl
@[simp] theorem State.modGrid_now (s : State) (id : Nat) (f : Grid → Grid) : (s.modGrid id f).now = s.now := rfl
@[simp] theorem State.modGrid_nextAcc (s : State) (id : Nat) (f : Grid → Grid) : (s.modGrid id f).nextAcc = s.nextAcc := rfl
@[simp] theorem State.modGrid_nextId (s : State) (id : Nat) (f : Grid → Grid) : (s.modGrid id f).nextId = s.nextId := rfl
@[simp] theorem State.modGrid_inputs (s : State) (id : Nat) (f : Grid → Grid) : (s.modGrid id f).inputs = s.inputs := rfl
@[simp] theorem State.modGrid_out (s : State) (id : Nat) (f : Grid → Grid) : (s.modGrid id f).out = s.out := rfl
@[simp] theorem State.modGrid_draws (s : State) (id : Nat) (f : Grid → Grid) : (s.modGrid id f).draws = s.draws := rfl

/-! ### modCluster -/

@[simp] theorem State.modCluster_mem (s : State) (id : Nat) (f : Cluster → Cluster) : (s.modCluster id f).mem = s.mem := rfl
@[simp] theorem State.modCluster_poison (s : State) (id : Nat) (f : Cluster → Cluster) : (s.modCluster id f).poison = s.poison := rfl
@[simp] theorem State.modCluster_sliceErrs (s : State) (id : Nat) (f : Cluster → Cluster) : (s.modCluster id f).sliceErrs = s.sliceErrs := rfl
@[simp] theorem State.modCluster_lines (s : State) (id : Nat) (f : Cluster → Cluster) : (s.modCluster id f).lines = s.lines := rfl
@[simp] theorem State.modCluster_narrow (s : State) (id : Nat) (f : Cluster → Cluster) : (s.modCluster id f).narrow = s.narrow := rfl
@[simp] theorem State.modCluster_l1 (s : State) (id : Nat) (f : Cluster → Cluster) : (s.modCluster id f).l1 = s.l1 := rfl
@[simp] theorem State.modCluster_icache (s : State) (id : Nat) (f : Cluster → Cluster) : (s.modCluster id f).icache = s.icache := rfl
@[simp] theorem State.modCluster_tlb (s : State) (id : Nat) (f : Cluster → Cluster) : (s.modCluster id f).tlb = s.tlb := rfl
@[simp] theorem State.modCluster_walks (s : State) (id : Nat) (f : Cluster → Cluster) : (s.modCluster id f).walks = s.walks := rfl
@[simp] theorem State.modCluster_walked (s : State) (id : Nat) (f : Cluster → Cluster) : (s.modCluster id f).walked = s.walked := rfl
@[simp] theorem State.modCluster_watch (s : State) (id : Nat) (f : Cluster → Cluster) : (s.modCluster id f).watch = s.watch := rfl
@[simp] theorem State.modCluster_accs (s : State) (id : Nat) (f : Cluster → Cluster) : (s.modCluster id f).accs = s.accs := rfl
@[simp] theorem State.modCluster_issue (s : State) (id : Nat) (f : Cluster → Cluster) : (s.modCluster id f).issue = s.issue := rfl
@[simp] theorem State.modCluster_teams (s : State) (id : Nat) (f : Cluster → Cluster) : (s.modCluster id f).teams = s.teams := rfl
@[simp] theorem State.modCluster_grids (s : State) (id : Nat) (f : Cluster → Cluster) : (s.modCluster id f).grids = s.grids := rfl
@[simp] theorem State.modCluster_engs (s : State) (id : Nat) (f : Cluster → Cluster) : (s.modCluster id f).engs = s.engs := rfl
@[simp] theorem State.modCluster_cxtBase (s : State) (id : Nat) (f : Cluster → Cluster) : (s.modCluster id f).cxtBase = s.cxtBase := rfl
@[simp] theorem State.modCluster_cxDone (s : State) (id : Nat) (f : Cluster → Cluster) : (s.modCluster id f).cxDone = s.cxDone := rfl
@[simp] theorem State.modCluster_cxtWords (s : State) (id : Nat) (f : Cluster → Cluster) : (s.modCluster id f).cxtWords = s.cxtWords := rfl
@[simp] theorem State.modCluster_ctxs (s : State) (id : Nat) (f : Cluster → Cluster) : (s.modCluster id f).ctxs = s.ctxs := rfl
@[simp] theorem State.modCluster_cmds (s : State) (id : Nat) (f : Cluster → Cluster) : (s.modCluster id f).cmds = s.cmds := rfl
@[simp] theorem State.modCluster_waits (s : State) (id : Nat) (f : Cluster → Cluster) : (s.modCluster id f).waits = s.waits := rfl
@[simp] theorem State.modCluster_queues (s : State) (id : Nat) (f : Cluster → Cluster) : (s.modCluster id f).queues = s.queues := rfl
@[simp] theorem State.modCluster_colls (s : State) (id : Nat) (f : Cluster → Cluster) : (s.modCluster id f).colls = s.colls := rfl
@[simp] theorem State.modCluster_ual (s : State) (id : Nat) (f : Cluster → Cluster) : (s.modCluster id f).ual = s.ual := rfl
@[simp] theorem State.modCluster_dbg (s : State) (id : Nat) (f : Cluster → Cluster) : (s.modCluster id f).dbg = s.dbg := rfl
@[simp] theorem State.modCluster_die0 (s : State) (id : Nat) (f : Cluster → Cluster) : (s.modCluster id f).die0 = s.die0 := rfl
@[simp] theorem State.modCluster_die1 (s : State) (id : Nat) (f : Cluster → Cluster) : (s.modCluster id f).die1 = s.die1 := rfl
@[simp] theorem State.modCluster_svc (s : State) (id : Nat) (f : Cluster → Cluster) : (s.modCluster id f).svc = s.svc := rfl
@[simp] theorem State.modCluster_link (s : State) (id : Nat) (f : Cluster → Cluster) : (s.modCluster id f).link = s.link := rfl
@[simp] theorem State.modCluster_msix (s : State) (id : Nat) (f : Cluster → Cluster) : (s.modCluster id f).msix = s.msix := rfl
@[simp] theorem State.modCluster_msixPending (s : State) (id : Nat) (f : Cluster → Cluster) : (s.modCluster id f).msixPending = s.msixPending := rfl
@[simp] theorem State.modCluster_jtag (s : State) (id : Nat) (f : Cluster → Cluster) : (s.modCluster id f).jtag = s.jtag := rfl
@[simp] theorem State.modCluster_now (s : State) (id : Nat) (f : Cluster → Cluster) : (s.modCluster id f).now = s.now := rfl
@[simp] theorem State.modCluster_nextAcc (s : State) (id : Nat) (f : Cluster → Cluster) : (s.modCluster id f).nextAcc = s.nextAcc := rfl
@[simp] theorem State.modCluster_nextId (s : State) (id : Nat) (f : Cluster → Cluster) : (s.modCluster id f).nextId = s.nextId := rfl
@[simp] theorem State.modCluster_inputs (s : State) (id : Nat) (f : Cluster → Cluster) : (s.modCluster id f).inputs = s.inputs := rfl
@[simp] theorem State.modCluster_out (s : State) (id : Nat) (f : Cluster → Cluster) : (s.modCluster id f).out = s.out := rfl
@[simp] theorem State.modCluster_draws (s : State) (id : Nat) (f : Cluster → Cluster) : (s.modCluster id f).draws = s.draws := rfl

/-! ### modEng -/

@[simp] theorem State.modEng_mem (s : State) (id : Nat) (f : EngOp → EngOp) : (s.modEng id f).mem = s.mem := rfl
@[simp] theorem State.modEng_poison (s : State) (id : Nat) (f : EngOp → EngOp) : (s.modEng id f).poison = s.poison := rfl
@[simp] theorem State.modEng_sliceErrs (s : State) (id : Nat) (f : EngOp → EngOp) : (s.modEng id f).sliceErrs = s.sliceErrs := rfl
@[simp] theorem State.modEng_lines (s : State) (id : Nat) (f : EngOp → EngOp) : (s.modEng id f).lines = s.lines := rfl
@[simp] theorem State.modEng_narrow (s : State) (id : Nat) (f : EngOp → EngOp) : (s.modEng id f).narrow = s.narrow := rfl
@[simp] theorem State.modEng_l1 (s : State) (id : Nat) (f : EngOp → EngOp) : (s.modEng id f).l1 = s.l1 := rfl
@[simp] theorem State.modEng_icache (s : State) (id : Nat) (f : EngOp → EngOp) : (s.modEng id f).icache = s.icache := rfl
@[simp] theorem State.modEng_tlb (s : State) (id : Nat) (f : EngOp → EngOp) : (s.modEng id f).tlb = s.tlb := rfl
@[simp] theorem State.modEng_walks (s : State) (id : Nat) (f : EngOp → EngOp) : (s.modEng id f).walks = s.walks := rfl
@[simp] theorem State.modEng_walked (s : State) (id : Nat) (f : EngOp → EngOp) : (s.modEng id f).walked = s.walked := rfl
@[simp] theorem State.modEng_watch (s : State) (id : Nat) (f : EngOp → EngOp) : (s.modEng id f).watch = s.watch := rfl
@[simp] theorem State.modEng_accs (s : State) (id : Nat) (f : EngOp → EngOp) : (s.modEng id f).accs = s.accs := rfl
@[simp] theorem State.modEng_issue (s : State) (id : Nat) (f : EngOp → EngOp) : (s.modEng id f).issue = s.issue := rfl
@[simp] theorem State.modEng_teams (s : State) (id : Nat) (f : EngOp → EngOp) : (s.modEng id f).teams = s.teams := rfl
@[simp] theorem State.modEng_clusters (s : State) (id : Nat) (f : EngOp → EngOp) : (s.modEng id f).clusters = s.clusters := rfl
@[simp] theorem State.modEng_grids (s : State) (id : Nat) (f : EngOp → EngOp) : (s.modEng id f).grids = s.grids := rfl
@[simp] theorem State.modEng_cxtBase (s : State) (id : Nat) (f : EngOp → EngOp) : (s.modEng id f).cxtBase = s.cxtBase := rfl
@[simp] theorem State.modEng_cxDone (s : State) (id : Nat) (f : EngOp → EngOp) : (s.modEng id f).cxDone = s.cxDone := rfl
@[simp] theorem State.modEng_cxtWords (s : State) (id : Nat) (f : EngOp → EngOp) : (s.modEng id f).cxtWords = s.cxtWords := rfl
@[simp] theorem State.modEng_ctxs (s : State) (id : Nat) (f : EngOp → EngOp) : (s.modEng id f).ctxs = s.ctxs := rfl
@[simp] theorem State.modEng_cmds (s : State) (id : Nat) (f : EngOp → EngOp) : (s.modEng id f).cmds = s.cmds := rfl
@[simp] theorem State.modEng_waits (s : State) (id : Nat) (f : EngOp → EngOp) : (s.modEng id f).waits = s.waits := rfl
@[simp] theorem State.modEng_queues (s : State) (id : Nat) (f : EngOp → EngOp) : (s.modEng id f).queues = s.queues := rfl
@[simp] theorem State.modEng_colls (s : State) (id : Nat) (f : EngOp → EngOp) : (s.modEng id f).colls = s.colls := rfl
@[simp] theorem State.modEng_ual (s : State) (id : Nat) (f : EngOp → EngOp) : (s.modEng id f).ual = s.ual := rfl
@[simp] theorem State.modEng_dbg (s : State) (id : Nat) (f : EngOp → EngOp) : (s.modEng id f).dbg = s.dbg := rfl
@[simp] theorem State.modEng_die0 (s : State) (id : Nat) (f : EngOp → EngOp) : (s.modEng id f).die0 = s.die0 := rfl
@[simp] theorem State.modEng_die1 (s : State) (id : Nat) (f : EngOp → EngOp) : (s.modEng id f).die1 = s.die1 := rfl
@[simp] theorem State.modEng_svc (s : State) (id : Nat) (f : EngOp → EngOp) : (s.modEng id f).svc = s.svc := rfl
@[simp] theorem State.modEng_link (s : State) (id : Nat) (f : EngOp → EngOp) : (s.modEng id f).link = s.link := rfl
@[simp] theorem State.modEng_msix (s : State) (id : Nat) (f : EngOp → EngOp) : (s.modEng id f).msix = s.msix := rfl
@[simp] theorem State.modEng_msixPending (s : State) (id : Nat) (f : EngOp → EngOp) : (s.modEng id f).msixPending = s.msixPending := rfl
@[simp] theorem State.modEng_jtag (s : State) (id : Nat) (f : EngOp → EngOp) : (s.modEng id f).jtag = s.jtag := rfl
@[simp] theorem State.modEng_now (s : State) (id : Nat) (f : EngOp → EngOp) : (s.modEng id f).now = s.now := rfl
@[simp] theorem State.modEng_nextAcc (s : State) (id : Nat) (f : EngOp → EngOp) : (s.modEng id f).nextAcc = s.nextAcc := rfl
@[simp] theorem State.modEng_nextId (s : State) (id : Nat) (f : EngOp → EngOp) : (s.modEng id f).nextId = s.nextId := rfl
@[simp] theorem State.modEng_inputs (s : State) (id : Nat) (f : EngOp → EngOp) : (s.modEng id f).inputs = s.inputs := rfl
@[simp] theorem State.modEng_out (s : State) (id : Nat) (f : EngOp → EngOp) : (s.modEng id f).out = s.out := rfl
@[simp] theorem State.modEng_draws (s : State) (id : Nat) (f : EngOp → EngOp) : (s.modEng id f).draws = s.draws := rfl

/-! ### modAcc -/

@[simp] theorem State.modAcc_mem (s : State) (id : Nat) (f : Access → Access) : (s.modAcc id f).mem = s.mem := rfl
@[simp] theorem State.modAcc_poison (s : State) (id : Nat) (f : Access → Access) : (s.modAcc id f).poison = s.poison := rfl
@[simp] theorem State.modAcc_sliceErrs (s : State) (id : Nat) (f : Access → Access) : (s.modAcc id f).sliceErrs = s.sliceErrs := rfl
@[simp] theorem State.modAcc_lines (s : State) (id : Nat) (f : Access → Access) : (s.modAcc id f).lines = s.lines := rfl
@[simp] theorem State.modAcc_narrow (s : State) (id : Nat) (f : Access → Access) : (s.modAcc id f).narrow = s.narrow := rfl
@[simp] theorem State.modAcc_l1 (s : State) (id : Nat) (f : Access → Access) : (s.modAcc id f).l1 = s.l1 := rfl
@[simp] theorem State.modAcc_icache (s : State) (id : Nat) (f : Access → Access) : (s.modAcc id f).icache = s.icache := rfl
@[simp] theorem State.modAcc_tlb (s : State) (id : Nat) (f : Access → Access) : (s.modAcc id f).tlb = s.tlb := rfl
@[simp] theorem State.modAcc_walks (s : State) (id : Nat) (f : Access → Access) : (s.modAcc id f).walks = s.walks := rfl
@[simp] theorem State.modAcc_walked (s : State) (id : Nat) (f : Access → Access) : (s.modAcc id f).walked = s.walked := rfl
@[simp] theorem State.modAcc_watch (s : State) (id : Nat) (f : Access → Access) : (s.modAcc id f).watch = s.watch := rfl
@[simp] theorem State.modAcc_issue (s : State) (id : Nat) (f : Access → Access) : (s.modAcc id f).issue = s.issue := rfl
@[simp] theorem State.modAcc_teams (s : State) (id : Nat) (f : Access → Access) : (s.modAcc id f).teams = s.teams := rfl
@[simp] theorem State.modAcc_clusters (s : State) (id : Nat) (f : Access → Access) : (s.modAcc id f).clusters = s.clusters := rfl
@[simp] theorem State.modAcc_grids (s : State) (id : Nat) (f : Access → Access) : (s.modAcc id f).grids = s.grids := rfl
@[simp] theorem State.modAcc_engs (s : State) (id : Nat) (f : Access → Access) : (s.modAcc id f).engs = s.engs := rfl
@[simp] theorem State.modAcc_cxtBase (s : State) (id : Nat) (f : Access → Access) : (s.modAcc id f).cxtBase = s.cxtBase := rfl
@[simp] theorem State.modAcc_cxDone (s : State) (id : Nat) (f : Access → Access) : (s.modAcc id f).cxDone = s.cxDone := rfl
@[simp] theorem State.modAcc_cxtWords (s : State) (id : Nat) (f : Access → Access) : (s.modAcc id f).cxtWords = s.cxtWords := rfl
@[simp] theorem State.modAcc_ctxs (s : State) (id : Nat) (f : Access → Access) : (s.modAcc id f).ctxs = s.ctxs := rfl
@[simp] theorem State.modAcc_cmds (s : State) (id : Nat) (f : Access → Access) : (s.modAcc id f).cmds = s.cmds := rfl
@[simp] theorem State.modAcc_waits (s : State) (id : Nat) (f : Access → Access) : (s.modAcc id f).waits = s.waits := rfl
@[simp] theorem State.modAcc_queues (s : State) (id : Nat) (f : Access → Access) : (s.modAcc id f).queues = s.queues := rfl
@[simp] theorem State.modAcc_colls (s : State) (id : Nat) (f : Access → Access) : (s.modAcc id f).colls = s.colls := rfl
@[simp] theorem State.modAcc_ual (s : State) (id : Nat) (f : Access → Access) : (s.modAcc id f).ual = s.ual := rfl
@[simp] theorem State.modAcc_dbg (s : State) (id : Nat) (f : Access → Access) : (s.modAcc id f).dbg = s.dbg := rfl
@[simp] theorem State.modAcc_die0 (s : State) (id : Nat) (f : Access → Access) : (s.modAcc id f).die0 = s.die0 := rfl
@[simp] theorem State.modAcc_die1 (s : State) (id : Nat) (f : Access → Access) : (s.modAcc id f).die1 = s.die1 := rfl
@[simp] theorem State.modAcc_svc (s : State) (id : Nat) (f : Access → Access) : (s.modAcc id f).svc = s.svc := rfl
@[simp] theorem State.modAcc_link (s : State) (id : Nat) (f : Access → Access) : (s.modAcc id f).link = s.link := rfl
@[simp] theorem State.modAcc_msix (s : State) (id : Nat) (f : Access → Access) : (s.modAcc id f).msix = s.msix := rfl
@[simp] theorem State.modAcc_msixPending (s : State) (id : Nat) (f : Access → Access) : (s.modAcc id f).msixPending = s.msixPending := rfl
@[simp] theorem State.modAcc_jtag (s : State) (id : Nat) (f : Access → Access) : (s.modAcc id f).jtag = s.jtag := rfl
@[simp] theorem State.modAcc_now (s : State) (id : Nat) (f : Access → Access) : (s.modAcc id f).now = s.now := rfl
@[simp] theorem State.modAcc_nextAcc (s : State) (id : Nat) (f : Access → Access) : (s.modAcc id f).nextAcc = s.nextAcc := rfl
@[simp] theorem State.modAcc_nextId (s : State) (id : Nat) (f : Access → Access) : (s.modAcc id f).nextId = s.nextId := rfl
@[simp] theorem State.modAcc_inputs (s : State) (id : Nat) (f : Access → Access) : (s.modAcc id f).inputs = s.inputs := rfl
@[simp] theorem State.modAcc_out (s : State) (id : Nat) (f : Access → Access) : (s.modAcc id f).out = s.out := rfl
@[simp] theorem State.modAcc_draws (s : State) (id : Nat) (f : Access → Access) : (s.modAcc id f).draws = s.draws := rfl

/-! ### dropAcc -/

@[simp] theorem State.dropAcc_mem (s : State) (id : Nat) : (s.dropAcc id).mem = s.mem := rfl
@[simp] theorem State.dropAcc_poison (s : State) (id : Nat) : (s.dropAcc id).poison = s.poison := rfl
@[simp] theorem State.dropAcc_sliceErrs (s : State) (id : Nat) : (s.dropAcc id).sliceErrs = s.sliceErrs := rfl
@[simp] theorem State.dropAcc_lines (s : State) (id : Nat) : (s.dropAcc id).lines = s.lines := rfl
@[simp] theorem State.dropAcc_narrow (s : State) (id : Nat) : (s.dropAcc id).narrow = s.narrow := rfl
@[simp] theorem State.dropAcc_l1 (s : State) (id : Nat) : (s.dropAcc id).l1 = s.l1 := rfl
@[simp] theorem State.dropAcc_icache (s : State) (id : Nat) : (s.dropAcc id).icache = s.icache := rfl
@[simp] theorem State.dropAcc_tlb (s : State) (id : Nat) : (s.dropAcc id).tlb = s.tlb := rfl
@[simp] theorem State.dropAcc_walks (s : State) (id : Nat) : (s.dropAcc id).walks = s.walks := rfl
@[simp] theorem State.dropAcc_walked (s : State) (id : Nat) : (s.dropAcc id).walked = s.walked := rfl
@[simp] theorem State.dropAcc_watch (s : State) (id : Nat) : (s.dropAcc id).watch = s.watch := rfl
@[simp] theorem State.dropAcc_issue (s : State) (id : Nat) : (s.dropAcc id).issue = s.issue := rfl
@[simp] theorem State.dropAcc_teams (s : State) (id : Nat) : (s.dropAcc id).teams = s.teams := rfl
@[simp] theorem State.dropAcc_clusters (s : State) (id : Nat) : (s.dropAcc id).clusters = s.clusters := rfl
@[simp] theorem State.dropAcc_grids (s : State) (id : Nat) : (s.dropAcc id).grids = s.grids := rfl
@[simp] theorem State.dropAcc_engs (s : State) (id : Nat) : (s.dropAcc id).engs = s.engs := rfl
@[simp] theorem State.dropAcc_cxtBase (s : State) (id : Nat) : (s.dropAcc id).cxtBase = s.cxtBase := rfl
@[simp] theorem State.dropAcc_cxDone (s : State) (id : Nat) : (s.dropAcc id).cxDone = s.cxDone := rfl
@[simp] theorem State.dropAcc_cxtWords (s : State) (id : Nat) : (s.dropAcc id).cxtWords = s.cxtWords := rfl
@[simp] theorem State.dropAcc_ctxs (s : State) (id : Nat) : (s.dropAcc id).ctxs = s.ctxs := rfl
@[simp] theorem State.dropAcc_cmds (s : State) (id : Nat) : (s.dropAcc id).cmds = s.cmds := rfl
@[simp] theorem State.dropAcc_waits (s : State) (id : Nat) : (s.dropAcc id).waits = s.waits := rfl
@[simp] theorem State.dropAcc_queues (s : State) (id : Nat) : (s.dropAcc id).queues = s.queues := rfl
@[simp] theorem State.dropAcc_colls (s : State) (id : Nat) : (s.dropAcc id).colls = s.colls := rfl
@[simp] theorem State.dropAcc_ual (s : State) (id : Nat) : (s.dropAcc id).ual = s.ual := rfl
@[simp] theorem State.dropAcc_dbg (s : State) (id : Nat) : (s.dropAcc id).dbg = s.dbg := rfl
@[simp] theorem State.dropAcc_die0 (s : State) (id : Nat) : (s.dropAcc id).die0 = s.die0 := rfl
@[simp] theorem State.dropAcc_die1 (s : State) (id : Nat) : (s.dropAcc id).die1 = s.die1 := rfl
@[simp] theorem State.dropAcc_svc (s : State) (id : Nat) : (s.dropAcc id).svc = s.svc := rfl
@[simp] theorem State.dropAcc_link (s : State) (id : Nat) : (s.dropAcc id).link = s.link := rfl
@[simp] theorem State.dropAcc_msix (s : State) (id : Nat) : (s.dropAcc id).msix = s.msix := rfl
@[simp] theorem State.dropAcc_msixPending (s : State) (id : Nat) : (s.dropAcc id).msixPending = s.msixPending := rfl
@[simp] theorem State.dropAcc_jtag (s : State) (id : Nat) : (s.dropAcc id).jtag = s.jtag := rfl
@[simp] theorem State.dropAcc_now (s : State) (id : Nat) : (s.dropAcc id).now = s.now := rfl
@[simp] theorem State.dropAcc_nextAcc (s : State) (id : Nat) : (s.dropAcc id).nextAcc = s.nextAcc := rfl
@[simp] theorem State.dropAcc_nextId (s : State) (id : Nat) : (s.dropAcc id).nextId = s.nextId := rfl
@[simp] theorem State.dropAcc_inputs (s : State) (id : Nat) : (s.dropAcc id).inputs = s.inputs := rfl
@[simp] theorem State.dropAcc_out (s : State) (id : Nat) : (s.dropAcc id).out = s.out := rfl
@[simp] theorem State.dropAcc_draws (s : State) (id : Nat) : (s.dropAcc id).draws = s.draws := rfl

/-! ### modCtx -/

@[simp] theorem State.modCtx_mem (s : State) (id : Nat) (f : Context → Context) : (s.modCtx id f).mem = s.mem := rfl
@[simp] theorem State.modCtx_poison (s : State) (id : Nat) (f : Context → Context) : (s.modCtx id f).poison = s.poison := rfl
@[simp] theorem State.modCtx_sliceErrs (s : State) (id : Nat) (f : Context → Context) : (s.modCtx id f).sliceErrs = s.sliceErrs := rfl
@[simp] theorem State.modCtx_lines (s : State) (id : Nat) (f : Context → Context) : (s.modCtx id f).lines = s.lines := rfl
@[simp] theorem State.modCtx_narrow (s : State) (id : Nat) (f : Context → Context) : (s.modCtx id f).narrow = s.narrow := rfl
@[simp] theorem State.modCtx_l1 (s : State) (id : Nat) (f : Context → Context) : (s.modCtx id f).l1 = s.l1 := rfl
@[simp] theorem State.modCtx_icache (s : State) (id : Nat) (f : Context → Context) : (s.modCtx id f).icache = s.icache := rfl
@[simp] theorem State.modCtx_tlb (s : State) (id : Nat) (f : Context → Context) : (s.modCtx id f).tlb = s.tlb := rfl
@[simp] theorem State.modCtx_walks (s : State) (id : Nat) (f : Context → Context) : (s.modCtx id f).walks = s.walks := rfl
@[simp] theorem State.modCtx_walked (s : State) (id : Nat) (f : Context → Context) : (s.modCtx id f).walked = s.walked := rfl
@[simp] theorem State.modCtx_watch (s : State) (id : Nat) (f : Context → Context) : (s.modCtx id f).watch = s.watch := rfl
@[simp] theorem State.modCtx_accs (s : State) (id : Nat) (f : Context → Context) : (s.modCtx id f).accs = s.accs := rfl
@[simp] theorem State.modCtx_issue (s : State) (id : Nat) (f : Context → Context) : (s.modCtx id f).issue = s.issue := rfl
@[simp] theorem State.modCtx_teams (s : State) (id : Nat) (f : Context → Context) : (s.modCtx id f).teams = s.teams := rfl
@[simp] theorem State.modCtx_clusters (s : State) (id : Nat) (f : Context → Context) : (s.modCtx id f).clusters = s.clusters := rfl
@[simp] theorem State.modCtx_grids (s : State) (id : Nat) (f : Context → Context) : (s.modCtx id f).grids = s.grids := rfl
@[simp] theorem State.modCtx_engs (s : State) (id : Nat) (f : Context → Context) : (s.modCtx id f).engs = s.engs := rfl
@[simp] theorem State.modCtx_cxtBase (s : State) (id : Nat) (f : Context → Context) : (s.modCtx id f).cxtBase = s.cxtBase := rfl
@[simp] theorem State.modCtx_cxDone (s : State) (id : Nat) (f : Context → Context) : (s.modCtx id f).cxDone = s.cxDone := rfl
@[simp] theorem State.modCtx_cxtWords (s : State) (id : Nat) (f : Context → Context) : (s.modCtx id f).cxtWords = s.cxtWords := rfl
@[simp] theorem State.modCtx_cmds (s : State) (id : Nat) (f : Context → Context) : (s.modCtx id f).cmds = s.cmds := rfl
@[simp] theorem State.modCtx_waits (s : State) (id : Nat) (f : Context → Context) : (s.modCtx id f).waits = s.waits := rfl
@[simp] theorem State.modCtx_queues (s : State) (id : Nat) (f : Context → Context) : (s.modCtx id f).queues = s.queues := rfl
@[simp] theorem State.modCtx_colls (s : State) (id : Nat) (f : Context → Context) : (s.modCtx id f).colls = s.colls := rfl
@[simp] theorem State.modCtx_ual (s : State) (id : Nat) (f : Context → Context) : (s.modCtx id f).ual = s.ual := rfl
@[simp] theorem State.modCtx_dbg (s : State) (id : Nat) (f : Context → Context) : (s.modCtx id f).dbg = s.dbg := rfl
@[simp] theorem State.modCtx_die0 (s : State) (id : Nat) (f : Context → Context) : (s.modCtx id f).die0 = s.die0 := rfl
@[simp] theorem State.modCtx_die1 (s : State) (id : Nat) (f : Context → Context) : (s.modCtx id f).die1 = s.die1 := rfl
@[simp] theorem State.modCtx_svc (s : State) (id : Nat) (f : Context → Context) : (s.modCtx id f).svc = s.svc := rfl
@[simp] theorem State.modCtx_link (s : State) (id : Nat) (f : Context → Context) : (s.modCtx id f).link = s.link := rfl
@[simp] theorem State.modCtx_msix (s : State) (id : Nat) (f : Context → Context) : (s.modCtx id f).msix = s.msix := rfl
@[simp] theorem State.modCtx_msixPending (s : State) (id : Nat) (f : Context → Context) : (s.modCtx id f).msixPending = s.msixPending := rfl
@[simp] theorem State.modCtx_jtag (s : State) (id : Nat) (f : Context → Context) : (s.modCtx id f).jtag = s.jtag := rfl
@[simp] theorem State.modCtx_now (s : State) (id : Nat) (f : Context → Context) : (s.modCtx id f).now = s.now := rfl
@[simp] theorem State.modCtx_nextAcc (s : State) (id : Nat) (f : Context → Context) : (s.modCtx id f).nextAcc = s.nextAcc := rfl
@[simp] theorem State.modCtx_nextId (s : State) (id : Nat) (f : Context → Context) : (s.modCtx id f).nextId = s.nextId := rfl
@[simp] theorem State.modCtx_inputs (s : State) (id : Nat) (f : Context → Context) : (s.modCtx id f).inputs = s.inputs := rfl
@[simp] theorem State.modCtx_out (s : State) (id : Nat) (f : Context → Context) : (s.modCtx id f).out = s.out := rfl
@[simp] theorem State.modCtx_draws (s : State) (id : Nat) (f : Context → Context) : (s.modCtx id f).draws = s.draws := rfl

/-! ### setQueue -/

@[simp] theorem State.setQueue_mem (s : State) (q : Nat) (v : Queue) : (s.setQueue q v).mem = s.mem := rfl
@[simp] theorem State.setQueue_poison (s : State) (q : Nat) (v : Queue) : (s.setQueue q v).poison = s.poison := rfl
@[simp] theorem State.setQueue_sliceErrs (s : State) (q : Nat) (v : Queue) : (s.setQueue q v).sliceErrs = s.sliceErrs := rfl
@[simp] theorem State.setQueue_lines (s : State) (q : Nat) (v : Queue) : (s.setQueue q v).lines = s.lines := rfl
@[simp] theorem State.setQueue_narrow (s : State) (q : Nat) (v : Queue) : (s.setQueue q v).narrow = s.narrow := rfl
@[simp] theorem State.setQueue_l1 (s : State) (q : Nat) (v : Queue) : (s.setQueue q v).l1 = s.l1 := rfl
@[simp] theorem State.setQueue_icache (s : State) (q : Nat) (v : Queue) : (s.setQueue q v).icache = s.icache := rfl
@[simp] theorem State.setQueue_tlb (s : State) (q : Nat) (v : Queue) : (s.setQueue q v).tlb = s.tlb := rfl
@[simp] theorem State.setQueue_walks (s : State) (q : Nat) (v : Queue) : (s.setQueue q v).walks = s.walks := rfl
@[simp] theorem State.setQueue_walked (s : State) (q : Nat) (v : Queue) : (s.setQueue q v).walked = s.walked := rfl
@[simp] theorem State.setQueue_watch (s : State) (q : Nat) (v : Queue) : (s.setQueue q v).watch = s.watch := rfl
@[simp] theorem State.setQueue_accs (s : State) (q : Nat) (v : Queue) : (s.setQueue q v).accs = s.accs := rfl
@[simp] theorem State.setQueue_issue (s : State) (q : Nat) (v : Queue) : (s.setQueue q v).issue = s.issue := rfl
@[simp] theorem State.setQueue_teams (s : State) (q : Nat) (v : Queue) : (s.setQueue q v).teams = s.teams := rfl
@[simp] theorem State.setQueue_clusters (s : State) (q : Nat) (v : Queue) : (s.setQueue q v).clusters = s.clusters := rfl
@[simp] theorem State.setQueue_grids (s : State) (q : Nat) (v : Queue) : (s.setQueue q v).grids = s.grids := rfl
@[simp] theorem State.setQueue_engs (s : State) (q : Nat) (v : Queue) : (s.setQueue q v).engs = s.engs := rfl
@[simp] theorem State.setQueue_cxtBase (s : State) (q : Nat) (v : Queue) : (s.setQueue q v).cxtBase = s.cxtBase := rfl
@[simp] theorem State.setQueue_cxDone (s : State) (q : Nat) (v : Queue) : (s.setQueue q v).cxDone = s.cxDone := rfl
@[simp] theorem State.setQueue_cxtWords (s : State) (q : Nat) (v : Queue) : (s.setQueue q v).cxtWords = s.cxtWords := rfl
@[simp] theorem State.setQueue_ctxs (s : State) (q : Nat) (v : Queue) : (s.setQueue q v).ctxs = s.ctxs := rfl
@[simp] theorem State.setQueue_cmds (s : State) (q : Nat) (v : Queue) : (s.setQueue q v).cmds = s.cmds := rfl
@[simp] theorem State.setQueue_waits (s : State) (q : Nat) (v : Queue) : (s.setQueue q v).waits = s.waits := rfl
@[simp] theorem State.setQueue_colls (s : State) (q : Nat) (v : Queue) : (s.setQueue q v).colls = s.colls := rfl
@[simp] theorem State.setQueue_ual (s : State) (q : Nat) (v : Queue) : (s.setQueue q v).ual = s.ual := rfl
@[simp] theorem State.setQueue_dbg (s : State) (q : Nat) (v : Queue) : (s.setQueue q v).dbg = s.dbg := rfl
@[simp] theorem State.setQueue_die0 (s : State) (q : Nat) (v : Queue) : (s.setQueue q v).die0 = s.die0 := rfl
@[simp] theorem State.setQueue_die1 (s : State) (q : Nat) (v : Queue) : (s.setQueue q v).die1 = s.die1 := rfl
@[simp] theorem State.setQueue_svc (s : State) (q : Nat) (v : Queue) : (s.setQueue q v).svc = s.svc := rfl
@[simp] theorem State.setQueue_link (s : State) (q : Nat) (v : Queue) : (s.setQueue q v).link = s.link := rfl
@[simp] theorem State.setQueue_msix (s : State) (q : Nat) (v : Queue) : (s.setQueue q v).msix = s.msix := rfl
@[simp] theorem State.setQueue_msixPending (s : State) (q : Nat) (v : Queue) : (s.setQueue q v).msixPending = s.msixPending := rfl
@[simp] theorem State.setQueue_jtag (s : State) (q : Nat) (v : Queue) : (s.setQueue q v).jtag = s.jtag := rfl
@[simp] theorem State.setQueue_now (s : State) (q : Nat) (v : Queue) : (s.setQueue q v).now = s.now := rfl
@[simp] theorem State.setQueue_nextAcc (s : State) (q : Nat) (v : Queue) : (s.setQueue q v).nextAcc = s.nextAcc := rfl
@[simp] theorem State.setQueue_nextId (s : State) (q : Nat) (v : Queue) : (s.setQueue q v).nextId = s.nextId := rfl
@[simp] theorem State.setQueue_inputs (s : State) (q : Nat) (v : Queue) : (s.setQueue q v).inputs = s.inputs := rfl
@[simp] theorem State.setQueue_out (s : State) (q : Nat) (v : Queue) : (s.setQueue q v).out = s.out := rfl
@[simp] theorem State.setQueue_draws (s : State) (q : Nat) (v : Queue) : (s.setQueue q v).draws = s.draws := rfl

/-! ### modQueue -/

@[simp] theorem State.modQueue_mem (s : State) (q : Nat) (f : Queue → Queue) : (s.modQueue q f).mem = s.mem := rfl
@[simp] theorem State.modQueue_poison (s : State) (q : Nat) (f : Queue → Queue) : (s.modQueue q f).poison = s.poison := rfl
@[simp] theorem State.modQueue_sliceErrs (s : State) (q : Nat) (f : Queue → Queue) : (s.modQueue q f).sliceErrs = s.sliceErrs := rfl
@[simp] theorem State.modQueue_lines (s : State) (q : Nat) (f : Queue → Queue) : (s.modQueue q f).lines = s.lines := rfl
@[simp] theorem State.modQueue_narrow (s : State) (q : Nat) (f : Queue → Queue) : (s.modQueue q f).narrow = s.narrow := rfl
@[simp] theorem State.modQueue_l1 (s : State) (q : Nat) (f : Queue → Queue) : (s.modQueue q f).l1 = s.l1 := rfl
@[simp] theorem State.modQueue_icache (s : State) (q : Nat) (f : Queue → Queue) : (s.modQueue q f).icache = s.icache := rfl
@[simp] theorem State.modQueue_tlb (s : State) (q : Nat) (f : Queue → Queue) : (s.modQueue q f).tlb = s.tlb := rfl
@[simp] theorem State.modQueue_walks (s : State) (q : Nat) (f : Queue → Queue) : (s.modQueue q f).walks = s.walks := rfl
@[simp] theorem State.modQueue_walked (s : State) (q : Nat) (f : Queue → Queue) : (s.modQueue q f).walked = s.walked := rfl
@[simp] theorem State.modQueue_watch (s : State) (q : Nat) (f : Queue → Queue) : (s.modQueue q f).watch = s.watch := rfl
@[simp] theorem State.modQueue_accs (s : State) (q : Nat) (f : Queue → Queue) : (s.modQueue q f).accs = s.accs := rfl
@[simp] theorem State.modQueue_issue (s : State) (q : Nat) (f : Queue → Queue) : (s.modQueue q f).issue = s.issue := rfl
@[simp] theorem State.modQueue_teams (s : State) (q : Nat) (f : Queue → Queue) : (s.modQueue q f).teams = s.teams := rfl
@[simp] theorem State.modQueue_clusters (s : State) (q : Nat) (f : Queue → Queue) : (s.modQueue q f).clusters = s.clusters := rfl
@[simp] theorem State.modQueue_grids (s : State) (q : Nat) (f : Queue → Queue) : (s.modQueue q f).grids = s.grids := rfl
@[simp] theorem State.modQueue_engs (s : State) (q : Nat) (f : Queue → Queue) : (s.modQueue q f).engs = s.engs := rfl
@[simp] theorem State.modQueue_cxtBase (s : State) (q : Nat) (f : Queue → Queue) : (s.modQueue q f).cxtBase = s.cxtBase := rfl
@[simp] theorem State.modQueue_cxDone (s : State) (q : Nat) (f : Queue → Queue) : (s.modQueue q f).cxDone = s.cxDone := rfl
@[simp] theorem State.modQueue_cxtWords (s : State) (q : Nat) (f : Queue → Queue) : (s.modQueue q f).cxtWords = s.cxtWords := rfl
@[simp] theorem State.modQueue_ctxs (s : State) (q : Nat) (f : Queue → Queue) : (s.modQueue q f).ctxs = s.ctxs := rfl
@[simp] theorem State.modQueue_cmds (s : State) (q : Nat) (f : Queue → Queue) : (s.modQueue q f).cmds = s.cmds := rfl
@[simp] theorem State.modQueue_waits (s : State) (q : Nat) (f : Queue → Queue) : (s.modQueue q f).waits = s.waits := rfl
@[simp] theorem State.modQueue_colls (s : State) (q : Nat) (f : Queue → Queue) : (s.modQueue q f).colls = s.colls := rfl
@[simp] theorem State.modQueue_ual (s : State) (q : Nat) (f : Queue → Queue) : (s.modQueue q f).ual = s.ual := rfl
@[simp] theorem State.modQueue_dbg (s : State) (q : Nat) (f : Queue → Queue) : (s.modQueue q f).dbg = s.dbg := rfl
@[simp] theorem State.modQueue_die0 (s : State) (q : Nat) (f : Queue → Queue) : (s.modQueue q f).die0 = s.die0 := rfl
@[simp] theorem State.modQueue_die1 (s : State) (q : Nat) (f : Queue → Queue) : (s.modQueue q f).die1 = s.die1 := rfl
@[simp] theorem State.modQueue_svc (s : State) (q : Nat) (f : Queue → Queue) : (s.modQueue q f).svc = s.svc := rfl
@[simp] theorem State.modQueue_link (s : State) (q : Nat) (f : Queue → Queue) : (s.modQueue q f).link = s.link := rfl
@[simp] theorem State.modQueue_msix (s : State) (q : Nat) (f : Queue → Queue) : (s.modQueue q f).msix = s.msix := rfl
@[simp] theorem State.modQueue_msixPending (s : State) (q : Nat) (f : Queue → Queue) : (s.modQueue q f).msixPending = s.msixPending := rfl
@[simp] theorem State.modQueue_jtag (s : State) (q : Nat) (f : Queue → Queue) : (s.modQueue q f).jtag = s.jtag := rfl
@[simp] theorem State.modQueue_now (s : State) (q : Nat) (f : Queue → Queue) : (s.modQueue q f).now = s.now := rfl
@[simp] theorem State.modQueue_nextAcc (s : State) (q : Nat) (f : Queue → Queue) : (s.modQueue q f).nextAcc = s.nextAcc := rfl
@[simp] theorem State.modQueue_nextId (s : State) (q : Nat) (f : Queue → Queue) : (s.modQueue q f).nextId = s.nextId := rfl
@[simp] theorem State.modQueue_inputs (s : State) (q : Nat) (f : Queue → Queue) : (s.modQueue q f).inputs = s.inputs := rfl
@[simp] theorem State.modQueue_out (s : State) (q : Nat) (f : Queue → Queue) : (s.modQueue q f).out = s.out := rfl
@[simp] theorem State.modQueue_draws (s : State) (q : Nat) (f : Queue → Queue) : (s.modQueue q f).draws = s.draws := rfl

/-! ### modColl -/

@[simp] theorem State.modColl_mem (s : State) (id : Nat) (f : Coll → Coll) : (s.modColl id f).mem = s.mem := rfl
@[simp] theorem State.modColl_poison (s : State) (id : Nat) (f : Coll → Coll) : (s.modColl id f).poison = s.poison := rfl
@[simp] theorem State.modColl_sliceErrs (s : State) (id : Nat) (f : Coll → Coll) : (s.modColl id f).sliceErrs = s.sliceErrs := rfl
@[simp] theorem State.modColl_lines (s : State) (id : Nat) (f : Coll → Coll) : (s.modColl id f).lines = s.lines := rfl
@[simp] theorem State.modColl_narrow (s : State) (id : Nat) (f : Coll → Coll) : (s.modColl id f).narrow = s.narrow := rfl
@[simp] theorem State.modColl_l1 (s : State) (id : Nat) (f : Coll → Coll) : (s.modColl id f).l1 = s.l1 := rfl
@[simp] theorem State.modColl_icache (s : State) (id : Nat) (f : Coll → Coll) : (s.modColl id f).icache = s.icache := rfl
@[simp] theorem State.modColl_tlb (s : State) (id : Nat) (f : Coll → Coll) : (s.modColl id f).tlb = s.tlb := rfl
@[simp] theorem State.modColl_walks (s : State) (id : Nat) (f : Coll → Coll) : (s.modColl id f).walks = s.walks := rfl
@[simp] theorem State.modColl_walked (s : State) (id : Nat) (f : Coll → Coll) : (s.modColl id f).walked = s.walked := rfl
@[simp] theorem State.modColl_watch (s : State) (id : Nat) (f : Coll → Coll) : (s.modColl id f).watch = s.watch := rfl
@[simp] theorem State.modColl_accs (s : State) (id : Nat) (f : Coll → Coll) : (s.modColl id f).accs = s.accs := rfl
@[simp] theorem State.modColl_issue (s : State) (id : Nat) (f : Coll → Coll) : (s.modColl id f).issue = s.issue := rfl
@[simp] theorem State.modColl_teams (s : State) (id : Nat) (f : Coll → Coll) : (s.modColl id f).teams = s.teams := rfl
@[simp] theorem State.modColl_clusters (s : State) (id : Nat) (f : Coll → Coll) : (s.modColl id f).clusters = s.clusters := rfl
@[simp] theorem State.modColl_grids (s : State) (id : Nat) (f : Coll → Coll) : (s.modColl id f).grids = s.grids := rfl
@[simp] theorem State.modColl_engs (s : State) (id : Nat) (f : Coll → Coll) : (s.modColl id f).engs = s.engs := rfl
@[simp] theorem State.modColl_cxtBase (s : State) (id : Nat) (f : Coll → Coll) : (s.modColl id f).cxtBase = s.cxtBase := rfl
@[simp] theorem State.modColl_cxDone (s : State) (id : Nat) (f : Coll → Coll) : (s.modColl id f).cxDone = s.cxDone := rfl
@[simp] theorem State.modColl_cxtWords (s : State) (id : Nat) (f : Coll → Coll) : (s.modColl id f).cxtWords = s.cxtWords := rfl
@[simp] theorem State.modColl_ctxs (s : State) (id : Nat) (f : Coll → Coll) : (s.modColl id f).ctxs = s.ctxs := rfl
@[simp] theorem State.modColl_cmds (s : State) (id : Nat) (f : Coll → Coll) : (s.modColl id f).cmds = s.cmds := rfl
@[simp] theorem State.modColl_waits (s : State) (id : Nat) (f : Coll → Coll) : (s.modColl id f).waits = s.waits := rfl
@[simp] theorem State.modColl_queues (s : State) (id : Nat) (f : Coll → Coll) : (s.modColl id f).queues = s.queues := rfl
@[simp] theorem State.modColl_ual (s : State) (id : Nat) (f : Coll → Coll) : (s.modColl id f).ual = s.ual := rfl
@[simp] theorem State.modColl_dbg (s : State) (id : Nat) (f : Coll → Coll) : (s.modColl id f).dbg = s.dbg := rfl
@[simp] theorem State.modColl_die0 (s : State) (id : Nat) (f : Coll → Coll) : (s.modColl id f).die0 = s.die0 := rfl
@[simp] theorem State.modColl_die1 (s : State) (id : Nat) (f : Coll → Coll) : (s.modColl id f).die1 = s.die1 := rfl
@[simp] theorem State.modColl_svc (s : State) (id : Nat) (f : Coll → Coll) : (s.modColl id f).svc = s.svc := rfl
@[simp] theorem State.modColl_link (s : State) (id : Nat) (f : Coll → Coll) : (s.modColl id f).link = s.link := rfl
@[simp] theorem State.modColl_msix (s : State) (id : Nat) (f : Coll → Coll) : (s.modColl id f).msix = s.msix := rfl
@[simp] theorem State.modColl_msixPending (s : State) (id : Nat) (f : Coll → Coll) : (s.modColl id f).msixPending = s.msixPending := rfl
@[simp] theorem State.modColl_jtag (s : State) (id : Nat) (f : Coll → Coll) : (s.modColl id f).jtag = s.jtag := rfl
@[simp] theorem State.modColl_now (s : State) (id : Nat) (f : Coll → Coll) : (s.modColl id f).now = s.now := rfl
@[simp] theorem State.modColl_nextAcc (s : State) (id : Nat) (f : Coll → Coll) : (s.modColl id f).nextAcc = s.nextAcc := rfl
@[simp] theorem State.modColl_nextId (s : State) (id : Nat) (f : Coll → Coll) : (s.modColl id f).nextId = s.nextId := rfl
@[simp] theorem State.modColl_inputs (s : State) (id : Nat) (f : Coll → Coll) : (s.modColl id f).inputs = s.inputs := rfl
@[simp] theorem State.modColl_out (s : State) (id : Nat) (f : Coll → Coll) : (s.modColl id f).out = s.out := rfl
@[simp] theorem State.modColl_draws (s : State) (id : Nat) (f : Coll → Coll) : (s.modColl id f).draws = s.draws := rfl

/-! ### modPage -/

@[simp] theorem State.modPage_mem (s : State) (n : Nat) (f : DbgPage → DbgPage) : (s.modPage n f).mem = s.mem := rfl
@[simp] theorem State.modPage_poison (s : State) (n : Nat) (f : DbgPage → DbgPage) : (s.modPage n f).poison = s.poison := rfl
@[simp] theorem State.modPage_sliceErrs (s : State) (n : Nat) (f : DbgPage → DbgPage) : (s.modPage n f).sliceErrs = s.sliceErrs := rfl
@[simp] theorem State.modPage_lines (s : State) (n : Nat) (f : DbgPage → DbgPage) : (s.modPage n f).lines = s.lines := rfl
@[simp] theorem State.modPage_narrow (s : State) (n : Nat) (f : DbgPage → DbgPage) : (s.modPage n f).narrow = s.narrow := rfl
@[simp] theorem State.modPage_l1 (s : State) (n : Nat) (f : DbgPage → DbgPage) : (s.modPage n f).l1 = s.l1 := rfl
@[simp] theorem State.modPage_icache (s : State) (n : Nat) (f : DbgPage → DbgPage) : (s.modPage n f).icache = s.icache := rfl
@[simp] theorem State.modPage_tlb (s : State) (n : Nat) (f : DbgPage → DbgPage) : (s.modPage n f).tlb = s.tlb := rfl
@[simp] theorem State.modPage_walks (s : State) (n : Nat) (f : DbgPage → DbgPage) : (s.modPage n f).walks = s.walks := rfl
@[simp] theorem State.modPage_walked (s : State) (n : Nat) (f : DbgPage → DbgPage) : (s.modPage n f).walked = s.walked := rfl
@[simp] theorem State.modPage_watch (s : State) (n : Nat) (f : DbgPage → DbgPage) : (s.modPage n f).watch = s.watch := rfl
@[simp] theorem State.modPage_accs (s : State) (n : Nat) (f : DbgPage → DbgPage) : (s.modPage n f).accs = s.accs := rfl
@[simp] theorem State.modPage_issue (s : State) (n : Nat) (f : DbgPage → DbgPage) : (s.modPage n f).issue = s.issue := rfl
@[simp] theorem State.modPage_teams (s : State) (n : Nat) (f : DbgPage → DbgPage) : (s.modPage n f).teams = s.teams := rfl
@[simp] theorem State.modPage_clusters (s : State) (n : Nat) (f : DbgPage → DbgPage) : (s.modPage n f).clusters = s.clusters := rfl
@[simp] theorem State.modPage_grids (s : State) (n : Nat) (f : DbgPage → DbgPage) : (s.modPage n f).grids = s.grids := rfl
@[simp] theorem State.modPage_engs (s : State) (n : Nat) (f : DbgPage → DbgPage) : (s.modPage n f).engs = s.engs := rfl
@[simp] theorem State.modPage_cxtBase (s : State) (n : Nat) (f : DbgPage → DbgPage) : (s.modPage n f).cxtBase = s.cxtBase := rfl
@[simp] theorem State.modPage_cxDone (s : State) (n : Nat) (f : DbgPage → DbgPage) : (s.modPage n f).cxDone = s.cxDone := rfl
@[simp] theorem State.modPage_cxtWords (s : State) (n : Nat) (f : DbgPage → DbgPage) : (s.modPage n f).cxtWords = s.cxtWords := rfl
@[simp] theorem State.modPage_ctxs (s : State) (n : Nat) (f : DbgPage → DbgPage) : (s.modPage n f).ctxs = s.ctxs := rfl
@[simp] theorem State.modPage_cmds (s : State) (n : Nat) (f : DbgPage → DbgPage) : (s.modPage n f).cmds = s.cmds := rfl
@[simp] theorem State.modPage_waits (s : State) (n : Nat) (f : DbgPage → DbgPage) : (s.modPage n f).waits = s.waits := rfl
@[simp] theorem State.modPage_queues (s : State) (n : Nat) (f : DbgPage → DbgPage) : (s.modPage n f).queues = s.queues := rfl
@[simp] theorem State.modPage_colls (s : State) (n : Nat) (f : DbgPage → DbgPage) : (s.modPage n f).colls = s.colls := rfl
@[simp] theorem State.modPage_ual (s : State) (n : Nat) (f : DbgPage → DbgPage) : (s.modPage n f).ual = s.ual := rfl
@[simp] theorem State.modPage_die0 (s : State) (n : Nat) (f : DbgPage → DbgPage) : (s.modPage n f).die0 = s.die0 := rfl
@[simp] theorem State.modPage_die1 (s : State) (n : Nat) (f : DbgPage → DbgPage) : (s.modPage n f).die1 = s.die1 := rfl
@[simp] theorem State.modPage_svc (s : State) (n : Nat) (f : DbgPage → DbgPage) : (s.modPage n f).svc = s.svc := rfl
@[simp] theorem State.modPage_link (s : State) (n : Nat) (f : DbgPage → DbgPage) : (s.modPage n f).link = s.link := rfl
@[simp] theorem State.modPage_msix (s : State) (n : Nat) (f : DbgPage → DbgPage) : (s.modPage n f).msix = s.msix := rfl
@[simp] theorem State.modPage_msixPending (s : State) (n : Nat) (f : DbgPage → DbgPage) : (s.modPage n f).msixPending = s.msixPending := rfl
@[simp] theorem State.modPage_jtag (s : State) (n : Nat) (f : DbgPage → DbgPage) : (s.modPage n f).jtag = s.jtag := rfl
@[simp] theorem State.modPage_now (s : State) (n : Nat) (f : DbgPage → DbgPage) : (s.modPage n f).now = s.now := rfl
@[simp] theorem State.modPage_nextAcc (s : State) (n : Nat) (f : DbgPage → DbgPage) : (s.modPage n f).nextAcc = s.nextAcc := rfl
@[simp] theorem State.modPage_nextId (s : State) (n : Nat) (f : DbgPage → DbgPage) : (s.modPage n f).nextId = s.nextId := rfl
@[simp] theorem State.modPage_inputs (s : State) (n : Nat) (f : DbgPage → DbgPage) : (s.modPage n f).inputs = s.inputs := rfl
@[simp] theorem State.modPage_out (s : State) (n : Nat) (f : DbgPage → DbgPage) : (s.modPage n f).out = s.out := rfl
@[simp] theorem State.modPage_draws (s : State) (n : Nat) (f : DbgPage → DbgPage) : (s.modPage n f).draws = s.draws := rfl

/-! ### emit -/

@[simp] theorem State.emit_mem (s : State) (m : OutMsg) : (s.emit m).mem = s.mem := rfl
@[simp] theorem State.emit_poison (s : State) (m : OutMsg) : (s.emit m).poison = s.poison := rfl
@[simp] theorem State.emit_sliceErrs (s : State) (m : OutMsg) : (s.emit m).sliceErrs = s.sliceErrs := rfl
@[simp] theorem State.emit_lines (s : State) (m : OutMsg) : (s.emit m).lines = s.lines := rfl
@[simp] theorem State.emit_narrow (s : State) (m : OutMsg) : (s.emit m).narrow = s.narrow := rfl
@[simp] theorem State.emit_l1 (s : State) (m : OutMsg) : (s.emit m).l1 = s.l1 := rfl
@[simp] theorem State.emit_icache (s : State) (m : OutMsg) : (s.emit m).icache = s.icache := rfl
@[simp] theorem State.emit_tlb (s : State) (m : OutMsg) : (s.emit m).tlb = s.tlb := rfl
@[simp] theorem State.emit_walks (s : State) (m : OutMsg) : (s.emit m).walks = s.walks := rfl
@[simp] theorem State.emit_walked (s : State) (m : OutMsg) : (s.emit m).walked = s.walked := rfl
@[simp] theorem State.emit_watch (s : State) (m : OutMsg) : (s.emit m).watch = s.watch := rfl
@[simp] theorem State.emit_accs (s : State) (m : OutMsg) : (s.emit m).accs = s.accs := rfl
@[simp] theorem State.emit_issue (s : State) (m : OutMsg) : (s.emit m).issue = s.issue := rfl
@[simp] theorem State.emit_teams (s : State) (m : OutMsg) : (s.emit m).teams = s.teams := rfl
@[simp] theorem State.emit_clusters (s : State) (m : OutMsg) : (s.emit m).clusters = s.clusters := rfl
@[simp] theorem State.emit_grids (s : State) (m : OutMsg) : (s.emit m).grids = s.grids := rfl
@[simp] theorem State.emit_engs (s : State) (m : OutMsg) : (s.emit m).engs = s.engs := rfl
@[simp] theorem State.emit_cxtBase (s : State) (m : OutMsg) : (s.emit m).cxtBase = s.cxtBase := rfl
@[simp] theorem State.emit_cxDone (s : State) (m : OutMsg) : (s.emit m).cxDone = s.cxDone := rfl
@[simp] theorem State.emit_cxtWords (s : State) (m : OutMsg) : (s.emit m).cxtWords = s.cxtWords := rfl
@[simp] theorem State.emit_ctxs (s : State) (m : OutMsg) : (s.emit m).ctxs = s.ctxs := rfl
@[simp] theorem State.emit_cmds (s : State) (m : OutMsg) : (s.emit m).cmds = s.cmds := rfl
@[simp] theorem State.emit_waits (s : State) (m : OutMsg) : (s.emit m).waits = s.waits := rfl
@[simp] theorem State.emit_queues (s : State) (m : OutMsg) : (s.emit m).queues = s.queues := rfl
@[simp] theorem State.emit_colls (s : State) (m : OutMsg) : (s.emit m).colls = s.colls := rfl
@[simp] theorem State.emit_ual (s : State) (m : OutMsg) : (s.emit m).ual = s.ual := rfl
@[simp] theorem State.emit_dbg (s : State) (m : OutMsg) : (s.emit m).dbg = s.dbg := rfl
@[simp] theorem State.emit_die0 (s : State) (m : OutMsg) : (s.emit m).die0 = s.die0 := rfl
@[simp] theorem State.emit_die1 (s : State) (m : OutMsg) : (s.emit m).die1 = s.die1 := rfl
@[simp] theorem State.emit_svc (s : State) (m : OutMsg) : (s.emit m).svc = s.svc := rfl
@[simp] theorem State.emit_link (s : State) (m : OutMsg) : (s.emit m).link = s.link := rfl
@[simp] theorem State.emit_msix (s : State) (m : OutMsg) : (s.emit m).msix = s.msix := rfl
@[simp] theorem State.emit_msixPending (s : State) (m : OutMsg) : (s.emit m).msixPending = s.msixPending := rfl
@[simp] theorem State.emit_jtag (s : State) (m : OutMsg) : (s.emit m).jtag = s.jtag := rfl
@[simp] theorem State.emit_now (s : State) (m : OutMsg) : (s.emit m).now = s.now := rfl
@[simp] theorem State.emit_nextAcc (s : State) (m : OutMsg) : (s.emit m).nextAcc = s.nextAcc := rfl
@[simp] theorem State.emit_nextId (s : State) (m : OutMsg) : (s.emit m).nextId = s.nextId := rfl
@[simp] theorem State.emit_inputs (s : State) (m : OutMsg) : (s.emit m).inputs = s.inputs := rfl
@[simp] theorem State.emit_draws (s : State) (m : OutMsg) : (s.emit m).draws = s.draws := rfl

/-! ### drawn -/

@[simp] theorem State.drawn_mem (s : State) : (s.drawn).mem = s.mem := rfl
@[simp] theorem State.drawn_poison (s : State) : (s.drawn).poison = s.poison := rfl
@[simp] theorem State.drawn_sliceErrs (s : State) : (s.drawn).sliceErrs = s.sliceErrs := rfl
@[simp] theorem State.drawn_lines (s : State) : (s.drawn).lines = s.lines := rfl
@[simp] theorem State.drawn_narrow (s : State) : (s.drawn).narrow = s.narrow := rfl
@[simp] theorem State.drawn_l1 (s : State) : (s.drawn).l1 = s.l1 := rfl
@[simp] theorem State.drawn_icache (s : State) : (s.drawn).icache = s.icache := rfl
@[simp] theorem State.drawn_tlb (s : State) : (s.drawn).tlb = s.tlb := rfl
@[simp] theorem State.drawn_walks (s : State) : (s.drawn).walks = s.walks := rfl
@[simp] theorem State.drawn_walked (s : State) : (s.drawn).walked = s.walked := rfl
@[simp] theorem State.drawn_watch (s : State) : (s.drawn).watch = s.watch := rfl
@[simp] theorem State.drawn_accs (s : State) : (s.drawn).accs = s.accs := rfl
@[simp] theorem State.drawn_issue (s : State) : (s.drawn).issue = s.issue := rfl
@[simp] theorem State.drawn_teams (s : State) : (s.drawn).teams = s.teams := rfl
@[simp] theorem State.drawn_clusters (s : State) : (s.drawn).clusters = s.clusters := rfl
@[simp] theorem State.drawn_grids (s : State) : (s.drawn).grids = s.grids := rfl
@[simp] theorem State.drawn_engs (s : State) : (s.drawn).engs = s.engs := rfl
@[simp] theorem State.drawn_cxtBase (s : State) : (s.drawn).cxtBase = s.cxtBase := rfl
@[simp] theorem State.drawn_cxDone (s : State) : (s.drawn).cxDone = s.cxDone := rfl
@[simp] theorem State.drawn_cxtWords (s : State) : (s.drawn).cxtWords = s.cxtWords := rfl
@[simp] theorem State.drawn_ctxs (s : State) : (s.drawn).ctxs = s.ctxs := rfl
@[simp] theorem State.drawn_cmds (s : State) : (s.drawn).cmds = s.cmds := rfl
@[simp] theorem State.drawn_waits (s : State) : (s.drawn).waits = s.waits := rfl
@[simp] theorem State.drawn_queues (s : State) : (s.drawn).queues = s.queues := rfl
@[simp] theorem State.drawn_colls (s : State) : (s.drawn).colls = s.colls := rfl
@[simp] theorem State.drawn_ual (s : State) : (s.drawn).ual = s.ual := rfl
@[simp] theorem State.drawn_dbg (s : State) : (s.drawn).dbg = s.dbg := rfl
@[simp] theorem State.drawn_die0 (s : State) : (s.drawn).die0 = s.die0 := rfl
@[simp] theorem State.drawn_die1 (s : State) : (s.drawn).die1 = s.die1 := rfl
@[simp] theorem State.drawn_svc (s : State) : (s.drawn).svc = s.svc := rfl
@[simp] theorem State.drawn_link (s : State) : (s.drawn).link = s.link := rfl
@[simp] theorem State.drawn_msix (s : State) : (s.drawn).msix = s.msix := rfl
@[simp] theorem State.drawn_msixPending (s : State) : (s.drawn).msixPending = s.msixPending := rfl
@[simp] theorem State.drawn_jtag (s : State) : (s.drawn).jtag = s.jtag := rfl
@[simp] theorem State.drawn_now (s : State) : (s.drawn).now = s.now := rfl
@[simp] theorem State.drawn_nextAcc (s : State) : (s.drawn).nextAcc = s.nextAcc := rfl
@[simp] theorem State.drawn_nextId (s : State) : (s.drawn).nextId = s.nextId := rfl
@[simp] theorem State.drawn_inputs (s : State) : (s.drawn).inputs = s.inputs := rfl
@[simp] theorem State.drawn_out (s : State) : (s.drawn).out = s.out := rfl

/-! ### poke -/

@[simp] theorem State.poke_lines (s : State) (pa : Nat) (bs : List Byte) : (s.poke pa bs).lines = s.lines := rfl
@[simp] theorem State.poke_narrow (s : State) (pa : Nat) (bs : List Byte) : (s.poke pa bs).narrow = s.narrow := rfl
@[simp] theorem State.poke_l1 (s : State) (pa : Nat) (bs : List Byte) : (s.poke pa bs).l1 = s.l1 := rfl
@[simp] theorem State.poke_icache (s : State) (pa : Nat) (bs : List Byte) : (s.poke pa bs).icache = s.icache := rfl
@[simp] theorem State.poke_tlb (s : State) (pa : Nat) (bs : List Byte) : (s.poke pa bs).tlb = s.tlb := rfl
@[simp] theorem State.poke_walks (s : State) (pa : Nat) (bs : List Byte) : (s.poke pa bs).walks = s.walks := rfl
@[simp] theorem State.poke_walked (s : State) (pa : Nat) (bs : List Byte) : (s.poke pa bs).walked = s.walked := rfl
@[simp] theorem State.poke_watch (s : State) (pa : Nat) (bs : List Byte) : (s.poke pa bs).watch = s.watch := rfl
@[simp] theorem State.poke_accs (s : State) (pa : Nat) (bs : List Byte) : (s.poke pa bs).accs = s.accs := rfl
@[simp] theorem State.poke_issue (s : State) (pa : Nat) (bs : List Byte) : (s.poke pa bs).issue = s.issue := rfl
@[simp] theorem State.poke_teams (s : State) (pa : Nat) (bs : List Byte) : (s.poke pa bs).teams = s.teams := rfl
@[simp] theorem State.poke_clusters (s : State) (pa : Nat) (bs : List Byte) : (s.poke pa bs).clusters = s.clusters := rfl
@[simp] theorem State.poke_grids (s : State) (pa : Nat) (bs : List Byte) : (s.poke pa bs).grids = s.grids := rfl
@[simp] theorem State.poke_engs (s : State) (pa : Nat) (bs : List Byte) : (s.poke pa bs).engs = s.engs := rfl
@[simp] theorem State.poke_cxtBase (s : State) (pa : Nat) (bs : List Byte) : (s.poke pa bs).cxtBase = s.cxtBase := rfl
@[simp] theorem State.poke_cxDone (s : State) (pa : Nat) (bs : List Byte) : (s.poke pa bs).cxDone = s.cxDone := rfl
@[simp] theorem State.poke_cxtWords (s : State) (pa : Nat) (bs : List Byte) : (s.poke pa bs).cxtWords = s.cxtWords := rfl
@[simp] theorem State.poke_ctxs (s : State) (pa : Nat) (bs : List Byte) : (s.poke pa bs).ctxs = s.ctxs := rfl
@[simp] theorem State.poke_cmds (s : State) (pa : Nat) (bs : List Byte) : (s.poke pa bs).cmds = s.cmds := rfl
@[simp] theorem State.poke_waits (s : State) (pa : Nat) (bs : List Byte) : (s.poke pa bs).waits = s.waits := rfl
@[simp] theorem State.poke_queues (s : State) (pa : Nat) (bs : List Byte) : (s.poke pa bs).queues = s.queues := rfl
@[simp] theorem State.poke_colls (s : State) (pa : Nat) (bs : List Byte) : (s.poke pa bs).colls = s.colls := rfl
@[simp] theorem State.poke_ual (s : State) (pa : Nat) (bs : List Byte) : (s.poke pa bs).ual = s.ual := rfl
@[simp] theorem State.poke_dbg (s : State) (pa : Nat) (bs : List Byte) : (s.poke pa bs).dbg = s.dbg := rfl
@[simp] theorem State.poke_die0 (s : State) (pa : Nat) (bs : List Byte) : (s.poke pa bs).die0 = s.die0 := rfl
@[simp] theorem State.poke_die1 (s : State) (pa : Nat) (bs : List Byte) : (s.poke pa bs).die1 = s.die1 := rfl
@[simp] theorem State.poke_svc (s : State) (pa : Nat) (bs : List Byte) : (s.poke pa bs).svc = s.svc := rfl
@[simp] theorem State.poke_link (s : State) (pa : Nat) (bs : List Byte) : (s.poke pa bs).link = s.link := rfl
@[simp] theorem State.poke_msix (s : State) (pa : Nat) (bs : List Byte) : (s.poke pa bs).msix = s.msix := rfl
@[simp] theorem State.poke_msixPending (s : State) (pa : Nat) (bs : List Byte) : (s.poke pa bs).msixPending = s.msixPending := rfl
@[simp] theorem State.poke_jtag (s : State) (pa : Nat) (bs : List Byte) : (s.poke pa bs).jtag = s.jtag := rfl
@[simp] theorem State.poke_now (s : State) (pa : Nat) (bs : List Byte) : (s.poke pa bs).now = s.now := rfl
@[simp] theorem State.poke_nextAcc (s : State) (pa : Nat) (bs : List Byte) : (s.poke pa bs).nextAcc = s.nextAcc := rfl
@[simp] theorem State.poke_nextId (s : State) (pa : Nat) (bs : List Byte) : (s.poke pa bs).nextId = s.nextId := rfl
@[simp] theorem State.poke_inputs (s : State) (pa : Nat) (bs : List Byte) : (s.poke pa bs).inputs = s.inputs := rfl
@[simp] theorem State.poke_out (s : State) (pa : Nat) (bs : List Byte) : (s.poke pa bs).out = s.out := rfl
@[simp] theorem State.poke_draws (s : State) (pa : Nat) (bs : List Byte) : (s.poke pa bs).draws = s.draws := rfl

/-! ### touchLines -/

@[simp] theorem State.touchLines_mem (s : State) (pa n : Nat) (who : Option Writer) : (s.touchLines pa n who).mem = s.mem := rfl
@[simp] theorem State.touchLines_poison (s : State) (pa n : Nat) (who : Option Writer) : (s.touchLines pa n who).poison = s.poison := rfl
@[simp] theorem State.touchLines_sliceErrs (s : State) (pa n : Nat) (who : Option Writer) : (s.touchLines pa n who).sliceErrs = s.sliceErrs := rfl
@[simp] theorem State.touchLines_l1 (s : State) (pa n : Nat) (who : Option Writer) : (s.touchLines pa n who).l1 = s.l1 := rfl
@[simp] theorem State.touchLines_icache (s : State) (pa n : Nat) (who : Option Writer) : (s.touchLines pa n who).icache = s.icache := rfl
@[simp] theorem State.touchLines_tlb (s : State) (pa n : Nat) (who : Option Writer) : (s.touchLines pa n who).tlb = s.tlb := rfl
@[simp] theorem State.touchLines_walks (s : State) (pa n : Nat) (who : Option Writer) : (s.touchLines pa n who).walks = s.walks := rfl
@[simp] theorem State.touchLines_walked (s : State) (pa n : Nat) (who : Option Writer) : (s.touchLines pa n who).walked = s.walked := rfl
@[simp] theorem State.touchLines_accs (s : State) (pa n : Nat) (who : Option Writer) : (s.touchLines pa n who).accs = s.accs := rfl
@[simp] theorem State.touchLines_issue (s : State) (pa n : Nat) (who : Option Writer) : (s.touchLines pa n who).issue = s.issue := rfl
@[simp] theorem State.touchLines_teams (s : State) (pa n : Nat) (who : Option Writer) : (s.touchLines pa n who).teams = s.teams := rfl
@[simp] theorem State.touchLines_clusters (s : State) (pa n : Nat) (who : Option Writer) : (s.touchLines pa n who).clusters = s.clusters := rfl
@[simp] theorem State.touchLines_grids (s : State) (pa n : Nat) (who : Option Writer) : (s.touchLines pa n who).grids = s.grids := rfl
@[simp] theorem State.touchLines_engs (s : State) (pa n : Nat) (who : Option Writer) : (s.touchLines pa n who).engs = s.engs := rfl
@[simp] theorem State.touchLines_cxtBase (s : State) (pa n : Nat) (who : Option Writer) : (s.touchLines pa n who).cxtBase = s.cxtBase := rfl
@[simp] theorem State.touchLines_cxDone (s : State) (pa n : Nat) (who : Option Writer) : (s.touchLines pa n who).cxDone = s.cxDone := rfl
@[simp] theorem State.touchLines_cxtWords (s : State) (pa n : Nat) (who : Option Writer) : (s.touchLines pa n who).cxtWords = s.cxtWords := rfl
@[simp] theorem State.touchLines_ctxs (s : State) (pa n : Nat) (who : Option Writer) : (s.touchLines pa n who).ctxs = s.ctxs := rfl
@[simp] theorem State.touchLines_cmds (s : State) (pa n : Nat) (who : Option Writer) : (s.touchLines pa n who).cmds = s.cmds := rfl
@[simp] theorem State.touchLines_waits (s : State) (pa n : Nat) (who : Option Writer) : (s.touchLines pa n who).waits = s.waits := rfl
@[simp] theorem State.touchLines_queues (s : State) (pa n : Nat) (who : Option Writer) : (s.touchLines pa n who).queues = s.queues := rfl
@[simp] theorem State.touchLines_colls (s : State) (pa n : Nat) (who : Option Writer) : (s.touchLines pa n who).colls = s.colls := rfl
@[simp] theorem State.touchLines_ual (s : State) (pa n : Nat) (who : Option Writer) : (s.touchLines pa n who).ual = s.ual := rfl
@[simp] theorem State.touchLines_dbg (s : State) (pa n : Nat) (who : Option Writer) : (s.touchLines pa n who).dbg = s.dbg := rfl
@[simp] theorem State.touchLines_die0 (s : State) (pa n : Nat) (who : Option Writer) : (s.touchLines pa n who).die0 = s.die0 := rfl
@[simp] theorem State.touchLines_die1 (s : State) (pa n : Nat) (who : Option Writer) : (s.touchLines pa n who).die1 = s.die1 := rfl
@[simp] theorem State.touchLines_svc (s : State) (pa n : Nat) (who : Option Writer) : (s.touchLines pa n who).svc = s.svc := rfl
@[simp] theorem State.touchLines_link (s : State) (pa n : Nat) (who : Option Writer) : (s.touchLines pa n who).link = s.link := rfl
@[simp] theorem State.touchLines_msix (s : State) (pa n : Nat) (who : Option Writer) : (s.touchLines pa n who).msix = s.msix := rfl
@[simp] theorem State.touchLines_msixPending (s : State) (pa n : Nat) (who : Option Writer) : (s.touchLines pa n who).msixPending = s.msixPending := rfl
@[simp] theorem State.touchLines_jtag (s : State) (pa n : Nat) (who : Option Writer) : (s.touchLines pa n who).jtag = s.jtag := rfl
@[simp] theorem State.touchLines_now (s : State) (pa n : Nat) (who : Option Writer) : (s.touchLines pa n who).now = s.now := rfl
@[simp] theorem State.touchLines_nextAcc (s : State) (pa n : Nat) (who : Option Writer) : (s.touchLines pa n who).nextAcc = s.nextAcc := rfl
@[simp] theorem State.touchLines_nextId (s : State) (pa n : Nat) (who : Option Writer) : (s.touchLines pa n who).nextId = s.nextId := rfl
@[simp] theorem State.touchLines_inputs (s : State) (pa n : Nat) (who : Option Writer) : (s.touchLines pa n who).inputs = s.inputs := rfl
@[simp] theorem State.touchLines_out (s : State) (pa n : Nat) (who : Option Writer) : (s.touchLines pa n who).out = s.out := rfl
@[simp] theorem State.touchLines_draws (s : State) (pa n : Nat) (who : Option Writer) : (s.touchLines pa n who).draws = s.draws := rfl

/-! ### homeWrite -/

@[simp] theorem State.homeWrite_l1 (s : State) (pa : Nat) (bs : List Byte) (who : Option Writer) : (s.homeWrite pa bs who).l1 = s.l1 := by unfold State.homeWrite; split <;> rfl
@[simp] theorem State.homeWrite_icache (s : State) (pa : Nat) (bs : List Byte) (who : Option Writer) : (s.homeWrite pa bs who).icache = s.icache := by unfold State.homeWrite; split <;> rfl
@[simp] theorem State.homeWrite_tlb (s : State) (pa : Nat) (bs : List Byte) (who : Option Writer) : (s.homeWrite pa bs who).tlb = s.tlb := by unfold State.homeWrite; split <;> rfl
@[simp] theorem State.homeWrite_walks (s : State) (pa : Nat) (bs : List Byte) (who : Option Writer) : (s.homeWrite pa bs who).walks = s.walks := by unfold State.homeWrite; split <;> rfl
@[simp] theorem State.homeWrite_walked (s : State) (pa : Nat) (bs : List Byte) (who : Option Writer) : (s.homeWrite pa bs who).walked = s.walked := by unfold State.homeWrite; split <;> rfl
@[simp] theorem State.homeWrite_accs (s : State) (pa : Nat) (bs : List Byte) (who : Option Writer) : (s.homeWrite pa bs who).accs = s.accs := by unfold State.homeWrite; split <;> rfl
@[simp] theorem State.homeWrite_issue (s : State) (pa : Nat) (bs : List Byte) (who : Option Writer) : (s.homeWrite pa bs who).issue = s.issue := by unfold State.homeWrite; split <;> rfl
@[simp] theorem State.homeWrite_teams (s : State) (pa : Nat) (bs : List Byte) (who : Option Writer) : (s.homeWrite pa bs who).teams = s.teams := by unfold State.homeWrite; split <;> rfl
@[simp] theorem State.homeWrite_clusters (s : State) (pa : Nat) (bs : List Byte) (who : Option Writer) : (s.homeWrite pa bs who).clusters = s.clusters := by unfold State.homeWrite; split <;> rfl
@[simp] theorem State.homeWrite_grids (s : State) (pa : Nat) (bs : List Byte) (who : Option Writer) : (s.homeWrite pa bs who).grids = s.grids := by unfold State.homeWrite; split <;> rfl
@[simp] theorem State.homeWrite_engs (s : State) (pa : Nat) (bs : List Byte) (who : Option Writer) : (s.homeWrite pa bs who).engs = s.engs := by unfold State.homeWrite; split <;> rfl
@[simp] theorem State.homeWrite_cxtBase (s : State) (pa : Nat) (bs : List Byte) (who : Option Writer) : (s.homeWrite pa bs who).cxtBase = s.cxtBase := by unfold State.homeWrite; split <;> rfl
@[simp] theorem State.homeWrite_cxDone (s : State) (pa : Nat) (bs : List Byte) (who : Option Writer) : (s.homeWrite pa bs who).cxDone = s.cxDone := by unfold State.homeWrite; split <;> rfl
@[simp] theorem State.homeWrite_cxtWords (s : State) (pa : Nat) (bs : List Byte) (who : Option Writer) : (s.homeWrite pa bs who).cxtWords = s.cxtWords := by unfold State.homeWrite; split <;> rfl
@[simp] theorem State.homeWrite_ctxs (s : State) (pa : Nat) (bs : List Byte) (who : Option Writer) : (s.homeWrite pa bs who).ctxs = s.ctxs := by unfold State.homeWrite; split <;> rfl
@[simp] theorem State.homeWrite_cmds (s : State) (pa : Nat) (bs : List Byte) (who : Option Writer) : (s.homeWrite pa bs who).cmds = s.cmds := by unfold State.homeWrite; split <;> rfl
@[simp] theorem State.homeWrite_waits (s : State) (pa : Nat) (bs : List Byte) (who : Option Writer) : (s.homeWrite pa bs who).waits = s.waits := by unfold State.homeWrite; split <;> rfl
@[simp] theorem State.homeWrite_queues (s : State) (pa : Nat) (bs : List Byte) (who : Option Writer) : (s.homeWrite pa bs who).queues = s.queues := by unfold State.homeWrite; split <;> rfl
@[simp] theorem State.homeWrite_colls (s : State) (pa : Nat) (bs : List Byte) (who : Option Writer) : (s.homeWrite pa bs who).colls = s.colls := by unfold State.homeWrite; split <;> rfl
@[simp] theorem State.homeWrite_ual (s : State) (pa : Nat) (bs : List Byte) (who : Option Writer) : (s.homeWrite pa bs who).ual = s.ual := by unfold State.homeWrite; split <;> rfl
@[simp] theorem State.homeWrite_dbg (s : State) (pa : Nat) (bs : List Byte) (who : Option Writer) : (s.homeWrite pa bs who).dbg = s.dbg := by unfold State.homeWrite; split <;> rfl
@[simp] theorem State.homeWrite_die0 (s : State) (pa : Nat) (bs : List Byte) (who : Option Writer) : (s.homeWrite pa bs who).die0 = s.die0 := by unfold State.homeWrite; split <;> rfl
@[simp] theorem State.homeWrite_die1 (s : State) (pa : Nat) (bs : List Byte) (who : Option Writer) : (s.homeWrite pa bs who).die1 = s.die1 := by unfold State.homeWrite; split <;> rfl
@[simp] theorem State.homeWrite_svc (s : State) (pa : Nat) (bs : List Byte) (who : Option Writer) : (s.homeWrite pa bs who).svc = s.svc := by unfold State.homeWrite; split <;> rfl
@[simp] theorem State.homeWrite_link (s : State) (pa : Nat) (bs : List Byte) (who : Option Writer) : (s.homeWrite pa bs who).link = s.link := by unfold State.homeWrite; split <;> rfl
@[simp] theorem State.homeWrite_msix (s : State) (pa : Nat) (bs : List Byte) (who : Option Writer) : (s.homeWrite pa bs who).msix = s.msix := by unfold State.homeWrite; split <;> rfl
@[simp] theorem State.homeWrite_msixPending (s : State) (pa : Nat) (bs : List Byte) (who : Option Writer) : (s.homeWrite pa bs who).msixPending = s.msixPending := by unfold State.homeWrite; split <;> rfl
@[simp] theorem State.homeWrite_jtag (s : State) (pa : Nat) (bs : List Byte) (who : Option Writer) : (s.homeWrite pa bs who).jtag = s.jtag := by unfold State.homeWrite; split <;> rfl
@[simp] theorem State.homeWrite_now (s : State) (pa : Nat) (bs : List Byte) (who : Option Writer) : (s.homeWrite pa bs who).now = s.now := by unfold State.homeWrite; split <;> rfl
@[simp] theorem State.homeWrite_nextAcc (s : State) (pa : Nat) (bs : List Byte) (who : Option Writer) : (s.homeWrite pa bs who).nextAcc = s.nextAcc := by unfold State.homeWrite; split <;> rfl
@[simp] theorem State.homeWrite_nextId (s : State) (pa : Nat) (bs : List Byte) (who : Option Writer) : (s.homeWrite pa bs who).nextId = s.nextId := by unfold State.homeWrite; split <;> rfl
@[simp] theorem State.homeWrite_inputs (s : State) (pa : Nat) (bs : List Byte) (who : Option Writer) : (s.homeWrite pa bs who).inputs = s.inputs := by unfold State.homeWrite; split <;> rfl
@[simp] theorem State.homeWrite_out (s : State) (pa : Nat) (bs : List Byte) (who : Option Writer) : (s.homeWrite pa bs who).out = s.out := by unfold State.homeWrite; split <;> rfl
@[simp] theorem State.homeWrite_draws (s : State) (pa : Nat) (bs : List Byte) (who : Option Writer) : (s.homeWrite pa bs who).draws = s.draws := by unfold State.homeWrite; split <;> rfl

/-! ### modDie -/

@[simp] theorem State.modDie_mem (s : State) (d : Nat) (f : Die → Die) : (s.modDie d f).mem = s.mem := by unfold State.modDie; split <;> rfl
@[simp] theorem State.modDie_poison (s : State) (d : Nat) (f : Die → Die) : (s.modDie d f).poison = s.poison := by unfold State.modDie; split <;> rfl
@[simp] theorem State.modDie_sliceErrs (s : State) (d : Nat) (f : Die → Die) : (s.modDie d f).sliceErrs = s.sliceErrs := by unfold State.modDie; split <;> rfl
@[simp] theorem State.modDie_lines (s : State) (d : Nat) (f : Die → Die) : (s.modDie d f).lines = s.lines := by unfold State.modDie; split <;> rfl
@[simp] theorem State.modDie_narrow (s : State) (d : Nat) (f : Die → Die) : (s.modDie d f).narrow = s.narrow := by unfold State.modDie; split <;> rfl
@[simp] theorem State.modDie_l1 (s : State) (d : Nat) (f : Die → Die) : (s.modDie d f).l1 = s.l1 := by unfold State.modDie; split <;> rfl
@[simp] theorem State.modDie_icache (s : State) (d : Nat) (f : Die → Die) : (s.modDie d f).icache = s.icache := by unfold State.modDie; split <;> rfl
@[simp] theorem State.modDie_tlb (s : State) (d : Nat) (f : Die → Die) : (s.modDie d f).tlb = s.tlb := by unfold State.modDie; split <;> rfl
@[simp] theorem State.modDie_walks (s : State) (d : Nat) (f : Die → Die) : (s.modDie d f).walks = s.walks := by unfold State.modDie; split <;> rfl
@[simp] theorem State.modDie_walked (s : State) (d : Nat) (f : Die → Die) : (s.modDie d f).walked = s.walked := by unfold State.modDie; split <;> rfl
@[simp] theorem State.modDie_watch (s : State) (d : Nat) (f : Die → Die) : (s.modDie d f).watch = s.watch := by unfold State.modDie; split <;> rfl
@[simp] theorem State.modDie_accs (s : State) (d : Nat) (f : Die → Die) : (s.modDie d f).accs = s.accs := by unfold State.modDie; split <;> rfl
@[simp] theorem State.modDie_issue (s : State) (d : Nat) (f : Die → Die) : (s.modDie d f).issue = s.issue := by unfold State.modDie; split <;> rfl
@[simp] theorem State.modDie_teams (s : State) (d : Nat) (f : Die → Die) : (s.modDie d f).teams = s.teams := by unfold State.modDie; split <;> rfl
@[simp] theorem State.modDie_clusters (s : State) (d : Nat) (f : Die → Die) : (s.modDie d f).clusters = s.clusters := by unfold State.modDie; split <;> rfl
@[simp] theorem State.modDie_grids (s : State) (d : Nat) (f : Die → Die) : (s.modDie d f).grids = s.grids := by unfold State.modDie; split <;> rfl
@[simp] theorem State.modDie_engs (s : State) (d : Nat) (f : Die → Die) : (s.modDie d f).engs = s.engs := by unfold State.modDie; split <;> rfl
@[simp] theorem State.modDie_cxtBase (s : State) (d : Nat) (f : Die → Die) : (s.modDie d f).cxtBase = s.cxtBase := by unfold State.modDie; split <;> rfl
@[simp] theorem State.modDie_cxDone (s : State) (d : Nat) (f : Die → Die) : (s.modDie d f).cxDone = s.cxDone := by unfold State.modDie; split <;> rfl
@[simp] theorem State.modDie_cxtWords (s : State) (d : Nat) (f : Die → Die) : (s.modDie d f).cxtWords = s.cxtWords := by unfold State.modDie; split <;> rfl
@[simp] theorem State.modDie_ctxs (s : State) (d : Nat) (f : Die → Die) : (s.modDie d f).ctxs = s.ctxs := by unfold State.modDie; split <;> rfl
@[simp] theorem State.modDie_cmds (s : State) (d : Nat) (f : Die → Die) : (s.modDie d f).cmds = s.cmds := by unfold State.modDie; split <;> rfl
@[simp] theorem State.modDie_waits (s : State) (d : Nat) (f : Die → Die) : (s.modDie d f).waits = s.waits := by unfold State.modDie; split <;> rfl
@[simp] theorem State.modDie_queues (s : State) (d : Nat) (f : Die → Die) : (s.modDie d f).queues = s.queues := by unfold State.modDie; split <;> rfl
@[simp] theorem State.modDie_colls (s : State) (d : Nat) (f : Die → Die) : (s.modDie d f).colls = s.colls := by unfold State.modDie; split <;> rfl
@[simp] theorem State.modDie_ual (s : State) (d : Nat) (f : Die → Die) : (s.modDie d f).ual = s.ual := by unfold State.modDie; split <;> rfl
@[simp] theorem State.modDie_dbg (s : State) (d : Nat) (f : Die → Die) : (s.modDie d f).dbg = s.dbg := by unfold State.modDie; split <;> rfl
@[simp] theorem State.modDie_svc (s : State) (d : Nat) (f : Die → Die) : (s.modDie d f).svc = s.svc := by unfold State.modDie; split <;> rfl
@[simp] theorem State.modDie_link (s : State) (d : Nat) (f : Die → Die) : (s.modDie d f).link = s.link := by unfold State.modDie; split <;> rfl
@[simp] theorem State.modDie_msix (s : State) (d : Nat) (f : Die → Die) : (s.modDie d f).msix = s.msix := by unfold State.modDie; split <;> rfl
@[simp] theorem State.modDie_msixPending (s : State) (d : Nat) (f : Die → Die) : (s.modDie d f).msixPending = s.msixPending := by unfold State.modDie; split <;> rfl
@[simp] theorem State.modDie_jtag (s : State) (d : Nat) (f : Die → Die) : (s.modDie d f).jtag = s.jtag := by unfold State.modDie; split <;> rfl
@[simp] theorem State.modDie_now (s : State) (d : Nat) (f : Die → Die) : (s.modDie d f).now = s.now := by unfold State.modDie; split <;> rfl
@[simp] theorem State.modDie_nextAcc (s : State) (d : Nat) (f : Die → Die) : (s.modDie d f).nextAcc = s.nextAcc := by unfold State.modDie; split <;> rfl
@[simp] theorem State.modDie_nextId (s : State) (d : Nat) (f : Die → Die) : (s.modDie d f).nextId = s.nextId := by unfold State.modDie; split <;> rfl
@[simp] theorem State.modDie_inputs (s : State) (d : Nat) (f : Die → Die) : (s.modDie d f).inputs = s.inputs := by unfold State.modDie; split <;> rfl
@[simp] theorem State.modDie_out (s : State) (d : Nat) (f : Die → Die) : (s.modDie d f).out = s.out := by unfold State.modDie; split <;> rfl
@[simp] theorem State.modDie_draws (s : State) (d : Nat) (f : Die → Die) : (s.modDie d f).draws = s.draws := by unfold State.modDie; split <;> rfl

end Sys2Proof.Machine
end

