-- ==== Sys2Proof/Laws/Tables.lean ====
section
/-! SUPPORT. Tables by number: what an entry reads as after a write, and the canonical form. -/

namespace Sys2Proof.Machine

variable {α : Type} [DecidableEq α] {d : α}

theorem tabWfFrom_mono {lo lo' : Option Nat} {t : Tab α} (h : tabWfFrom d lo t = true)
    (hl : ∀ a, lo' = some a → ∃ b, lo = some b ∧ a ≤ b) : tabWfFrom d lo' t = true := by
  cases t with
  | nil => rfl
  | cons p t =>
    obtain ⟨k, v⟩ := p
    simp only [tabWfFrom, Bool.and_eq_true] at h ⊢
    refine ⟨⟨?_, h.1.2⟩, h.2⟩
    cases lo' with
    | none => rfl
    | some a =>
      obtain ⟨b, rfl, hab⟩ := hl a rfl
      have := h.1.1
      simp only [decide_eq_true_eq] at this ⊢
      omega

omit [DecidableEq α] in
theorem tabFind_cons (k n : Nat) (v : α) (t : Tab α) : tabFind n ((k, v) :: t) = if k = n then some v else tabFind n t := rfl

omit [DecidableEq α] in
theorem tabFind_tabSet (k n : Nat) (v : α) (t : Tab α) : tabFind n (tabSet k v t) = if n = k then some v else tabFind n t := by
  induction t with
  | nil => rw [tabSet, tabFind_cons]; simp only [eq_comm (a := k)]
  | cons p t ih =>
    obtain ⟨k', v'⟩ := p
    simp only [tabSet]
    by_cases h1 : k < k'
    · rw [if_pos h1, tabFind_cons]; simp only [eq_comm (a := k)]
    · rw [if_neg h1]
      by_cases h2 : k = k'
      · subst h2; rw [if_pos rfl, tabFind_cons, tabFind_cons]
        by_cases h3 : k = n
        · subst h3; rw [if_pos rfl, if_pos rfl]
        · rw [if_neg h3, if_neg h3, if_neg (Ne.symm h3)]
      · rw [if_neg h2, tabFind_cons, tabFind_cons, ih]
        by_cases h3 : k' = n
        · subst h3; rw [if_pos rfl, if_neg (Ne.symm h2), if_pos rfl]
        · rw [if_neg h3, if_neg h3]

omit [DecidableEq α] in
theorem tabFind_tabErase (k n : Nat) (t : Tab α) : tabFind n (tabErase k t) = if n = k then none else tabFind n t := by
  induction t with
  | nil => simp [tabErase, tabFind]
  | cons p t ih =>
    obtain ⟨k', v'⟩ := p
    simp only [tabErase]
    by_cases h2 : k = k'
    · subst h2; rw [if_pos rfl, ih, tabFind_cons]
      by_cases h3 : k = n
      · subst h3; rw [if_pos rfl, if_pos rfl]
      · rw [if_neg (Ne.symm h3), if_neg h3, if_neg (Ne.symm h3)]
    · rw [if_neg h2, tabFind_cons, tabFind_cons, ih]
      by_cases h3 : k' = n
      · subst h3; rw [if_pos rfl, if_neg (Ne.symm h2), if_pos rfl]
      · rw [if_neg h3, if_neg h3]

/-- Reading after a write: the key written reads as the value, every other key as before. -/
theorem tabGet_tabPut (k n : Nat) (v : α) (t : Tab α) : tabGet d n (tabPut d k v t) = if n = k then v else tabGet d n t := by
  simp only [tabGet, tabPut]
  split
  · rw [tabFind_tabErase]; split <;> simp_all
  · rw [tabFind_tabSet]; split <;> simp_all

theorem tabWfFrom_cons {lo : Option Nat} {k : Nat} {v : α} {t : Tab α} :
    tabWfFrom d lo ((k, v) :: t) = true ↔ (∀ a, lo = some a → a < k) ∧ v ≠ d ∧ tabWfFrom d (some k) t = true := by
  cases lo <;> simp [tabWfFrom, and_assoc]

theorem tabWfFrom_tabSet {k : Nat} {v : α} {lo : Option Nat} {t : Tab α} (h : tabWfFrom d lo t = true) (hv : v ≠ d)
    (hk : ∀ a, lo = some a → a < k) : tabWfFrom d lo (tabSet k v t) = true := by
  induction t generalizing lo with
  | nil => exact tabWfFrom_cons.2 ⟨hk, hv, rfl⟩
  | cons p t ih =>
    obtain ⟨k', v'⟩ := p
    obtain ⟨h1, h2, h3⟩ := tabWfFrom_cons.1 h
    simp only [tabSet]
    split
    · exact tabWfFrom_cons.2 ⟨hk, hv, tabWfFrom_cons.2 ⟨fun a ha => by cases ha; assumption, h2, h3⟩⟩
    · split
      · subst_vars; exact tabWfFrom_cons.2 ⟨hk, hv, h3⟩
      · exact tabWfFrom_cons.2 ⟨h1, h2, ih h3 fun a ha => by cases ha; omega⟩

theorem tabWfFrom_tabErase {k : Nat} {lo : Option Nat} {t : Tab α} (h : tabWfFrom d lo t = true) : tabWfFrom d lo (tabErase k t) = true := by
  induction t generalizing lo with
  | nil => rfl
  | cons p t ih =>
    obtain ⟨k', v'⟩ := p
    obtain ⟨h1, h2, h3⟩ := tabWfFrom_cons.1 h
    simp only [tabErase]
    split
    · exact tabWfFrom_mono (ih h3) fun a ha => ⟨k', rfl, (h1 a ha).le⟩
    · exact tabWfFrom_cons.2 ⟨h1, h2, ih h3⟩

/-- A write keeps the canonical form. -/
theorem tabWf_tabPut {k : Nat} {v : α} {t : Tab α} (h : tabWf d t = true) : tabWf d (tabPut d k v t) = true := by
  unfold tabPut
  split
  · exact tabWfFrom_tabErase h
  · exact tabWfFrom_tabSet h ‹_› (fun a ha => nomatch ha)

end Sys2Proof.Machine
end

