-- ==== Sys2Proof/Laws/Lanes.lean ====
section
/-! SUPPORT. What the lane-wise operations do, said once. -/

namespace Sys2Proof.Machine

open Spec

/-! ### Finding by number -/

theorem find?_map_keep {α : Type} (p : α → Bool) (f : α → α) (l : List α) (h : ∀ x, p (f x) = p x) :
    (l.map f).find? p = (l.find? p).map f := by
  induction l with
  | nil => rfl
  | cons x l ih => simp only [List.map_cons, List.find?_cons, h, ih]; cases p x <;> rfl

theorem State.team?_modTeam (s : State) (id n : Nat) (f : Team → Team) (hf : ∀ t, (f t).id = t.id) :
    (s.modTeam id f).team? n = (s.team? n).map fun t => if t.id = id then f t else t := by
  unfold State.team? State.modTeam
  apply find?_map_keep
  intro t; split <;> simp [hf]

theorem State.team?_id {s : State} {n : Nat} {t : Team} (h : s.team? n = some t) : t.id = n := by
  have := List.find?_some h; simpa using this

theorem Team.thread?_mem {t : Team} {n : Nat} {x : Thread} (h : t.thread? n = some x) : x ∈ t.threads := List.mem_of_find?_eq_some h

theorem Team.thread?_tid {t : Team} {n : Nat} {x : Thread} (h : t.thread? n = some x) : x.tid = n := by
  have := List.find?_some h; simpa using this

theorem Team.crew?_slot {t : Team} {n : Nat} {c : Crew} (h : t.crew? n = some c) : c.slot = n := by
  have := List.find?_some h; simpa using this

theorem crewOf_eq {t : Team} {x : Thread} {c : Crew} (h : t.crew? x.crew = some c) : t.crewOf x = c := by
  simp [Team.crewOf, h]

/-! ### Lanes in order -/

theorem mem_insertLane {x y : Thread} {l : List Thread} : y ∈ insertLane x l ↔ y = x ∨ y ∈ l := by
  induction l with
  | nil => simp [insertLane]
  | cons z l ih => simp only [insertLane]; split <;> simp [ih, or_left_comm]

theorem mem_sortLanes {y : Thread} {l : List Thread} : y ∈ sortLanes l ↔ y ∈ l := by
  induction l with
  | nil => simp [sortLanes]
  | cons z l ih => simp [sortLanes, mem_insertLane, ih]

theorem mem_active {t : Team} {sl : IssueSlot} {g : Guard} {x : Thread} : x ∈ t.active sl g ↔ Active t sl g x := by
  simp [Team.active, mem_sortLanes, Active]

theorem lowestLane_eq {l : List Thread} {x : Thread} (hx : x ∈ l) (h : ∀ y ∈ l, y ≠ x → x.lane < y.lane) : lowestLane l = some x := by
  induction l with
  | nil => cases hx
  | cons z l ih =>
    by_cases hm : x ∈ l
    · have := ih hm fun y hy hn => h y (List.mem_cons_of_mem _ hy) hn
      simp only [lowestLane, this]
      by_cases hz : z = x
      · subst hz; simp
      · simp [h z (by simp) hz]
    · obtain rfl : x = z := by simpa [hm] using hx
      simp only [lowestLane]
      cases hl : lowestLane l with
      | none => rfl
      | some y =>
        have hy : y ∈ l := by
          clear ih hx h hm
          induction l generalizing y with
          | nil => simp [lowestLane] at hl
          | cons w l ih =>
            simp only [lowestLane] at hl
            cases hw : lowestLane l with
            | none => simp [hw] at hl; simp [hl]
            | some v => rw [hw] at hl; dsimp only at hl; split at hl <;> simp at hl <;> simp [← hl, ih v hw]
        have := h y (List.mem_cons_of_mem _ hy) (fun e => hm (e ▸ hy))
        simp; omega

theorem lowestLane_none {l : List Thread} (h : ∀ x, x ∉ l) : lowestLane l = none := by
  cases l with
  | nil => rfl
  | cons x l => exact absurd (List.mem_cons_self) (h x)

theorem missing_none {c : Crew} {codes : List Reg} (h : ∀ r ∈ codes, holds c r = true) : missing c codes = none := by
  simp [missing, List.find?_eq_none]; exact fun r hr => h r hr

theorem chargeRange_of_hold {s : State} {sl : IssueSlot} {t : Team} {g : Guard} {codes : List Reg} (h : AllHold t sl g codes) :
    s.chargeRange sl t g codes = s := by
  unfold State.chargeRange
  have : ∀ l : List Thread, (∀ x ∈ l, Active t sl g x) → ∀ s : State, l.foldl (fun s x =>
      match missing (t.crewOf x) codes with
      | some r => s.deliver sl.team x.tid sl.clause sl.idx (rangeFault r)
      | none => s) s = s := by
    intro l
    induction l with
    | nil => intros; rfl
    | cons x l ih =>
      intro hl s
      rw [List.foldl_cons, missing_none (h x (hl x (by simp)))]
      exact ih (fun y hy => hl y (List.mem_cons_of_mem _ hy)) s
  exact this _ (fun x hx => mem_active.1 hx) s

/-! ### One lane's results -/

theorem readReg_v {x : Thread} {c : Crew} {r : Reg} (h : isV r = true) : readReg x c r = tabGet 0#32 r.toNat x.regs := by
  simp [readReg, h]

theorem isV_not_k {r : Reg} (h : isV r = true) : isK r = false := by
  simp [isV, isK] at *; omega

theorem isK_of {r : Reg} (h : isV r = false) (h' : r ≠ 0xFF#8) : isK r = true := by
  simp only [isV, isK, decide_eq_false_iff_not, Bool.and_eq_true, decide_eq_true_eq] at *
  have : r.toNat ≠ 255 := fun e => h' (BitVec.eq_of_toNat_eq e)
  omega

theorem written_nil (r : Reg) (o : Word) : written [] r o = o := rfl

theorem written_cons (d : Reg) (v : Word) (ws : List (Reg × Word)) (r : Reg) (o : Word) :
    written ((d, v) :: ws) r o = if r = d then v else written ws r o := by
  simp only [written, List.find?_cons]
  by_cases h : d = r
  · subst h; simp
  · rw [if_neg (Ne.symm h), beq_eq_false_iff_ne.2 h]

/-- The writes of a lane, from the first on. -/
theorem foldl_writeV (T : Bool) (idx : Nat) (ws : List (Reg × Word)) (nd : (ws.map Prod.fst).Nodup) (x : Thread) (p : BitVec 7) (hp : x.preds = p) :
    LaneWrote T idx ws p x (ws.foldl (fun y w => if isV w.1 then writeV T idx y w.1 w.2 else y) x) := by
  subst hp
  induction ws generalizing x with
  | nil =>
    refine ⟨fun c r _ => rfl, by simp, by simp, ?_, ?_, ?_, rfl⟩ <;> simp
  | cons w ws ih =>
    obtain ⟨d, v⟩ := w
    simp only [List.map_cons, List.nodup_cons] at nd
    have hd : ∀ r v', (r, v') ∈ ws → r ≠ d := fun r v' hm e => nd.1 (e ▸ List.mem_map_of_mem (f := Prod.fst) hm)
    simp only [List.foldl_cons]
    cases hv : isV d with
    | false =>
      simp only [Bool.false_eq_true, if_false]
      obtain ⟨h1, h2, h3, h4, hf, h5, h6⟩ := ih nd.2 x
      refine ⟨fun c r hr => ?_, ?_, ?_, ?_, ?_, ?_, h6⟩
      · rw [written_cons, if_neg (by rintro rfl; simp [hv] at hr)]; exact h1 c r hr
      · intro r v' hm hr
        rcases List.mem_cons.1 hm with h | h
        · cases h; simp [hv] at hr
        · exact h2 r v' h hr
      · exact fun n hn => h3 n fun r v' hm => hn r v' (List.mem_cons_of_mem _ hm)
      · simpa [hv] using h4
      · simpa [hv, List.find?_append] using hf
      · simpa [hv, List.find?_append] using h5
    | true =>
      simp only [if_true]
      obtain ⟨h1, h2, h3, h4, hf, h5, h6⟩ := ih nd.2 (writeV T idx x d v)
      have hne : ∀ r : Reg, r ≠ d → r.toNat ≠ d.toNat := fun r h e => h (BitVec.eq_of_toNat_eq e)
      have hlast : ∀ n : Nat, n = d.toNat → ws.reverse.find? (fun w => isV w.1 && w.1.toNat == n) = none := by
        rintro n rfl
        rw [List.find?_eq_none]
        intro w hw; simp; intro _; exact hne _ (hd w.1 w.2 (by simpa using hw))
      refine ⟨fun c r hr => ?_, ?_, ?_, ?_, ?_, ?_, ?_⟩
      · rw [h1 c r hr, written_cons, readReg_v hr, readReg_v hr]
        simp only [writeV, tabGet_tabPut]
        by_cases h : r = d
        · subst h
          simp only [if_true]
          simp only [written]
          rw [List.find?_eq_none.2]; rfl
          intro q hq; simp; exact hd q.1 q.2 hq
        · rw [if_neg (hne r h), if_neg h]
      · intro r v' hm hr
        rcases List.mem_cons.1 hm with h | h
        · cases h
          rw [h3 d.toNat fun r' v'' hm' _ => hne r' (hd r' v'' hm')]
          simp only [writeV, List.filter_append, List.filter_filter]
          cases T <;> simp
        · exact h2 r v' h hr
      · intro n hn
        rw [h3 n fun r v' hm => hn r v' (List.mem_cons_of_mem _ hm)]
        have := hn d v (by simp) hv
        simp only [writeV, List.filter_append, List.filter_filter]
        have e : (fun q : Nat × Nat => (q.1 == n) && (q.1 != d.toNat)) = fun q => q.1 == n := by
          funext q; by_cases hq : q.1 = n <;> simp [hq, Ne.symm this]
        rw [e]; cases T <;> simp [this]
      · rw [h4]; simp only [writeV, List.map_map]
        apply List.map_congr_left; intro q _
        by_cases hq : q.code = d.toNat
        · simp [hq, hv]
        · simp [hq, Ne.symm hq]
      · rw [hf]; simp only [writeV, List.map_map]
        apply List.map_congr_left; intro q _
        simp only [Function.comp, List.reverse_cons, List.find?_append]
        by_cases hq : q.code = d.toNat
        · simp only [hq, if_true]
          rw [hlast _ rfl]; simp [hv]
        · cases hf : ws.reverse.find? fun w => isV w.1 && w.1.toNat == q.code <;> simp [hq, Ne.symm hq, hf]
      · rw [h5]; simp only [writeV, List.map_map]
        apply List.map_congr_left; intro q _
        simp only [Function.comp, List.reverse_cons, List.find?_append]
        by_cases hq : q.code = d.toNat
        · simp only [hq, if_true]
          rw [hlast _ rfl]; simp [hv]
        · cases hf : ws.reverse.find? fun w => isV w.1 && w.1.toNat == q.code <;> simp [hq, Ne.symm hq, hf]
      · rw [h6]; rfl

theorem commitThread_wrote (T : Bool) (idx : Nat) (x : Thread) (o : LaneOut) (nd : (o.regs.map Prod.fst).Nodup) :
    LaneWrote T idx o.regs o.preds x (commitThread T idx x o) := by
  obtain ⟨h1, h2, h3, h4, hf, h5, h6⟩ := foldl_writeV T idx o.regs nd x x.preds rfl
  refine ⟨h1, h2, h3, h4, hf, h5, ?_⟩
  unfold commitThread; dsimp only; rw [h6]

theorem commitCrew_wrote (c : Crew) (o : LaneOut) (nd : (o.regs.map Prod.fst).Nodup) : CrewWrote o.regs c (commitCrew c o) := by
  refine ⟨fun x r hr hz => ?_, rfl⟩
  simp only [readReg, hr, Bool.false_eq_true, if_false, if_neg hz, commitCrew]
  generalize c.kregs = k
  have hk := isK_of hr hz
  obtain ⟨ws, p⟩ := o
  induction ws generalizing k with
  | nil => rfl
  | cons w ws ih =>
    obtain ⟨d, v⟩ := w
    simp only [List.map_cons, List.nodup_cons] at nd
    have hd : ∀ q ∈ ws, q.1 ≠ d := fun q hm e => nd.1 (e ▸ List.mem_map_of_mem (f := Prod.fst) hm)
    simp only [List.foldl_cons]
    rw [ih _ nd.2, written_cons]
    by_cases h : r = d
    · subst h
      simp only [hk, if_true, tabGet_tabPut]
      simp only [written]
      rw [List.find?_eq_none.2]; rfl
      intro q hq; simp; exact hd q hq
    · rw [if_neg h]
      cases hkd : isK d with
      | false => simp
      | true =>
        simp only [if_true, tabGet_tabPut]
        rw [if_neg]
        intro e; apply h; apply BitVec.eq_of_toNat_eq
        simp [isK] at hk hkd; omega

theorem commitThread_tid (T : Bool) (idx : Nat) (x : Thread) (o : LaneOut) : (commitThread T idx x o).tid = x.tid := by
  unfold commitThread; dsimp only
  suffices h : ∀ (l : List (Reg × Word)) (y : Thread), (l.foldl (fun y w => if isV w.1 then writeV T idx y w.1 w.2 else y) y).tid = y.tid from h _ _
  intro l; induction l with
  | nil => intros; rfl
  | cons w l ih => intro y; rw [List.foldl_cons, ih]; split <;> rfl

/-! ### The whole group -/

/-- The lanes that hold their operands, after the commit. -/
theorem commit_spec {s : State} {sl : IssueSlot} {t : Team} {g : Guard} {T : Bool} {codes : List Reg} {f : Thread → Crew → LaneOut}
    (h : Issuing s sl t) (nd : ∀ x c, ((f x c).regs.map Prod.fst).Nodup) :
    RegsWritten s (s.modTeam sl.team fun t => t.commit sl g T codes f) sl t (Able t sl g codes) T
      (fun x c => (f x c).regs) (fun x c => (f x c).preds) := by
  have hid : ∀ t : Team, (t.commit sl g T codes f).id = t.id := fun _ => rfl
  have hmiss : ∀ x, (missing (t.crewOf x) codes).isNone = true ↔ ∀ r ∈ codes, holds (t.crewOf x) r = true := by
    intro x; simp [missing, List.find?_eq_none]
  refine ⟨rfl, fun id hne => ?_, t.commit sl g T codes f, ?_, rfl, ?_, ?_, ?_, ?_⟩
  · rw [State.team?_modTeam _ _ _ _ hid]
    cases ht : s.team? id with
    | none => rfl
    | some u => simp [State.team?_id ht, hne]
  · rw [State.team?_modTeam _ _ _ _ hid, h.team]; simp [State.team?_id h.team]
  · intro tid hn
    simp only [Team.thread?, Team.commit]
    rw [find?_map_keep _ _ _ (fun x => by split <;> simp [commitThread_tid])]
    simp only [Team.thread?] at hn; simp [hn]
  · intro c hn
    simp only [Team.crew?, Team.commit]
    rw [find?_map_keep _ _ _ (fun x => by split <;> rfl)]
    simp only [Team.crew?] at hn; simp [hn]
  · intro tid x hx
    have hc : (sl.group.contains x.tid && guardOf x.preds g && (missing (t.crewOf x) codes).isNone) = true ↔ Able t sl g codes x := by
      simp only [Bool.and_eq_true, hmiss, Able, Active, List.contains_iff_mem, Team.thread?_mem hx, true_and]
    refine ⟨if sl.group.contains x.tid && guardOf x.preds g && (missing (t.crewOf x) codes).isNone then
        commitThread T sl.idx x (f x (t.crewOf x)) else x, ?_, fun ha => ?_, fun ha => ?_⟩
    · simp only [Team.thread?, Team.commit]
      rw [find?_map_keep _ _ _ (fun x => by split <;> simp [commitThread_tid])]
      simp only [Team.thread?] at hx; rw [hx, Option.map_some]
    · rw [if_pos (hc.2 ha)]
      exact commitThread_wrote T sl.idx x _ (nd _ _)
    · rw [if_neg (fun e => ha (hc.1 e))]
  · intro n c hc
    have hab : ∀ y, y ∈ (t.able sl g codes).filter (fun x => x.crew == c.slot) ↔ Able t sl g codes y ∧ y.crew = n := by
      intro y
      simp only [Team.able, List.mem_filter, mem_active, beq_iff_eq, hmiss, Able, Team.crew?_slot hc]
    refine ⟨match lowestLane ((t.able sl g codes).filter fun x => x.crew == c.slot) with
        | some x => commitCrew c (f x (t.crewOf x)) | none => c, ?_, fun x hx => ?_, fun hno => ?_⟩
    · simp only [Team.crew?, Team.commit]
      rw [find?_map_keep _ _ _ (fun x => by split <;> rfl)]
      simp only [Team.crew?] at hc; exact (congrArg (Option.map _) hc).trans rfl
    · rw [lowestLane_eq ((hab x).2 ⟨hx.1, hx.2.1⟩) fun y hy hne => hx.2.2 y ((hab y).1 hy).1 ((hab y).1 hy).2 hne]
      simp only [crewOf_eq (hx.2.1 ▸ hc)]
      exact commitCrew_wrote c _ (nd _ _)
    · rw [lowestLane_none fun y hy => hno y ((hab y).1 hy).1 ((hab y).1 hy).2]

theorem laneOp_eq {s : State} {sl : IssueSlot} {t : Team} {g : Guard} {T : Bool} {codes : List Reg} {f : Thread → Crew → LaneOut}
    (h : Issuing s sl t) : s.laneOp g T codes f = (s.modTeam sl.team fun t => t.commit sl g T codes f).chargeRange sl t g codes := by
  simp only [State.laneOp, h.slot, h.team]

/-- A lane-wise instruction whose lanes hold their operands. -/
theorem laneOp_spec {s : State} {sl : IssueSlot} {t : Team} {g : Guard} {T : Bool} {codes : List Reg} {f : Thread → Crew → LaneOut}
    (h : Issuing s sl t) (hold : AllHold t sl g codes) (nd : ∀ x c, ((f x c).regs.map Prod.fst).Nodup) :
    RegsWritten s (s.laneOp g T codes f) sl t (Active t sl g) T (fun x c => (f x c).regs) (fun x c => (f x c).preds) := by
  rw [laneOp_eq h, chargeRange_of_hold hold]
  have e : Active t sl g = Able t sl g codes := by
    funext x; exact propext ⟨fun a => ⟨a, hold x a⟩, fun a => a.1⟩
  rw [e]; exact commit_spec h nd

theorem pair_nodup (d : Reg) (v : DWord) : ((pairWrites d v).map Prod.fst).Nodup := by
  unfold pairWrites; split
  · simp
  · have : d ≠ d + 1#8 := by intro h; bv_omega
    simp [this]

theorem regsWritten_congr {s s' : State} {sl : IssueSlot} {t : Team} {A : Thread → Prop} {T : Bool} {ws ws' : Thread → Crew → List (Reg × Word)}
    {p p' : Thread → Crew → BitVec 7} (h : RegsWritten s s' sl t A T ws p) (hw : ws = ws') (hp : p = p') :
    RegsWritten s s' sl t A T ws' p' := hw ▸ hp ▸ h

/-- An instruction that is a lane-wise operation runs as what its lanes write. -/
theorem runsAs_of_lane {i : Instr} {op : RegOp} {f : Thread → Crew → LaneOut} (he : ∀ s, exec i s = .next (s.laneOp op.g op.T op.codes f))
    (nd : ∀ x c, ((f x c).regs.map Prod.fst).Nodup)
    (hf : ∀ x c, f x c = ⟨op.ws (readReg x c) x.preds, op.preds (readReg x c) x.preds⟩) : RunsAs i op := fun s sl t hi hh =>
  ⟨_, he s, regsWritten_congr (laneOp_spec hi hh nd) (by funext x c; rw [hf]) (by funext x c; rw [hf])⟩

theorem trapsAs_of_lane {i : Instr} {op : RegOp} {f : Thread → Crew → LaneOut} (he : ∀ s, exec i s = .next (s.laneOp op.g op.T op.codes f))
    (nd : ∀ x c, ((f x c).regs.map Prod.fst).Nodup)
    (hf : ∀ x c, f x c = ⟨op.ws (readReg x c) x.preds, op.preds (readReg x c) x.preds⟩) : TrapsAs i op := fun s sl t hi =>
  ⟨_, by rw [he, laneOp_eq hi]; rfl, regsWritten_congr (commit_spec hi nd) (by funext x c; rw [hf]) (by funext x c; rw [hf])⟩

/-- The halves of a 64-bit result. -/
theorem pairWrites_eq (d : Reg) (v : DWord) : pairWrites d v =
    if d = 0xFF#8 then [] else [(d, BitVec.ofNat 32 v.toNat), (d + 1#8, BitVec.ofNat 32 (v.toNat / 2 ^ 32))] := by
  unfold pairWrites
  split
  · rfl
  · have h1 : loWord v = BitVec.ofNat 32 v.toNat := by apply BitVec.eq_of_toNat_eq; simp [loWord]
    have h2 : hiWord v = BitVec.ofNat 32 (v.toNat / 2 ^ 32) := by
      apply BitVec.eq_of_toNat_eq; simp [hiWord, Nat.shiftRight_eq_div_pow]
    rw [h1, h2]

theorem readPair_toNat (x : Thread) (c : Crew) (r : Reg) : (readPair x c r).toNat = pairNat (readReg x c) r := by
  unfold readPair pairNat
  split
  · rfl
  · have h1 := (readReg x c r).isLt
    have h2 := (readReg x c (r + 1#8)).isLt
    simp only [pairOf, BitVec.toNat_append, Nat.shiftLeft_eq]
    rw [Nat.mul_comm, ← Nat.two_pow_add_eq_or_of_lt h1]; omega

end Sys2Proof.Machine
end

