-- ==== Sys2Proof/Laws/Memory.lean ====
section
/-! SUPPORT. Memory: what a byte reads as after a write, and that every operation that writes memory keeps its canonical form. -/

namespace Sys2Proof.Machine

/-! ### Bytes -/

theorem memByte_memPut (m : List Host.Cell) (a n : Nat) (bs : List Byte) :
    memByte (memPut m a bs) n = if a ≤ n then (bs[n - a]?).getD (memByte m n) else memByte m n := by
  induction bs generalizing m a with
  | nil => simp [memPut]
  | cons b bs ih =>
    simp only [memPut, ih]
    have hb : memByte (tabPut unlistedByte a b m) n = if n = a then b else memByte m n := tabGet_tabPut a n b m
    rw [hb]
    by_cases h1 : n = a
    · subst h1; simp
    · by_cases h2 : a ≤ n
      · obtain ⟨k, rfl⟩ : ∃ k, n = a + 1 + k := ⟨n - a - 1, by omega⟩
        have e1 : a + 1 + k - (a + 1) = k := by omega
        have e2 : a + 1 + k - a = k + 1 := by omega
        rw [if_pos (by omega), if_neg h1, if_pos h2, e1, e2, List.getElem?_cons_succ]
      · rw [if_neg (by omega), if_neg h1, if_neg h2]

/-- A write leaves every byte outside it as it was. -/
theorem memByte_memPut_outside {m : List Host.Cell} {a n : Nat} {bs : List Byte} (h : n < a ∨ a + bs.length ≤ n) :
    memByte (memPut m a bs) n = memByte m n := by
  rw [memByte_memPut]
  split
  · rw [List.getElem?_eq_none (by omega)]; rfl
  · rfl

/-- A byte of a write reads as written. -/
theorem memByte_memPut_inside {m : List Host.Cell} {a i : Nat} {bs : List Byte} {b : Byte} (h : bs[i]? = some b) :
    memByte (memPut m a bs) (a + i) = b := by
  rw [memByte_memPut, if_pos (Nat.le_add_right a i), Nat.add_sub_cancel_left, h]; rfl

theorem memBytes_getElem (m : List Host.Cell) (a n i : Nat) : (memBytes m a n)[i]? = if i < n then some (memByte m (a + i)) else none := by
  induction n generalizing a i with
  | zero => simp [memBytes]
  | succ n ih =>
    cases i with
    | zero => simp [memBytes]
    | succ i => simp only [memBytes, List.getElem?_cons_succ, ih, Nat.succ_lt_succ_iff, Nat.add_right_comm a 1 i, Nat.add_assoc]

theorem memBytes_length (m : List Host.Cell) (a n : Nat) : (memBytes m a n).length = n := by
  induction n generalizing a with
  | zero => rfl
  | succ n ih => simp [memBytes, ih]

/-- A read of what a write wrote gives it. -/
theorem memBytes_memPut (m : List Host.Cell) (a : Nat) (bs : List Byte) : memBytes (memPut m a bs) a bs.length = bs := by
  apply List.ext_getElem?
  intro i
  rw [memBytes_getElem]
  by_cases h : i < bs.length
  · rw [if_pos h, List.getElem?_eq_getElem h, memByte_memPut_inside (List.getElem?_eq_getElem h)]
  · rw [if_neg h, List.getElem?_eq_none (by omega)]

theorem memPut_wf {m : List Host.Cell} {a : Nat} {bs : List Byte} (h : Memory.wf m = true) : Memory.wf (memPut m a bs) = true := by
  induction bs generalizing m a with
  | nil => exact h
  | cons b bs ih => exact ih (tabWf_tabPut h)

/-- Memory that a reset keeps of a canonical memory is canonical. -/
theorem filter_wf {m : List Host.Cell} (p : Host.Cell → Bool) (h : Memory.wf m = true) : Memory.wf (m.filter p) = true := by
  suffices g : ∀ (lo : Option Nat), tabWfFrom unlistedByte lo m = true → tabWfFrom unlistedByte lo (m.filter p) = true from g none h
  clear h
  induction m with
  | nil => intro lo _; rfl
  | cons c m ih =>
    obtain ⟨k, v⟩ := c
    intro lo h
    obtain ⟨h1, h2, h3⟩ := tabWfFrom_cons.1 h
    rw [List.filter_cons]
    split
    · exact tabWfFrom_cons.2 ⟨h1, h2, ih _ h3⟩
    · exact tabWfFrom_mono (ih _ h3) fun a ha => ⟨k, rfl, (h1 a ha).le⟩

/-! ### The operations -/

namespace State

@[simp] theorem poke_mem (s : State) (pa : Nat) (bs : List Byte) : (s.poke pa bs).mem = memPut s.mem pa bs := rfl

/-- All that a write performed at the home slice does to memory. -/
@[simp] theorem homeWrite_mem (s : State) (pa : Nat) (bs : List Byte) (who : Option Writer) :
    (s.homeWrite pa bs who).mem = memPut s.mem pa bs := by
  unfold homeWrite
  cases bs <;> rfl

/-- A byte outside a write at the home slice reads as before. -/
theorem homeWrite_byteAt {s : State} {pa n : Nat} {bs : List Byte} {who : Option Writer} (h : n < pa ∨ pa + bs.length ≤ n) :
    (s.homeWrite pa bs who).byteAt n = s.byteAt n := by
  simp only [byteAt, homeWrite_mem]; exact memByte_memPut_outside h

theorem homeWrite_ok {s : State} {pa : Nat} {bs : List Byte} {who : Option Writer} (h : MemoryOk s) : MemoryOk (s.homeWrite pa bs who) := by
  unfold MemoryOk; rw [homeWrite_mem]; exact memPut_wf h

theorem poke_ok {s : State} {pa : Nat} {bs : List Byte} (h : MemoryOk s) : MemoryOk (s.poke pa bs) := memPut_wf h

theorem pokePieces_ok {s : State} {who : Option Writer} {ps : List (Nat × Nat)} {bs : List Byte} (h : MemoryOk s) :
    MemoryOk (s.pokePieces who ps bs) := by
  induction ps generalizing s bs with
  | nil => exact h
  | cons p ps ih => exact ih (homeWrite_ok h)

/-- An operation over a list keeps the canonical form of memory when each of its steps does. -/
theorem foldl_ok {β : Type} {f : State → β → State} (hf : ∀ s b, MemoryOk s → MemoryOk (f s b)) (l : List β) {s : State} (h : MemoryOk s) :
    MemoryOk (l.foldl f s) := by
  induction l generalizing s with
  | nil => exact h
  | cons b l ih => exact ih (hf s b h)

/-- Whatever leaves memory as it is keeps its canonical form. -/
theorem ok_of_mem {s s' : State} (e : s'.mem = s.mem) (h : MemoryOk s) : MemoryOk s' := by unfold MemoryOk; rw [e]; exact h

theorem outside_wf {s : State} (h : MemoryOk s) : Memory.wf s.outside = true := filter_wf _ h

/-- A power-on and a function-level reset keep the canonical form. -/
theorem powerUp_ok {s : State} (h : MemoryOk s) : MemoryOk s.powerUp := outside_wf h

theorem reset_memory : MemoryOk State.reset := rfl

end State

end Sys2Proof.Machine
end

