-- ==== Sys2Proof/Tests/Slice0.lean ====
section
/-! SUPPORT. Tests: words of the manual's tables, ill-formed terms, results worked out by hand, and for each statement with hypotheses a
state that meets them. -/

namespace Sys2Proof.Tests

set_option Elab.async false

open Machine Spec

/-! ### A small machine: one team of one thread, its clause of one instruction in the issue slot -/

def G : Guard := ⟨false, 7#3⟩
def dw (n : Nat) : DWord := BitVec.ofNat 64 n
def X0 : Thread := bareThread (2 ^ 36) (headerFor 0) [dw 0xA670000000000000]
def T0 : Team := bareTeam 1 2 3 1 0 0 X0
def SL0 : IssueSlot := ⟨0, 1, 2 ^ 36, headerFor 0, [dw 0xA670000000000000], 0, [0], 0, none, [], [0]⟩
def S0 : State := State.reset.withProgram (dw 0xA670000000000000)
/-- The same machine with another team, or with another thread in it. -/
def put (t : Team) (s : State) : State := { s with teams := [t] }
def T1 (x : Thread) : Team := { T0 with threads := [x] }
def S1 (x : Thread) : State := put (T1 x) S0

theorem issuing0 : Issuing S0 SL0 T0 := ⟨by decide +kernel, by decide +kernel⟩
theorem issuing_of {s : State} {t : Team} (h : s.issue = some SL0 ∧ s.team? 1 = some t) : Issuing s SL0 t := ⟨h.1, h.2⟩
theorem issuing_put (t : Team) (h : t.id = 1) : Issuing (put t S0) SL0 t :=
  ⟨by show S0.issue = _; decide +kernel, by simp [put, State.team?, SL0, h]⟩
theorem allHold_of {t : Team} {sl : IssueSlot} {g : Guard} {codes : List Reg}
    (h : ∀ x ∈ t.threads, ∀ r ∈ codes, holds (t.crewOf x) r = true) : AllHold t sl g codes := fun x hx => h x hx.1

/-! ### Decoding: words printed in the manual (sections named), and field by field from Tables 5.3 to 5.12 -/

/-- Two words of the clause in "Worked encodings" of chapter 5, and the header's pad. -/
theorem test_decode_chapter5 : decodeWord (dw 0xB070200000000000) = .ok (.sread G false .tid 2#8) ∧
    decodeWord (dw 0x4170000024000000) = .ok (.st G ⟨.b32, .crew, .rlx, .normal, 0#11⟩ 2#8 0#8) ∧
    decodeWord (dw 0xA670000000000000) = .ok (.nop G) ∧ decodeWord (dw 0xA570000000000000) = .ok (.exit G) := by decide +kernel

/-- Chapter 6: IADD.sat.sgn.t, MOV.b64, CALLX, RET, and BRA by −4. -/
theorem test_decode_integer_control : decodeWord (dw 0x0070804C30001800) = .ok (.iadd G true .satSgn 8#8 4#8 0xC3#8) ∧
    decodeWord (dw 0x1B71400000001000) = .ok (.mov G false true 20#8 0#8) ∧ decodeWord (dw 0xA371F1C000000000) = .ok (.callx G ⟨31#8, false⟩ 28#8 0#11) ∧
    decodeWord (dw 0xA47001F000000000) = .ok (.ret G 31#8) ∧ decodeWord (dw 0xA0700000FFFFFFFC) = .ok (.bra G 0xFFFFFFFC#32) := by
  decide +kernel

/-- Chapters 7 and 15: FFMA.rtz, QCVT.e4m3, RNG, FRSQ.cr, FDIV.cr, FSET.eq. -/
theorem test_decode_float : decodeWord (dw 0x2370804050601000) = .ok (.ffma G false .rtz 8#8 4#8 5#8 6#8) ∧
    decodeWord (dw 0x3870A04060008040) = .ok (.qcvt G false true false 8#8 10#8 4#8 6#8 0#8) ∧
    decodeWord (dw 0x3B70C02040000000) = .ok (.rng G false 12#8 2#8 4#8) ∧ decodeWord (dw 0x2E71414000000000) = .ok (.frsq G false false 20#8 20#8) ∧
    decodeWord (dw 0x3071A18160000000) = .ok (.fdiv G false false .rne 26#8 24#8 22#8) ∧
    decodeWord (dw 0x2670118FF0000000) = .ok (.fset G .eq 1#8 24#8 0xFF#8) := by decide +kernel

/-- Chapters 8, 15 and 16: LD, STS, ATOM.cas, LDP, a guarded ST.b32. -/
theorem test_decode_memory : decodeWord (dw 0x4070004084D00004) = .ok (.ld G false ⟨.b32, .device, .acq, .normal, 4#11⟩ 8#8 4#8) ∧
    decodeWord (dw 0x437001E144000002) = .ok (.sts G ⟨.b32, .crew, .rlx, .normal, 2#11⟩ 20#8 30#8) ∧
    decodeWord (dw 0x4670604086F09000) = .ok (.atom G .cas ⟨.b64, .device, .ar, .normal, 0#11⟩ 6#8 8#8 4#8) ∧
    decodeWord (dw 0x44700FF0A4000008) = .ok (.ldp G .b32 8#11 10#8 0xFF#8) ∧
    decodeWord (dw 0x41200021A4000000) = .ok (.st ⟨false, 2#3⟩ ⟨.b32, .crew, .rlx, .normal, 0#11⟩ 26#8 2#8) := by decide +kernel

/-- Chapters 8, 15, 16 and 17: SHFL, CREDUX, BAR, WAITC, REGROUP. -/
theorem test_decode_crew : decodeWord (dw 0x6070A0405FF01300) = .ok (.shfl G false .rot 3#3 10#8 4#8 5#8 0xFF#8) ∧
    decodeWord (dw 0x6371818000003000) = .ok (.credux G false .maxU 24#8 24#8) ∧ decodeWord (dw 0x657000000001A000) = .ok (.bar G .sync .cluster 1#4) ∧
    decodeWord (dw 0x6B7000000000F780) = .ok (.waitc G 0#4 15#4 15#4 0#4) ∧ decodeWord (dw 0x6870110000000000) = .ok (.regroup G false 16#8 1#8) := by
  decide +kernel

/-- Chapter 9 and 16: CPY, TGWALL, MISSUE, TWAIT, MDRAIN, MGANG, MSWR. -/
theorem test_decode_engines : decodeWord (dw 0x70700020C0E00020) = .ok (.cpy G .b8 1#6 2#8 12#8 14#8) ∧
    decodeWord (dw 0x7570012000000000) = .ok (.tgwall G 18#8) ∧ decodeWord (dw 0x81700060A0C00000) = .ok (.missue G false 6#8 10#8 12#8) ∧
    decodeWord (dw 0x8371400000000000) = .ok (.twait G 20#8) ∧
    decodeWord (dw 0x89700041000B4060) = .ok (.mdrain G ⟨true, .e4m3, false, true, false, false, 3#6, none, 0#8, 4#8, 16#8, 0#8⟩) ∧
    decodeWord (dw 0x82200060A0C00000) = .ok (.mgang ⟨false, 2#3⟩ false 6#8 10#8 12#8) ∧
    decodeWord (dw 0x8871800000000000) = .ok (.mswr G false false 0#6 24#8) := by decide +kernel

/-- Chapter 10: SREAD, SWRITE, CLAUNCH, CJOIN, TRAP, BPT, ICSYNC, RETT. -/
theorem test_decode_system : decodeWord (dw 0xB070400000012000) = .ok (.sread G false .ref 4#8) ∧
    decodeWord (dw 0xB17000200001B000) = .ok (.swrite G .trapvec 2#8) ∧ decodeWord (dw 0xB270004000000000) = .ok (.claunch G 4#8) ∧
    decodeWord (dw 0xB370000000000000) = .ok (.cjoin G) ∧ decodeWord (dw 0xB47000000000002A) = .ok (.trap G 0x2A#11) ∧
    decodeWord (dw 0xB570000000000000) = .ok (.bpt G) ∧ decodeWord (dw 0xB670000000003000) = .ok (.icsync G .device) ∧
    decodeWord (dw 0xB770000000000000) = .ok (.rett G) := by decide +kernel

/-- R85: unlisted opcodes are 0x01, a reserved field and a guard of 7 negated 0x02; fewer than eight bytes are no instruction. -/
theorem test_decode_refuses : decodeWord (dw 0x1F70000000000000) = .error .illegalOpcode ∧ decodeWord (dw 0xFA30FFFF00000000) = .error .illegalOpcode ∧
    decodeWord (dw 0xA670000000000001) = .error .reservedField ∧ decodeWord (dw 0xA6F0000000000000) = .error .reservedField ∧
    decodeWord (dw 0x0070000000003000) = .error .reservedField ∧ decode [0, 1, 2] = .error .short := by decide +kernel

/-- The table's numbering, and the encoder on the same words. -/
theorem test_encode : decodeTableWord 64 0x0870000030001000 = some (.iadd64 G false .zx 0#8 0#8 3#8) ∧
    encode (.iadd64 G false .zx 0#8 0#8 3#8) = some (dw 0x0870000030001000) ∧ encode (.trap G 0x2A#11) = some (dw 0xB47000000000002A) ∧
    encode (.teamRetire 0) = none := by decide +kernel

/-! ### Ill-formed terms, one for each check -/

/-- A guard of 7 negated (R81), T on a k destination (R54), an odd pair (R52), a misaligned quad (R83), a predicate 7 (R83). -/
theorem test_refuse_registers : (Instr.nop ⟨true, 7#3⟩).wellFormed = false ∧ (Instr.iadd G true .wrap 0xC0#8 0#8 0#8).wellFormed = false ∧
    (Instr.iadd64 G false .pair 1#8 0#8 2#8).wellFormed = false ∧ (Instr.iadd64 G false .pair 0#8 0xFE#8 2#8).wellFormed = false ∧
    (Instr.mswr G false false 0#6 2#8).wellFormed = false ∧ (Instr.iset G false .eq 7#8 0#8 0#8).wellFormed = false ∧
    (Instr.sel G false false 7#3 0#8 0#8 0#8).wellFormed = false ∧ (Instr.call G 0xC0#8 0).wellFormed = false ∧
    (Instr.spill G .normal 0#11 0xC0#8 0#8).wellFormed = false := by decide

/-- Rounding modes and formats of Tables 5.7 and 7.5. -/
theorem test_refuse_float : (Instr.fadd G false .sr 0#8 0#8 0#8).wellFormed = false ∧ (Instr.fsqrt G false true .rtz 0#8 0#8).wellFormed = false ∧
    (Instr.fcvt G false false .f32 .f32 .rne 0#8 0#8 0#8).wellFormed = false ∧ (Instr.fcvt G false false .f16 .f32 .rtz 0#8 0#8 0#8).wellFormed = false ∧
    (Instr.fcvt G false false .f32 .f16 .sr 0#8 0#8 0xFF#8).wellFormed = false ∧ (Instr.fcvt G false false .f32 .f16 .rne 0#8 0#8 1#8).wellFormed = false ∧
    (Instr.qcvt G false true false 0x47#8 0#8 0#8 2#8 0#8).wellFormed = false ∧ (Instr.qcvt G false false false 0x04#8 0#8 0#8 2#8 0#8).wellFormed = false ∧
    (Instr.qcvt G false true true 0x08#8 0#8 0#8 2#8 2#8).wellFormed = false ∧ (Instr.dqcvt G false 0x00#8 0#8 0#8).wellFormed = false ∧
    (Instr.mxq G false false 0#8 0#8 1#8).wellFormed = false := by decide

/-- Sizes, orders and operands of the memory form (R84, Table 5.8). -/
theorem test_refuse_memory : let m : MemF := ⟨.b32, .device, .rlx, .normal, 0#11⟩
    (Instr.ld G true m 0#8 0#8).wellFormed = false ∧ (Instr.ld G false { m with order := .rel } 0#8 0#8).wellFormed = false ∧
    (Instr.st G { m with order := .acq } 0#8 0#8).wellFormed = false ∧ (Instr.lds G false { m with hint := .keep } 0#8 0#8).wellFormed = false ∧
    (Instr.ldp G .b8 0#11 0#8 0#8).wellFormed = false ∧ (Instr.atom G .fadd { m with size := .b64 } 0#8 0#8 0#8).wellFormed = false ∧
    (Instr.atom G .add { m with size := .b16 } 0#8 0#8 0#8).wellFormed = false ∧ (Instr.red G .cas m 0#8 0#8).wellFormed = false ∧
    (Instr.fence G .rlx .device).wellFormed = false ∧ (Instr.mwait G .b8 0#11 0#8).wellFormed = false := by decide

/-- Crew, engine and system rows (Tables 5.9 to 5.12). -/
theorem test_refuse_others : (Instr.shfl G false .rot 6#3 0#8 0#8 0#8 0#8).wellFormed = false ∧ (Instr.shfl G false .rev 3#3 0#8 0#8 1#8 0#8).wellFormed = false ∧
    (Instr.vote G true (.test .some) ⟨false, 0#3⟩ 0#8).wellFormed = false ∧ (Instr.bar G .sync .crew 4#4).wellFormed = false ∧
    (Instr.reggrow G .blk 6#3 0#8).wellFormed = false ∧ (Instr.reggrow G .blk 1#3 1#8).wellFormed = false ∧
    (Instr.mdrain G ⟨false, .f32, true, false, false, false, 0#6, none, 0#8, 0#8, 0#8, 0#8⟩).wellFormed = false ∧
    (Instr.mdrain G ⟨false, .q, false, false, false, false, 0#6, none, 0#8, 0#8, 0#8, 0#8⟩).wellFormed = false ∧
    (Instr.mdrain G ⟨true, .f32, false, false, false, false, 0#6, none, 0#8, 1#8, 0#8, 0#8⟩).wellFormed = false ∧
    (Instr.mdrain G ⟨false, .f32, false, false, false, false, 0#6, none, 0#8, 0#8, 0#8, 2#8⟩).wellFormed = false ∧
    (Instr.sread G false .ref 1#8).wellFormed = false ∧ (Instr.swrite G .tid 0#8).wellFormed = false ∧
    (Instr.issueSelection 2048).wellFormed = false ∧ (Instr.clockStop 2).wellFormed = false ∧ (Instr.graph 128).wellFormed = false ∧
    (Instr.stepReport 256).wellFormed = false ∧ (Instr.portTraining 12 4 none).wellFormed = false := by decide

/-! ### The hypotheses of the statements can be met: chapters 6 to 8 -/

def R (regs : List (Nat × Word)) : Thread := { X0 with regs := regs }
def SL (idx : Nat) : IssueSlot := { SL0 with idx := idx }
/-- The queue's determinism level 3 (R242). -/
def portable (s : State) : State := { s with queues := [(0, { Queue.reset with ctl := 0x600#64 })] }

theorem lanes0 : lanesOf T0 SL0 G = [X0] := by decide +kernel

theorem witness_IntegerArithmetic : (arithmeticOps (.iadd G false .wrap 4#8 5#8 6#8)).isSome = true ∧ Issuing S0 SL0 T0 ∧
    AllHold T0 SL0 G [4#8, 5#8, 6#8] ∧ Active T0 SL0 G X0 := ⟨rfl, issuing0, allHold_of (by decide +kernel), (by unfold Active; decide +kernel)⟩
theorem witness_BitwiseShiftsCounts : (bitwiseOps (.shl G true 31#8 0#8 0xFF#8)).isSome = true ∧ Issuing S0 SL0 T0 ∧ AllHold T0 SL0 G [31#8, 0#8, 0xFF#8] :=
  ⟨rfl, issuing0, allHold_of (by decide +kernel)⟩
theorem witness_FieldsMovesPairs : (fieldOps (.iadd64 G false .pair 2#8 4#8 0xFF#8)).isSome = true ∧ Issuing S0 SL0 T0 ∧ AllHold T0 SL0 G [2#8, 3#8, 4#8, 5#8] :=
  ⟨rfl, issuing0, allHold_of (by decide +kernel)⟩
theorem witness_PredicateInstructions : (predicateOps (.iset G false .lt 6#8 4#8 5#8)).isSome = true ∧ Issuing S0 SL0 T0 ∧ AllHold T0 SL0 G [4#8, 5#8] :=
  ⟨rfl, issuing0, allHold_of (by decide +kernel)⟩
theorem witness_FloatArithmetic : (floatOps (.ffma G false .rdn 4#8 5#8 6#8 7#8)).isSome = true ∧ Issuing S0 SL0 T0 ∧ AllHold T0 SL0 G [4#8, 5#8, 6#8, 7#8] :=
  ⟨rfl, issuing0, allHold_of (by decide +kernel)⟩
theorem witness_ConversionsAndRandom : (conversionOps (.rng G false 4#8 6#8 8#8)).isSome = true ∧ Issuing S0 SL0 T0 ∧ AllHold T0 SL0 G [4#8, 6#8, 7#8, 8#8, 9#8] :=
  ⟨rfl, issuing0, allHold_of (by decide +kernel)⟩
/-- The `.cr` and `.ax` forms below PORTABLE, and `.ax` at PORTABLE; the register 32 that a crew of one granule lacks. -/
theorem witness_FunctionsSpecialResults : (functionOps (.fdiv G false true .rne 4#8 5#8 6#8)).isSome = true ∧ detOf S0 T0 ≠ 3 ∧ Issuing S0 SL0 T0 ∧
    AllHold T0 SL0 G [4#8, 5#8, 6#8] := ⟨rfl, by decide +kernel, issuing0, allHold_of (by decide +kernel)⟩
theorem witness_RegisterInstructionsTrap : detOf (portable S0) T0 = 3 ∧ Issuing (portable S0) SL0 T0 ∧ (functionOps (.frcp G false true 4#8 5#8)).isSome = true ∧
    AllHold T0 SL0 G [4#8, 5#8] ∧ (registerOps (.iadd G false .wrap 32#8 0#8 0#8)).isSome = true ∧ holds (T0.crewOf X0) 32#8 = false ∧
    holds (T0.crewOf X0) 31#8 = true :=
  ⟨by decide +kernel, issuing_of (by decide +kernel), rfl, allHold_of (by decide +kernel), rfl, by decide +kernel⟩
theorem witness_MxqWritesBlock : Issuing S0 SL0 T0 ∧ AllHold T0 SL0 G [4#8, 5#8, 6#8] := ⟨issuing0, allHold_of (by decide +kernel)⟩

/-- A load at the last byte of the address space's lower half passes; one at 2^56 and a misaligned one trap; an atomic at REPEAT traps. -/
theorem witness_MemoryInstructions :
    let i : Instr := .ld G false ⟨.b8, .crew, .rlx, .normal, 0#11⟩ 4#8 2#8
    let at_ (hi lo : Word) : Thread := R [(2, lo), (3, hi)]
    (∃ op, memOps i = some op ∧ Issuing (S1 (at_ 0x00FFFFFF 0xFFFFFFFF)) SL0 (T1 (at_ 0x00FFFFFF 0xFFFFFFFF)) ∧
      AllHold (T1 (at_ 0x00FFFFFF 0xFFFFFFFF)) SL0 op.g op.codes ∧
      op.trap (S1 (at_ 0x00FFFFFF 0xFFFFFFFF)) (T1 (at_ 0x00FFFFFF 0xFFFFFFFF)) (at_ 0x00FFFFFF 0xFFFFFFFF) = none ∧
      op.trap S0 T0 (at_ 0x01000000 0) = some (0x06, some (2 ^ 56))) ∧
    (∃ op, memOps (.ld G false ⟨.b32, .crew, .rlx, .normal, 0#11⟩ 4#8 2#8) = some op ∧ op.trap S0 T0 (at_ 0 2) = some (0x12, some 2)) ∧
    ∃ op, memOps (.atom G .fadd ⟨.b32, .device, .rlx, .normal, 0#11⟩ 4#8 4#8 2#8) = some op ∧ op.trap (portable S0) T0 (at_ 0 0) = some (0x0A, none) :=
  ⟨⟨_, rfl, issuing_put _ rfl, allHold_of (by decide +kernel), by decide +kernel⟩, ⟨_, rfl, by decide +kernel⟩, _, rfl, by decide +kernel⟩

/-- A launch with spill slots of 256 bytes: the slot at offset 124 is the last that fits. -/
def spills : State := { S0 with grids := S0.grids.map fun g => { g with launch := { g.launch with spillSize := 256 } } }
theorem witness_SpillsPrefetchesFences : Issuing spills SL0 T0 ∧ AllHold T0 SL0 G [4#8, 2#8] ∧ lanesOf T0 SL0 G = [X0] ∧
    spillOk spills T0 [R [(2, 124#32)]] 0 2#8 0#11 ∧ ¬ spillOk spills T0 [R [(2, 128#32)]] 0 2#8 0#11 ∧
    (spillAddr T0 [R [(2, 2#32)]] 0 2#8 0#11 % 4 ≠ 0 ∧ spillAddr T0 [R [(2, 128#32)]] 0 2#8 0#11 % 4 = 0 ∧
      spills.spillSize T0 < spillAddr T0 [R [(2, 128#32)]] 0 2#8 0#11 + 132 ∧ ∀ x ∈ [X0], x.crew = 0) ∧ S0.accs = [] ∧ AllHold T0 SL0 G (pairCodes 2#8) :=
  ⟨issuing_of (by decide +kernel), allHold_of (by decide +kernel), lanes0, ⟨by decide +kernel, by decide +kernel⟩,
   fun h => absurd h.2 (by decide +kernel), by decide +kernel, by decide +kernel, allHold_of (by decide +kernel)⟩

/-- MWAIT on the line of the code window that its watch slot names, with no slot, on a changed line, misaligned; and a fired watch. -/
theorem witness_MonitoredWaits :
    let x : Thread := { R [(3, 0x10#32)] with watch := some ((2 ^ 30) / 128, 0) }
    let fired : State := { S1 { x with run := .asleep (.monitor (2 ^ 23)) } with watch := [⟨2 ^ 23, 0, [(1, 0)], true⟩] }
    Issuing (S1 x) SL0 (T1 x) ∧ AllHold (T1 x) SL0 G (pairCodes 2#8) ∧ lanesOf (T1 x) SL0 G = [x] ∧
    (farAddr x ((T1 x).crewOf x) 2#8 0#11 .b32 % 4 = 0 ∧ (S1 x).translate 0 1 (2 ^ 36) .read .program = .ok (2 ^ 30) ∧
      (tabGet LineRec.none (2 ^ 23) (S1 x).lines).seq = 0 ∧ (S1 x).watchRoom (2 ^ 23) 0 = true) ∧
    farAddr (R [(2, 2#32)]) ((T1 x).crewOf x) 2#8 0#11 .b32 % 4 ≠ 0 ∧ X0.watch = none ∧
    fired.watch = [⟨2 ^ 23, 0, [(1, 0)], true⟩] ∧ (fired.thread? 1 0).map (·.run) = some (.asleep (.monitor (2 ^ 23))) :=
  ⟨issuing_put _ rfl, allHold_of (by decide +kernel), by decide +kernel, by decide +kernel, by decide +kernel, rfl, rfl, by decide +kernel⟩

/-! ### Chapters 8 and 13: the memory system's own steps -/

def acc (kind : AccKind) (scope : Scope) (data : List Byte) : Access :=
  { newAccess SL0 T0 X0 kind .global (2 ^ 36) (2 ^ 36) .b32 scope .rlx .normal 4#8 data 0 with id := 0 }
/-- One access of a thread in flight. -/
def SA (a : Access) : State := { S1 { X0 with ld := 1, st := 1 } with accs := [a], nextAcc := 1, tlb := [⟨0, 1, 2 ^ 36, 2 ^ 30, 2 ^ 30, true, true, false⟩] }
def XA : Thread := { X0 with ld := 1, st := 1 }

theorem performable (a : Access) (h : a ∈ [acc (.load false) .device [], acc .store .device [1, 2, 3, 4], acc .store .crew [1, 2, 3, 4],
    acc (.red .add) .device [1, 0, 0, 0], acc (.atom .add) .device [1, 0, 0, 0]]) : Performable (SA a) a (2 ^ 30) := by
  fin_cases h <;> exact ⟨by decide +kernel, by decide +kernel, ⟨rfl, rfl, rfl⟩, by decide +kernel, rfl, by decide +kernel, ⟨0, by decide +kernel⟩⟩

theorem witness_LoadsReturnMemory : let a := { acc (.load true) .device [] with served := some [1, 2, 3, 4] }
    ((SA a).acc? 0 = some a ∧ (SA a).ready a = true ∧ (SA a).team? 1 = some (T1 XA) ∧ (T1 XA).thread? 0 = some XA ∧ ((T1 XA).crew? 0).isSome = true ∧ a.size ≤ 16) ∧
    Performable (SA (acc (.load false) .device [])) (acc (.load false) .device []) (2 ^ 30) ∧ (acc (.load false) .device []).narrow = false ∧
    (SA (acc (.load false) .device [])).remoteReady (acc (.load false) .device []) (2 ^ 30) = true ∧ (SA (acc (.load false) .device [])).thread? 1 0 = some XA :=
  ⟨by decide +kernel, performable _ (by decide), by decide +kernel⟩
theorem witness_StoresWriteTheirBytes : Performable (SA (acc .store .device [1, 2, 3, 4])) (acc .store .device [1, 2, 3, 4]) (2 ^ 30) ∧
    (acc .store .device [1, 2, 3, 4]).narrow = false ∧ (SA (acc .store .device [1, 2, 3, 4])).thread? 1 0 = some XA ∧
    Performable (SA (acc .store .crew [1, 2, 3, 4])) (acc .store .crew [1, 2, 3, 4]) (2 ^ 30) ∧ (acc .store .crew [1, 2, 3, 4]).narrow = true ∧
    (let a := { acc .store .crew [1, 2, 3, 4] with taken := some ⟨0, [(2 ^ 30, 4)]⟩ }
     (SA a).acc? 0 = some a ∧ (SA a).ready a = true ∧ (SA a).region (2 ^ 30) = .hbm 0) ∧
    (let a := { acc .store .crew [1, 2, 3, 4] with space := .window 1, addr := 1020 }
     let s : State := put { T1 XA with scratchBytes := 1024 } (SA a)
     s.acc? 0 = some a ∧ s.ready a = true ∧ s.failCause a = none ∧ s.accPhys a = some (.ok []) ∧ (s.team? 1).isSome = true ∧ s.thread? 1 0 = some XA ∧ s.accs = [a]) :=
  ⟨performable _ (by decide), by decide +kernel, by decide +kernel, performable _ (by decide), by decide +kernel,
   by decide +kernel, by decide +kernel⟩
theorem witness_AtomicsReadModifyWrite : (∀ a ∈ [acc (.red .add) .device [1, 0, 0, 0], acc (.atom .add) .device [1, 0, 0, 0]],
    (SA a).mates a = [a] ∧ (SA a).matesReady [a] = true ∧ a.size = 4 ∧ a.lanes = [] ∧ (SA a).thread? 1 0 = some XA ∧ a.data.length = a.size ∧
      (SA a).remoteReady a (2 ^ 30) = true) ∧
    Performable (SA (acc (.red .add) .device [1, 0, 0, 0])) (acc (.red .add) .device [1, 0, 0, 0]) (2 ^ 30) ∧
    Performable (SA (acc (.atom .add) .device [1, 0, 0, 0])) (acc (.atom .add) .device [1, 0, 0, 0]) (2 ^ 30) :=
  ⟨by decide +kernel, performable _ (by decide), performable _ (by decide)⟩

/-- A load from an unmapped address, in a replayable context and in one that is not; and a walk asked for by a load, of a mapped page and
of one that is not. -/
theorem witness_LateFaultsAndWalks :
    let a := { acc (.load false) .device [] with addr := 2 ^ 40, bad := some 0x06 }
    let s : State := { SA a with die0 := { (SA a).die0 with fb := ⟨0, 1, 0, 0⟩ } }
    let r : State := { s with ctxs := s.ctxs.map fun c => { c with desc := { c.desc with replayable := true } } }
    let w (va : Nat) : WalkReq := ⟨0, 1, va, false⟩
    let asks (va : Nat) : State := { SA { acc (.load false) .device [] with addr := va } with tlb := [], walks := [w va] }
    (∀ u ∈ [s, r], u.acc? 0 = some a ∧ (u.accs.map (·.id)).Nodup ∧ u.failCause a = some 0x06 ∧ a.parked = none ∧ u.l1Hit a = none ∧ u.ready a = true ∧
      u.team? 1 = some (T1 XA) ∧ (T1 XA).thread? 0 = some XA ∧ (T1 XA).asid = a.asid ∧ (u.ctx? 1).isSome = true ∧ u.fbReady 0 = true ∧ u.waits = [] ∧ u.dbg.steps = [] ∧
      a.lanes = [] ∧ u.region ((u.die 0).fb.base + 32 * (u.die 0).fb.wp) = .hbm 0 ∧ u.nextId ≠ 0 ∧ u.accs = [a] ∧ XA.trapvec = 0xFFFFFFFF ∧ u.frameLive (T1 XA) XA ≠ some false ∧
      u.attached 1 = false) ∧
    ({ s with dbg := { s.dbg with caps := [(0, ⟨1, dw (9 * 2 ^ 32 + 2 ^ 16 + 0x47), 0, 0⟩)] } }.attached 1 = true ∧ s.dbg.reached = []) ∧
    (r.ctx? 1).map (·.desc.replayable) = some true ∧ (s.ctx? 1).map (·.desc.replayable) = some false ∧
    (∀ va ∈ [2 ^ 36, 2 ^ 40], (asks va).accs.all (fun b => ((asks va).l1Hit b).isNone && !b.isMarker && b.die == 0 && b.asid == 1) = true ∧ (asks va).walks = [w va] ∧ (asks va).tlbFind 0 1 va = none ∧ (asks va).accs.all (fun b => (asks va).pieces b == [(va, 4)]) = true) ∧
    (asks (2 ^ 36)).walk 0 1 (2 ^ 36) = .ok ⟨0, 1, 2 ^ 36, 2 ^ 30, 2 ^ 30, true, true, false⟩ ∧ (asks (2 ^ 40)).walk 0 1 (2 ^ 40) = .error 0x06 := by decide +kernel

/-- A spill slot in a page of its own (S set): a SPILL of one lane not yet taken and taken, one of all 32 lanes, and a FILL before and after it
is served. -/
def slotAcc (k : AccKind) (n : Nat) (dst : Reg) : Access :=
  { newAccess SL0 T0 X0 k .spillSp (2 ^ 36 + 2 ^ 30) 0 .b32 .crew .rlx .normal dst [] 0 dst with
    id := 0, lanes := (List.range n).map fun i => ⟨i, i, BitVec.ofNat 32 (i + 5), []⟩ }
def slotWords : List (Nat × Nat) := (List.range 33).map fun i => (2 ^ 31 + 4 * i, 4)
def SS (a : Access) : State :=
  { S1 { XA with pend := [⟨4, 0, false⟩] } with accs := [a], nextAcc := 1, tlb := [⟨0, 1, 2 ^ 36 + 2 ^ 30, 2 ^ 30, 2 ^ 31, true, false, true⟩] }
theorem slots_in_hbm : ∀ p ∈ slotWords, (SS (slotAcc .spill 1 0xFF#8)).region p.1 = .hbm 0 := by decide +kernel
theorem atSlot (a : Access) (h : a ∈ [slotAcc .spill 1 0xFF#8, slotAcc .fill 1 4#8, { slotAcc .spill 32 0xFF#8 with taken := some ⟨0, slotWords⟩ },
    { slotAcc .fill 1 4#8 with served := some (List.replicate 132 0) }]) : AtSlot (SS a) a (2 ^ 31) slotWords := by
  fin_cases h
  all_goals exact ⟨by decide +kernel, by decide +kernel, rfl, fun p hp => ⟨0, slots_in_hbm p hp⟩, by decide +kernel⟩
theorem witness_SpillsPrefetchesFences_slots :
    let spill : Access := slotAcc .spill 1 0xFF#8
    let all : Access := { slotAcc .spill 32 0xFF#8 with taken := some ⟨0, slotWords⟩ }
    let fill : Access := slotAcc .fill 1 4#8
    let back : Access := { fill with served := some (List.replicate 132 0) }
    (∀ a ∈ [spill, fill, all, back], AtSlot (SS a) a (2 ^ 31) slotWords) ∧
    ((SS spill).readyAtCore spill = true ∧ (SS spill).failCause spill = none ∧ (SS spill).accPhys spill = some (.ok slotWords) ∧ ((SS spill).byteAt (2 ^ 31)).toNat ≤ 3) ∧
    ((SS all).ready all = true ∧ ∀ j ∈ List.range 32, (all.lanes.map (·.lane)).contains j = true) ∧
    ((SS fill).ready fill = true ∧ fill.size = 4 ∧ (SS fill).l1Hit fill = none ∧ (SS fill).failCause fill = none ∧ (SS fill).accPhys fill = some (.ok slotWords)) ∧
    ((SS back).ready back = true ∧ isV back.dst = true ∧ holds (T0.crewOf X0) back.dst = true ∧
      ((SS back).thread? 1 0).map (fun x => x.pend.all (fun q => q.acc == 0 && q.code == 4 && !q.written) && !x.pend.isEmpty && x.frags.isEmpty) = some true) :=
  ⟨atSlot, by decide +kernel⟩

/-! ### Cross-lane, barriers, tickets, REGROUP, granules, WAITC -/

/-- Two lanes of one crew. -/
def Y0 : Thread := { X0 with tid := 1, lane := 1 }
def T2 (x y : Thread) : Team := { T0 with threads := [x, y] }
def SL2 : IssueSlot := { SL0 with group := [0, 1] }
def S2 (x y : Thread) : State := { put (T2 x y) S0 with issue := some SL2 }
theorem issuing2 (x y : Thread) : Issuing (S2 x y) SL2 (T2 x y) := ⟨rfl, by simp [S2, put, State.team?, T2, SL2, SL0, T0, bareTeam]⟩
theorem distinct0 : Distinct T0 := by unfold Distinct; decide +kernel
theorem distinct1 (x : Thread) : Distinct (T1 x) := by simp [Distinct, T1]
theorem distinct2 (x y : Thread) (h : x.tid ≠ y.tid) : Distinct (T2 x y) := by simp [Distinct, T2, h]
theorem lanes1 (x : Thread) (ht : x.tid = 0) : lanesOf (T1 x) SL0 G = [x] := by
  have hg : guardOf x.preds G = true := by simp [guardOf, G, predOf]
  simp [lanesOf, Team.active, T1, SL0, ht, hg, List.filter, sortLanes, insertLane]
theorem quiet_of {s : State} (h : s.accs = []) (h' : ∀ t ∈ s.teams, ∀ x ∈ t.threads, x.run = .active) : Quiet s :=
  ⟨by simp [h], fun t ht _ x hx => by rw [h' t ht x hx]; trivial⟩

theorem witness_CrossLane : (crossLaneOps (.shfl G false .rot 5#3 4#8 5#8 6#8 0xFF#8)).isSome = true ∧ Issuing (S2 X0 Y0) SL2 (T2 X0 Y0) ∧
    AllHold (T2 X0 Y0) SL2 G [4#8, 5#8, 0xFF#8, 6#8] ∧ lanesOf (T2 X0 Y0) SL2 G = [X0, Y0] :=
  ⟨rfl, issuing2 _ _, allHold_of (by decide +kernel), by decide +kernel⟩

/-- An idle record of the highest barrier; a grid barrier outside a cohort; a recorded phase that is over, and one that is not. -/
theorem witness_BarriersArriveAndWait :
    let x : Thread := { X0 with bars := [⟨.team, 15, 0⟩] }
    let gone : State := put { T1 x with bars := [(15, ⟨1, 0, 0, 0⟩)] } S0
    (Issuing S0 SL0 T0 ∧ Distinct T0 ∧ BarOp.sync ≠ .wait ∧ (BarLevel.team = .grid → inCohort S0 T0) ∧ ∀ y ∈ lanesOf T0 SL0 G, record y .team 15 = none) ∧
    (lanesOf T0 SL0 G = [X0] ∧ ¬ inCohort S0 T0) ∧ (lanesOf (T1 x) SL0 G = [x] ∧ record x .team 15 = some 0) ∧
    (Issuing (S1 x) SL0 (T1 x) ∧ ((S1 x).bar (barrierOf (T1 x) x .team 15)).phase ≤ 0) ∧
    Issuing gone SL0 { T1 x with bars := [(15, ⟨1, 0, 0, 0⟩)] } ∧ 0 < (gone.bar (barrierOf (T1 x) x .team 15)).phase :=
  ⟨⟨issuing0, distinct0, by decide, (fun h => nomatch h), by rw [lanes0]; decide +kernel⟩, ⟨lanes0, by
    rintro ⟨g, hg, hc⟩
    have : (S0.grid? T0.grid).map (·.launch.cohort) = some false := by decide +kernel
    rw [hg] at this; simp [hc] at this⟩, ⟨lanes1 _ rfl, rfl⟩, ⟨issuing_put _ rfl, by decide +kernel⟩, issuing_put _ rfl, by decide +kernel⟩

/-- A team barrier whose one member has arrived, nobody waiting; and one nobody has arrived at. -/
theorem witness_BarrierPhases :
    let x : Thread := { X0 with bars := [⟨.team, 0, 0⟩] }
    let s : State := put { T1 x with bars := [(0, ⟨0, 1, 0, 0⟩)] } S0
    let b : BarRef := ⟨.team, 1, 0, 0⟩
    s.bar b = ⟨0, 1, 0, 0⟩ ∧ (∀ t ∈ s.teams, ∀ y ∈ t.threads, record y b.level b.index = some (s.bar b).phase) ∧ s.accs = [] ∧
    (∀ t ∈ s.teams, ∀ y ∈ t.threads, y.run = .active) ∧ S0.bar b = ⟨0, 0, 0, 0⟩ := by decide +kernel

theorem witness_Tickets :
    let later : Team := { T0 with linear := 1 }
    let past : Team := { T0 with passed := [⟨3, true⟩] }
    (Issuing S0 SL0 T0 ∧ Distinct T0 ∧ AllHold T0 SL0 G [4#8] ∧ (S0.ticket T0.grid 3).value = number S0 T0 ∧ lanesOf T0 SL0 G = [X0] ∧
      (∀ p ∈ T0.passed, p.n ≠ 3) ∧ S0.accs = [] ∧ Quiet S0 ∧ (∀ u ∈ S0.teams, u.parkedTickets = [] ∧ ∀ y ∈ u.threads, y.run = .active) ∧
      ((S0.grid? T0.grid).map fun g => g.tickets[3]?.isSome) = some true) ∧
    (Issuing (put later S0) SL0 later ∧ ((put later S0).ticket later.grid 0).value ≠ number (put later S0) later) ∧
    Issuing (put past S0) SL0 past ∧ ∃ p ∈ past.passed, p.n = 3 :=
  ⟨⟨issuing0, distinct0, allHold_of (by decide +kernel), by decide +kernel, lanes0, by decide +kernel, by decide +kernel,
    quiet_of (by decide +kernel) (by decide +kernel), by decide +kernel⟩, ⟨issuing_put _ rfl, by decide +kernel⟩,
   issuing_put _ rfl, ⟨_, .head _, rfl⟩⟩

/-- Two threads asleep in one `.pack` REGROUP with the lower key on the upper lane; the same with different modes; and one not arrived. -/
theorem witness_Regroup :
    let sl (p : Bool) (k : Word) : Run := .asleep (.regroup p k 3#8)
    let team (p q : Run) : Team := T2 { X0 with run := p } { Y0 with run := q }
    let s (p q : Run) : State := put (team p q) S0
    (Issuing S0 SL0 T0 ∧ Distinct T0 ∧ AllHold T0 SL0 G [4#8]) ∧
    ((s (sl true 5) (sl true 4)).team? 1 = some (team (sl true 5) (sl true 4)) ∧ (team (sl true 5) (sl true 4)).res = .resident ∧
      (team (sl true 5) (sl true 4)).regErrs = [] ∧ (s (sl true 5) (sl true 4)).engs = [] ∧
      (∀ x ∈ (team (sl true 5) (sl true 4)).threads, x.run = .asleep (.regroup true (if x.tid = 0 then 5 else 4) 3#8) ∧ x.ld = 0 ∧ x.st = 0 ∧ x.bars = []) ∧
      ∀ c ∈ T0.crews, ∀ c' ∈ T0.crews, c.granules = c'.granules) ∧
    (s (sl true 5) (sl false 4)).team? 1 = some (team (sl true 5) (sl false 4)) ∧
    (∃ x ∈ (team (sl true 5) .active).threads, x.run = .active) :=
  ⟨⟨issuing0, distinct0, allHold_of (by decide +kernel)⟩, by decide +kernel, by decide +kernel, ⟨{ Y0 with run := .active }, by decide +kernel, rfl⟩⟩

/-- A crew of one granule asks for all five and gets them, or has five and gives four back; one whose need is not free. -/
theorem witness_Granules :
    let c : Crew := ⟨0, [], 0, [], []⟩
    let rich : Team := { T0 with crews := [⟨0, [], 5, [], []⟩] }
    let asleep : Team := T1 { X0 with run := .asleep (.grow 5 0) }
    (Issuing S0 SL0 T0 ∧ lanesOf T0 SL0 G = [X0] ∧ T0.crew? X0.crew = some c ∧ (T0.crews.map (·.slot)).Nodup ∧ (∀ y ∈ T0.threads, y ∈ [X0]) ∧
      S0.growWaiters 0 = [] ∧ 5 - c.granules + ((S0.growWaiters 0).map fun w => w.2.2.2 - S0.granulesOf w.2.1 w.2.2.1).sum ≤ S0.freeGranules 0 ∧ detOf S0 T0 = 0) ∧
    (Issuing (put rich S0) SL0 rich ∧ (rich.crew? 0).map (·.granules) = some 5) ∧
    (1 ≤ detOf (portable S0) T0 ∧ Issuing (portable S0) SL0 T0) ∧
    ((put asleep S0).teams.map (·.id)).Nodup ∧ State.firstRank ((put asleep S0).growWaiters 0) = some (0, 1, 0, 5) ∧
      5 - (put asleep S0).granulesOf 1 0 ≤ (put asleep S0).freeGranules 0 :=
  ⟨⟨issuing0, lanes0, by decide +kernel⟩,
   ⟨issuing_put _ rfl, by decide +kernel⟩, ⟨by decide +kernel, issuing_of (by decide +kernel)⟩, by decide +kernel⟩

theorem witness_WaitcSleepsAboveThreshold : Issuing (S1 { X0 with ld := 15 }) SL0 (T1 { X0 with ld := 15 }) ∧ Distinct (T1 { X0 with ld := 15 }) ∧
    lanesOf (T1 { X0 with ld := 15 }) SL0 G = [{ X0 with ld := 15 }] := ⟨issuing_put _ rfl, distinct1 _, lanes1 _ rfl⟩

/-- Two threads asleep in one `.strict` REGROUP with different keys, in a team of one crew, where it is refused, and of two. -/
theorem witness_Regroup_strict :
    let sl (k : Word) : Run := .asleep (.regroup false k 3#8)
    let one : Team := T2 { X0 with run := sl 5 } { Y0 with run := sl 4 }
    let two : Team := { one with crews := [emptyCrew 0, emptyCrew 1] }
    (∀ t ∈ [one, two], (put t S0).team? 1 = some t ∧ t.res = .resident ∧ (t.threads.map (·.tid)).Nodup ∧ t.regErrs = [] ∧ (put t S0).engs = [] ∧
      (t.threads.filter fun (x : Thread) => x.run != .exited) ≠ [] ∧
      (∀ x ∈ t.threads, x.run = .asleep (.regroup false (if x.tid = 0 then 5 else 4) 3#8) ∧ x.ld = 0 ∧ x.st = 0 ∧ x.bars = []) ∧
      ∀ c ∈ t.crews, ∀ c' ∈ t.crews, c.granules = c'.granules) ∧
    one.crews.length < (([5, 4] : List Word).map fun k => ((one.threads.filter fun y => (if y.tid = 0 then 5 else 4) == k).length + 31) / 32).sum ∧
    (([5, 4] : List Word).map fun k => ((two.threads.filter fun y => (if y.tid = 0 then 5 else 4) == k).length + 31) / 32).sum ≤ two.crews.length := by
  decide +kernel

/-! ### Chapter 9: copies, tags, tile operations -/

/-- A team with a share of 16 KiB, two tags, one tile, and one engine operation of it in hand. -/
def TC : Team := { T0 with scratchBytes := 16384, scratch := [(0, 7#8)], tags := [⟨1, false, 0⟩, ⟨0, true, 1⟩], tiles := [⟨none, [], [0, 0, 0, 0], [], [], 0⟩], cp := 1, tl := 1 }
def eng (k : EngKind) : EngOp := { State.mkEng TC X0 k with id := 9 }
def SE (k : EngKind) : State := { put TC S0 with engs := [eng k], nextId := 10 }
theorem lanesC : lanesOf TC SL0 G = [X0] := by decide +kernel
theorem issuingC : Issuing (put TC S0) SL0 TC := issuing_put _ rfl

/-- The last tag, and one that the team lacks. -/
theorem witness_CopiesIssue : (∀ n ∈ [1#6, 2#6], (copyForm (.cpy G .b8 n 2#8 12#8 14#8)).isSome = true) ∧ Issuing (put TC S0) SL0 TC ∧ lanesOf TC SL0 G = [X0] ∧
    (∀ r ∈ pairCodes 2#8 ++ pairCodes 12#8 ++ pairCodes 14#8, holds (TC.crewOf X0) r = true) ∧ TC.tags[1]? = some ⟨0, true, 1⟩ ∧ TC.tags.length ≤ 2 :=
  ⟨by decide, issuingC, lanesC, by decide +kernel⟩

/-- One byte of the share to the last byte of the code window's page, and a box of no columns. -/
theorem witness_CopiesComplete :
    let one (k : CopyKind) (src dst : Word × Word) (box0 : Word) : EngKind := .copy k 1 0 src.1 src.2 dst.1 dst.2 box0 1 0
    let out := one .cpyo (0, 1) (0x3FFFFFFF#32, 0x10#32) 0x00010001#32
    let none_ := one .cpyo (0, 1) (0x3FFFFFFF#32, 0x10#32) 0x00010000#32
    (Untraced (SE out) ∧ (SE out).eng? 9 = some (eng out) ∧ (SE out).team? 1 = some TC ∧ TC.tags[0]? = some ⟨1, false, 0⟩ ∧ (SE out).engHeld (eng out) = false) ∧
    (SE none_).copyOk TC .cpyo 1 0 1 0x3FFFFFFF 0x10 0x00010000 1 0 = false ∧ (SE none_).engHeld (eng none_) = false ∧
    (SE out).copyOk TC .cpyo 1 0 1 0x3FFFFFFF 0x10 0x00010001 1 0 = true ∧ boxCols 0x00010001#32 * 1 ≤ (1#32).toNat ∧
    (SE out).walks = [] ∧ State.unitsLeft (eng out) 0x00010001#32 1 = [⟨0, 0, 0, 0⟩] ∧ ((SE out).svc.rowCopies = [] ∧
      ∀ va ∈ State.copyVirt .cpyo 1 0 1 0x3FFFFFFF 0x10 1 [⟨0, 0, 0, 0⟩], (SE out).canWalk 0 1 va = true) ∧
    ([(⟨0, 0, 0, 0⟩ : State.CopyUnit)].mapM fun p => (SE out).copySource TC .cpyo 1 [] 0 1 1 p) = .ok [[7#8]] ∧
    ([(⟨0, 0, 0, 0⟩ : State.CopyUnit)].mapM fun p => (SE out).copyDest TC 1 0x3FFFFFFF 0x10 1 p) = .ok [2 ^ 31 - 1] :=
  ⟨⟨rfl, by decide +kernel⟩, by decide +kernel, by decide +kernel, by decide +kernel, by decide +kernel,
   rfl, by decide +kernel, by decide +kernel, by decide +kernel⟩

/-- A copy of one byte to an unmapped page, in a context that is not replayable and in one that is; and one from a poisoned unit of the share. -/
theorem witness_CopiesComplete_fail :
    let k (hi : Word) : EngKind := .copy .cpyo 1 0 0 1 0 hi 0x00010001 1 0
    let v : Team := { TC with scratchPoison := [0] }
    let us : List State.CopyUnit := [⟨0, 0, 0, 0⟩]
    let s (t : Team) (hi : Word) (rep : Bool) : State :=
      { put t S0 with engs := [eng (k hi)], nextId := 10, die0 := { S0.die0 with fb := ⟨0, 1, 0, 0⟩ }
                      tlb := (put t S0).tlb, walked := [⟨0, 1, 2 ^ 40, true⟩, ⟨0, 1, 2 ^ 36, true⟩]
                      ctxs := S0.ctxs.map fun c => { c with desc := { c.desc with replayable := rep } } }
    (∀ q ∈ [(TC, (0x100 : Word), false), (TC, 0x100, true), (v, 0x10, false)], (s q.1 q.2.1 q.2.2).eng? 9 = some (eng (k q.2.1)) ∧
      (s q.1 q.2.1 q.2.2).team? 1 = some q.1 ∧ q.1.tags[0]? = some ⟨1, false, 0⟩ ∧ (s q.1 q.2.1 q.2.2).engHeld (eng (k q.2.1)) = false ∧
      (s q.1 q.2.1 q.2.2).copyOk q.1 .cpyo 1 0 1 0 q.2.1 0x00010001 1 0 = true ∧ (s q.1 q.2.1 q.2.2).dbg.steps = [] ∧ (s q.1 q.2.1 q.2.2).waits = [] ∧
      ((s q.1 q.2.1 q.2.2).ctx? 1).map (·.desc.replayable) = some q.2.2 ∧ (s q.1 q.2.1 q.2.2).fbReady 0 = true ∧ (s q.1 q.2.1 q.2.2).svc.rowCopies = [] ∧
      State.unitsLeft (eng (k q.2.1)) 0x00010001 1 = us ∧ (∀ va ∈ State.copyVirt .cpyo 1 0 1 0 q.2.1 1 us, (s q.1 q.2.1 q.2.2).canWalk 0 1 va = true) ∧
      (s q.1 q.2.1 q.2.2).nextId ≠ 0) ∧ boxRows 0x00010001 = 1 ∧
    (us.mapM fun p => (s TC 0x100 true).copySource TC .cpyo 1 [] 0 1 1 p) = .ok [[7#8]] ∧
    (us.mapM fun p => (s TC 0x100 true).copyDest TC 1 0 0x100 1 p) = .error (0x06, 2 ^ 40, 1) ∧
    (us.mapM fun p => (s v 0x10 false).copySource v .cpyo 1 [] 0 1 1 p) = .error (0x09, 0, 0) := by decide +kernel

/-- Copies into the share of a neighbour: a cluster of two teams, the descriptor one core to the right. -/
theorem witness_CopiesComplete_share :
    let v : Team := { TC with id := 5, core := 1, rank := 1 }
    let k : EngKind := .copy .cpy 1 0 0 0x10 0x00080000 1 0x00010001 1 0
    let s : State := { SE k with teams := [TC, v], clusters := [⟨3, 2, 0, 0, 0, 0, 2, 1, []⟩] }
    s.copyOk TC .cpy 1 0 0x10 0x00080000 1 0x00010001 1 0 = true ∧ s.windowTarget TC 0x00080000 = some (v, 0) ∧ v.id ≠ (eng k).team ∧
    (State.unitsLeft (eng k) 0x00010001 1).mapM (fun p => s.copySource TC .cpy 1 [] 0 0x10 1 p) = .ok [[0#8]] ∧ s.walks = [] ∧
    s.copyTargets TC .cpy 0x00080000 0 = [v] ∧ (State.unitOffsets 0x00080000 1 1 ⟨0, 0, 0, 0⟩).Nodup ∧ s.team? 1 = some TC ∧ s.engHeld (eng k) = false := by decide +kernel

/-- Masks on two tags: only the done tag, only the other, both, none, and one past the last tag. -/
theorem witness_Tags :
    let x (m : Word) : Thread := R [(2, m)]
    let t (m : Word) : Team := { TC with threads := [x m] }
    TC.tags.length ≤ 64 ∧ Distinct (t 1) ∧ (∀ n ∈ ([0, 1, 2, 3, 4] : List Nat), lanesOf (t (BitVec.ofNat 32 n)) SL0 G = [x (BitVec.ofNat 32 n)] ∧
      rd64 (t (BitVec.ofNat 32 n)) (x (BitVec.ofNat 32 n)) 2#8 = n) ∧
    (∀ m, Issuing (put (t m) S0) SL0 (t m)) ∧ AllHold (t 3) SL0 G (4#8 :: pairCodes 2#8) ∧ (∀ y ∈ lanesOf (t 3) SL0 G, rd64 (t 3) y 2#8 < 2 ^ (t 3).tags.length) :=
  ⟨by decide +kernel, by unfold Distinct; decide +kernel, by decide +kernel, fun _ => issuing_put _ rfl, allHold_of (by decide +kernel), by decide +kernel⟩

theorem witness_TileLoadsIssue : Issuing (put TC S0) SL0 TC ∧ lanesOf TC SL0 G = [X0] ∧ (∀ r ∈ pairCodes 30#8, holds (TC.crewOf X0) r = true) ∧
    (0#6 : BitVec 6).toNat < TC.tiles.length ∧ TC.tiles.length ≤ (1#6 : BitVec 6).toNat := ⟨issuingC, lanesC, by decide +kernel⟩

/-- A block of zeros in the window (the default chunk of a floating pair is taken there), the same at PORTABLE, a misaligned one, and a
gang whose mask names a member that has retired. -/
theorem witness_ProductsIssue :
    let z : Team := { TC with scratch := (List.range 64).map fun n => (n, if n = 32 then 2#8 else 0#8) }
    let d : List DWord := [0, 0, 0, 0, 2, 0, 0, 0]
    let s : State := { put z S0 with grids := S0.grids.map fun g => { g with launch := { g.launch with w := 2 } }, clusters := [⟨3, 2, 0, 0, 0, 0, 2, 1, []⟩] }
    Issuing (put z S0) SL0 z ∧ lanesOf z SL0 G = [X0] ∧ (∀ r ∈ [4#8] ++ pairCodes 6#8 ++ pairCodes 8#8, holds (z.crewOf X0) r = true) ∧
    (put z S0).readBlock z true 0 = .ok d ∧ defaultChunk (blockOf d) = true ∧ detOf (put z S0) z ≠ 3 ∧ detOf (portable S0) TC = 3 ∧
    (put z S0).readBlock z true 8 = .error 0x12 ∧ s.readBlock z true 0 = .ok d ∧ (blockOf d).mask.testBit 1 = true ∧
    ∀ u ∈ s.teams, u.rank ≠ 1 :=
  ⟨issuing_put _ rfl, by decide +kernel⟩

/-- A `.tk` drain of the first team waits, and then starts; the four ways of not being taken. -/
theorem witness_DrainsIssueAndStart :
    let z : Drain := ⟨true, .e4m3, false, true, false, false, 0#6, none, 0#8, 4#8, 16#8, 0#8⟩
    let k : DrainArgs := ⟨z, 8, 0, 0, 0, 0, 0, false, 0⟩
    let e : EngOp := { eng (.drain k) with queued := true }
    let s : State := { SE (.drain k) with engs := [e] }
    Issuing (put TC S0) SL0 TC ∧ lanesOf TC SL0 G = [X0] ∧ (∀ r ∈ pairCodes 4#8 ++ [16#8] ++ pairCodes 0#8, holds (TC.crewOf X0) r = true) ∧
    z.tile.toNat < TC.tiles.length ∧ TC.tiles.length ≤ (1#6 : BitVec 6).toNat ∧ (∀ p ∈ TC.passed, p.n ≠ 0) ∧ detOf (put TC S0) TC = 0 ∧
    s.eng? 9 = some e ∧ s.team? 1 = some TC ∧ Untraced s ∧ s.enginesFrozen 1 = false ∧ (s.ticket TC.grid 0).value = number s TC :=
  ⟨issuingC, lanesC, by decide +kernel, by decide +kernel, by decide +kernel, by decide +kernel, by decide +kernel, by decide +kernel, by decide +kernel, rfl,
   by decide +kernel⟩

/-- An 8 × 8 product of one column of INT8 (Table 3.1), as a block. -/
def intBlock : List DWord := [dw (1 + 4 * 2 ^ 8 + 4 * 2 ^ 16 + 2 ^ 38), 0, 0, 0, 0, 0, 0, 0]
theorem witness_TileOperationsEnd :
    let mma (b : List DWord) (g : Bool) : EngKind := .mma ⟨b, 0, 1, 128, 1, g, 0, 0⟩
    let z : Tile := ⟨none, [], [0, 0, 0, 0], [], [], 0⟩
    let p : GangPart := ⟨0, 1, none⟩
    let seen : State.Seen := State.seenOf (eng .mzero) 0 0
    let x : MmaArgs := ⟨intBlock, 0, 1, 128, 1, true, 0, 0⟩
    let gang : State := { SE (mma intBlock true) with engs := [{ eng (mma intBlock true) with parts := [p] }] }
    (∀ k ∈ [.mzero, .mload 0 16, .mload 0 0, mma intBlock false, mma [0, 0, 0, 0, 0, 0, 0, 0] false], (SE k).eng? 9 = some (eng k) ∧ (SE k).engHeld (eng k) = false ∧
      (SE k).team? 1 = some TC ∧ (SE k).tileBlocked (eng k) = false ∧ (SE k).dbg.caps = []) ∧ TC.tiles[0]? = some z ∧ z.spoiled = [] ∧
    (SE .mzero).descOk TC 0 0 64 64 4 = false ∧ (SE .mzero).descOk TC 0 16 64 64 4 = true ∧ (SE .mzero).windowTarget TC 0 = some (TC, 0) ∧ TC.scratchPoison = [] ∧
    blockOk (blockOf [0, 0, 0, 0, 0, 0, 0, 0]) false 1 1 0 = false ∧ blockOk (blockOf intBlock) false 1 1 0 = true ∧ (blockOf intBlock).tile = 0 ∧
    isIntCode (blockOf intBlock).fa = true ∧
    (∀ n ∈ ([0, 128] : List Nat), ((SE .mzero).operandOf TC TC 0 seen false (BitVec.ofNat 32 n) 1 4 8 1).ok = true ∧
      ((SE .mzero).operandOf TC TC 0 seen false (BitVec.ofNat 32 n) 1 4 8 1).poisoned = false) ∧
    gang.eng? 9 = some { eng (mma intBlock true) with parts := [p] } ∧ gang.tileBlocked { eng (mma intBlock true) with parts := [p] } = false ∧
    gang.gangRefused TC { eng (mma intBlock true) with parts := [p] } x = false ∧
    ((SE .mzero).operandOf TC TC 0 seen false 0 0 4 8 1).ok = false := by decide +kernel

theorem witness_TwaitReturnsStatus : Issuing (put T0 S0) SL0 T0 ∧ Distinct T0 ∧ AllHold T0 SL0 G [4#8] ∧ lanesOf T0 SL0 G = [X0] ∧ T0.tl = 0 ∧
    Issuing (put TC S0) SL0 TC ∧ lanesOf TC SL0 G = [X0] ∧ TC.tl ≠ 0 :=
  ⟨issuing_put _ rfl, distinct0, allHold_of (by decide +kernel), lanes0, rfl, issuingC, lanesC, by decide⟩
/-- The tile with nothing pending, and with one complete operation that no TWAIT has covered. -/
theorem witness_TileReadsAndWrites : S0.tilePending ⟨none, [], [0, 0, 0, 0], [⟨7, 1, none⟩], [], 4⟩ = false ∧ Issuing (put TC S0) SL0 TC ∧ Distinct TC ∧ TC.tiles[(0#6 : BitVec 6).toNat]? = some ⟨none, [], [0, 0, 0, 0], [], [], 0⟩ ∧
    AllHold TC SL0 G (quadCodes 28#8) ∧ AllHold TC SL0 G [4#8] ∧ lanesOf TC SL0 G ≠ [] ∧ ((lanesOf TC SL0 G).map (·.lane)).Nodup :=
  ⟨by decide +kernel, issuingC, by unfold Distinct; decide +kernel, by decide +kernel, allHold_of (by decide +kernel), allHold_of (by decide +kernel), by decide +kernel⟩

/-- A block of E4M3 (Table 3.1) that is accepted, one whose operand is out of reach, and one whose operand is poisoned;
a gang of one part not begun, ended, and with a B that is refused for all. -/
theorem witness_TileOperationsEnd_products :
    let args (b : List DWord) (a1 : Word) (g : Bool) : MmaArgs := ⟨b, 0, a1, 128, 1, g, 0, 0⟩
    let mma (b : List DWord) (a1 : Word) : EngOp := eng (.mma (args b a1 false))
    let bad : Team := { TC with scratchPoison := [0] }
    let s (t : Team) (e : EngOp) : State := { put t S0 with engs := [e], nextId := 10 }
    let os (t : Team) (b : List DWord) (a1 : Word) : List State.Operand := (s t (mma b a1)).partOperands t t (mma b a1) (args b a1 false)
    let flo : List DWord := [dw (1 + 8 * 2 ^ 8 + 8 * 2 ^ 16 + 2 ^ 38), 0, 0, 0, 0, 0, 0, 0]
    let mine : List DWord := [dw (1 + 4 * 2 ^ 8 + 4 * 2 ^ 16 + 2 ^ 38), 0, 0, 0, 1, 0, 0, 0]
    let issuerB : List DWord := [dw (1 + 4 * 2 ^ 8 + 4 * 2 ^ 16 + 2 ^ 38), 0, 0, 0, dw (1 + 2 ^ 11), 0, 0, 0]
    let gang (b : List DWord) (st : Option Nat) : EngOp := { eng (.mma { args b 1 true with b1 := 0 }) with parts := [⟨0, 1, st⟩], signal := some 0 }
    (∀ q ∈ [(TC, (1 : Word)), (TC, 0), (bad, 1)], (s q.1 (mma flo q.2)).eng? 9 = some (mma flo q.2) ∧ (s q.1 (mma flo q.2)).engHeld (mma flo q.2) = false ∧
      (s q.1 (mma flo q.2)).team? 1 = some q.1 ∧ (s q.1 (mma flo q.2)).tileBlocked (mma flo q.2) = false ∧
      ((s q.1 (mma flo q.2)).ctx? 1).isSome = true) ∧
    blockOk (blockOf flo) false 1 1 0 = true ∧ (blockOf flo).tile = (mma flo 1).tile ∧
    (os TC flo 1).all (fun o => o.ok && !o.poisoned) = true ∧ (os TC flo 0).any (fun o => !o.ok) = true ∧
    ((os bad flo 1).all (·.ok) = true ∧ (os bad flo 1).any (·.poisoned) = true) ∧
    (∀ st ∈ [none, some 0, some 2], (s TC (gang mine st)).eng? 9 = some (gang mine st) ∧ (s TC (gang mine st)).engHeld (gang mine st) = false ∧
      (s TC (gang mine st)).gangRefused TC (gang mine st) { args mine 1 true with b1 := 0 } = false ∧
      ((s TC (gang mine st)).cluster? (gang mine st).cluster).isSome = true ∧ (gang mine st).parts.find? (fun q => q.rank == 0) = some ⟨0, 1, st⟩) ∧
    blockOk (blockOf mine) true 1 1 0 = true ∧
    (s TC (gang issuerB none)).gangRefused TC (gang issuerB none) { args issuerB 1 true with b1 := 0 } = true := by decide +kernel

/-- Drains of an 8 × 8 tile: to the window and to memory in either mode, one that R207 refuses (a pitch of 0), one with its elements written and
its amax update left, and two whose destination is unmapped. -/
theorem witness_DrainsEnd :
    let form (glob : Bool) (amax : Option Scope) : Drain := ⟨glob, .f32, false, false, false, false, 0#6, amax, 0#8, 4#8, 16#8, 0#8⟩
    let args (glob : Bool) (amax : Option Scope) (dest : Nat) (pitch : Word) (written : Bool) : DrainArgs :=
      ⟨form glob amax, 0, dest, pitch, 2 ^ 36 + 2 ^ 21, 0, 0, false, written⟩
    let z : Tile := ⟨none, [], [0, 0, 0, 0], [], [], 0⟩
    let s (x : DrainArgs) (rep : Bool) : State :=
      { SE (.drain x) with die0 := { S0.die0 with fb := ⟨0, 1, 0, 0⟩ }, walked := [⟨0, 1, 2 ^ 40, true⟩]
                           ctxs := S0.ctxs.map fun c => { c with desc := { c.desc with replayable := rep } } }
    let able (x : DrainArgs) (rep : Bool) : Bool :=
      (s x rep).eng? 9 == some (eng (.drain x)) && !(s x rep).engHeld (eng (.drain x)) && (s x rep).team? 1 == some TC && !(s x rep).tileBlocked (eng (.drain x)) &&
      TC.tiles[0]? == some z && z.opens.isEmpty && (s x rep).drainTurn (eng (.drain x)) x && (s x rep).svc.rowCopies.isEmpty && (s x rep).waits.isEmpty
    let win := args false none 0 2 false
    let out := args true none (2 ^ 36 + 2 ^ 20) 2 false
    let far := args true none (2 ^ 40) 2 false
    let amax := args true (some .device) (2 ^ 36 + 2 ^ 20) 2 true
    (∀ x ∈ [win, out, amax], able x false = true ∧ (s x false).drainOk TC x = true ∧
      (State.drainVirt (eng (.drain x)) x).all (fun va => (s x false).canWalk 0 1 va) = true) ∧
    (able (args false none 0 0 false) false = true ∧ (s (args false none 0 0 false) false).drainOk TC (args false none 0 0 false) = false) ∧
    (((State.drainLeft (eng (.drain out)) out).mapM fun p => (s out false).drainPhys TC out p.2.1 p.2.2).toOption.map (·.take 9)) =
      some ((List.range 8).map (fun c => 2 ^ 30 + 2 ^ 20 + 4 * c) ++ [2 ^ 30 + 2 ^ 20 + 32]) ∧
    ((s win false).windowTarget TC win.dest = some (TC, 0) ∧ TC.scratchPoison = [] ∧ drainN win.vpitch * 4 ≤ drainPitch win.vpitch) ∧
    ((s amax false).translate 0 1 amax.amaxAddr .write .program = .ok (2 ^ 30 + 2 ^ 21) ∧ (s amax false).region (2 ^ 30 + 2 ^ 21) = .hbm 0 ∧
      (s amax false).poisoned (2 ^ 30 + 2 ^ 21) 4 = none) ∧
    ∀ rep ∈ [false, true], able far rep = true ∧ (s far rep).drainOk TC far = true ∧ (s far rep).fbReady 0 = true ∧ (s far rep).dbg.steps = [] ∧
      ((s far rep).ctx? 1).map (·.desc.replayable) = some rep ∧ (s far rep).nextId ≠ 0 ∧
      ((State.drainLeft (eng (.drain far)) far).all fun p => (s far rep).canWalk 0 1 (drainAddr far p.2.1 p.2.2)) = true ∧
      ((State.drainLeft (eng (.drain far)) far).mapM fun p => (s far rep).drainPhys TC far p.2.1 p.2.2) = .error (0x06, 2 ^ 40, 1) := by decide +kernel

/-- Operands in a granule that the crew lacks: of a shuffle, a block, a wide special register, tags, a record and a tile element; one level that
hides the register and one that does not; and two lanes of which one crew holds the granule. -/
theorem witness_RegisterInstructionsTrap_lanes :
    let y : Thread := { Y0 with crew := 1, lane := 0 }
    let t : Team := { T2 X0 y with crews := [emptyCrew 0, { emptyCrew 1 with granules := 1 }] }
    (crossLaneOps (.shfl G false .rot 5#3 4#8 32#8 6#8 0xFF#8)).isSome = true ∧ Issuing (put t (S2 X0 y)) SL2 t ∧
    holdersOf t SL2 G [4#8, 32#8] = [y] ∧ lanesOf t SL2 G = [X0, y] ∧ detOf S0 T0 < hiddenFrom .ref ∧ hiddenFrom .ref ≤ detOf (portable S0) T0 ∧
    (∀ codes ∈ [4#8 :: pairCodes 40#8, quadCodes 32#8, [32#8]], holdersOf TC SL0 G codes = []) ∧
    TC.tiles[(0#6 : BitVec 6).toNat]? = some ⟨none, [], [0, 0, 0, 0], [], [], 0⟩ ∧ Issuing (put TC S0) SL0 TC :=
  ⟨rfl, ⟨rfl, by decide +kernel⟩, by decide +kernel, by decide +kernel, by decide +kernel, by decide +kernel, by decide +kernel, by decide +kernel, issuingC⟩

/-! ### Chapters 6 and 10: control flow, traps, special registers, launches by a kernel -/

/-- Bytes of the page behind the code window. -/
def page (off : Nat) (bs : List Byte) (s : State) : State := s.poke (2 ^ 30 + off) bs
def word64 (n : Nat) : List Byte := toBytes 8 n
/-- The machine with a pool word, a word that is no header, a header of a clause of one instruction and its NOP, and a header with a reserved bit set, behind the running clause. -/
def SB (x : Thread) : State := page 16 (word64 (0xFB * 2 ^ 56) ++ word64 0 ++ word64 0xFA00FFFF00000000 ++ word64 0xA670000000000000 ++ word64 0xFA00FFFF00000001) (S1 x)

def XB : Thread := R [(4, 0xFFFFFFFF), (5, 2)]
/-- Targets at the clause itself, behind it, at a pool word, at a word that is no header, misaligned, and outside every page; a RET that ends
its thread; CALLX at the end of its index range. -/
theorem witness_BranchesAndCalls :
    let x : Thread := XB
    let t : Team := T1 XB
    (Issuing (SB x) SL0 t ∧ lanesOf t SL0 G = [x] ∧ AllHold t SL0 G [6#8, 4#8, 5#8] ∧ (SB x).accs = []) ∧
    (rd t x 4#8 = 0xFFFFFFFF ∧ 2 ^ 32 ≤ un (rd t x 4#8) + (1#11 : BitVec 11).toNat ∧ un (rd t x 5#8) + (0#11 : BitVec 11).toNat < 2 ^ 32 ∧
      (SB x).readVirt 0 1 ((SB x).window 1 + 16 * 2) 8 .entry .program = .ok (word64 0xFA00FFFF00000000)) ∧
    (SB x).team? 1 = some t ∧ t.thread? 0 = some x ∧ (2 ^ 36 + 32 + 8) % 16 ≠ 0 ∧ (SB x).fetchWord 0 1 (2 ^ 40) = .error 0x07 ∧
    (SB x).fetchWord 0 1 (2 ^ 36 + 16) = .ok (dw (0xFB * 2 ^ 56)) ∧ (SB x).fetchWord 0 1 (2 ^ 36 + 64) = .ok 0 ∧
    (SB x).fetchWord 0 1 (2 ^ 36 + 32) = .ok (headerFor 0) ∧ (SB x).entryFetch 0 1 (2 ^ 36 + 32) (headerFor 0) = .ok [dw 0xA670000000000000] ∧
    (SB x).entryFetch 0 1 (2 ^ 36 + 48) (dw 0xFA00FFFF00000001) = .error (plainFault 0x17) :=
  ⟨⟨issuing_of (by decide +kernel), by decide +kernel, allHold_of (by decide +kernel), by decide +kernel⟩, by decide +kernel⟩

theorem witness_ThreadsEndAndYield : Issuing S0 SL0 T0 ∧ Distinct T0 ∧ (∀ x ∈ lanesOf T0 SL0 G, PrivateQuiet S0 T0 x) ∧ (∃ x, x ∈ T0.threads) :=
  ⟨issuing0, distinct0, fun _ _ a ha => absurd ha (by simp [show S0.accs = [] from by decide +kernel]), ⟨X0, .head _⟩⟩

def XR (n : Nat) : Thread := R [(4, BitVec.ofNat 32 n)]
/-- The last level below the one that hides `s.ref`, and that one; addresses at the end of the private space, past it, and misaligned. -/
theorem witness_SpecialRegisters :
    (Issuing S0 SL0 T0 ∧ AllHold T0 SL0 G (pairCodes 2#8) ∧ AllHold T0 SL0 G [4#8] ∧ detOf S0 T0 < hiddenFrom .ref ∧ Distinct T0) ∧
    (Issuing (portable S0) SL0 T0 ∧ hiddenFrom .ref ≤ detOf (portable S0) T0) ∧
    (∀ y ∈ lanesOf (T1 (XR 64)) SL0 G, un (rd (T1 (XR 64)) y 4#8) % 64 = 0 ∧ un (rd (T1 (XR 64)) y 4#8) + 192 ≤ (S1 (XR 64)).privSize (T1 (XR 64))) ∧
    (∀ n ∈ ([64, 65, 128] : List Nat), lanesOf (T1 (XR n)) SL0 G = [XR n] ∧ (S1 (XR n)).issue = some SL0 ∧ (S1 (XR n)).team? 1 = some (T1 (XR n))) ∧ SReg.fault ≠ .trapvec ∧
    un (rd (T1 (XR 65)) (XR 65) 4#8) % 64 ≠ 0 ∧ un (rd (T1 (XR 128)) (XR 128) 4#8) % 64 = 0 ∧ (S1 (XR 128)).privSize (T1 (XR 128)) < un (rd (T1 (XR 128)) (XR 128) 4#8) + 192 :=
  ⟨⟨issuing0, allHold_of (by decide +kernel), allHold_of (by decide +kernel), by decide +kernel, distinct0⟩,
   ⟨issuing_of (by decide +kernel), by decide +kernel⟩, by decide +kernel, by decide +kernel, by decide, by decide +kernel⟩

/-- No child, and one waiting; an ICSYNC that waits for a store, and one that waits for nothing. -/
theorem witness_JoinsAndCodeSync :
    let child : State := { S0 with grids := S0.grids ++ S0.grids.map fun g => { g with id := 9, parent := some 1, state := .waiting } }
    let kids (s : State) : List Grid := s.grids.filter fun h => h.parent == some 1 && (match h.state with | .retired _ => false | _ => true)
    let w (l : List Nat) : IcWait := ⟨1, .device, l, []⟩
    let busy : State := SA (acc .store .device [1, 2, 3, 4])
    Issuing S0 SL0 T0 ∧ Distinct T0 ∧ kids S0 = [] ∧ kids child ≠ [] ∧ Issuing child SL0 T0 ∧ (∀ x ∈ lanesOf T0 SL0 G, x.icsync = []) ∧
    (({ XA with icsync := [w [0]] } : Thread) ∈ (T1 { XA with icsync := [w [0]] }).threads ∧ ∃ i ∈ [0], ∃ a ∈ busy.accs, a.id = i) ∧
    ({ X0 with icsync := [w []] } : Thread) ∈ (T1 { X0 with icsync := [w []] }).threads :=
  ⟨issuing0, distinct0, by decide +kernel, by decide +kernel, issuing_of (by decide +kernel), by decide +kernel,
   ⟨.head _, 0, .head _, _, .head _, rfl⟩, .head _⟩

/-- A launch record: kernel at the code window's base, one team of one crew, 256 bytes of private space. -/
def launchRecord (detmin ypart : Nat) : List Byte :=
  word64 (2 ^ 36) ++ word64 0 ++ toBytes 4 1 ++ toBytes 2 ypart ++ toBytes 2 1 ++ toBytes 4 detmin ++ toBytes 4 0 ++ toBytes 4 256 ++ List.replicate 28 0
def XK : Thread := R [(2, 64), (3, 0x10)]
/-- The thread's pair holds the record's address; its context has a private pool. -/
def SK (detmin ypart depth pool : Nat) : State :=
  let s : State := page 64 (launchRecord detmin ypart) (S1 XK)
  { s with grids := s.grids.map fun g => { g with launch := { g.launch with depth := depth } }
           ctxs := s.ctxs.map fun c => { c with desc := { c.desc with poolSize := pool } } }
/-- A record that is accepted at the highest depth that may launch, one refused for want of a pool, one at depth 9, one of no teams, one of a
level above the grid's, and a misaligned one. -/
theorem witness_ChildLaunch :
    let x : Thread := XK
    let t : Team := T1 XK
    let l (s : State) (detmin ypart : Nat) : LaunchF := recordLaunch (launchRecord detmin ypart) (((s.grid? 2).map fun g => g.launch.depth).getD 0 + 1) 1
      (((s.grid? 2).map fun g => g.launch.maxDies).getD 0) (((s.grid? 2).map fun g => g.launch.hint).getD 0)
    let ok : State := SK 0 1 8 (2 ^ 20)
    (∀ k ∈ ([(0, 1, 8, 2 ^ 20), (0, 1, 8, 0), (0, 1, 9, 0), (0, 0, 8, 0), (2 ^ 27, 1, 8, 0)] : List (Nat × Nat × Nat × Nat)),
      (SK k.1 k.2.1 k.2.2.1 k.2.2.2).issue = some SL0 ∧ (SK k.1 k.2.1 k.2.2.1 k.2.2.2).team? 1 = some t) ∧ lanesOf t SL0 G = [x] ∧ (∀ r ∈ pairCodes 2#8, holds (t.crewOf x) r = true) ∧ (ok.grid? t.grid).isSome = true ∧
    ok.accs = [] ∧ rd64 t x 2#8 % 64 = 0 ∧ ok.readVirt 0 1 (rd64 t x 2#8) 64 .read .program = .ok (launchRecord 0 1) ∧
    (ok.grid? 2).map (fun g => g.launch.depth) = some 8 ∧ (l ok 0 1).inRange = true ∧ field (launchRecord 0 1) 24 4 < 2 ^ 29 ∧ field (launchRecord 0 1) 28 4 < 2 ^ 10 ∧
    field (launchRecord 0 1) 60 4 = 0 ∧ (ok.childrenOf 1).length < 64 ∧ (l ok 0 1).detmin ≤ detOf ok t ∧
    ok.refused (l ok 0 1) 1 0 [0] (some 1) = false ∧ (ok.grid? 2).map (fun g => g.dies) = some [0] ∧
    (SK 0 1 8 0).refused (l ok 0 1) 1 0 [0] (some 1) = true ∧ (l ok 0 1).completion = 0 ∧ ((SK 0 1 9 0).grid? 2).map (fun g => g.launch.depth) = some 9 ∧
    (l ok 0 0).inRange = false ∧ detOf ok t < (l ok (2 ^ 27) 1).detmin ∧ rd64 (T1 (R [(2, 65)])) (R [(2, 65)]) 2#8 % 64 ≠ 0 ∧
    (rd64 (T1 (R [(3, 0x100)])) (R [(3, 0x100)]) 2#8 = 2 ^ 40 ∧ (2 : Nat) ^ 40 % 64 = 0 ∧ ok.readVirt 0 1 (2 ^ 40) 64 .read .program = .error 0x06 ∧
      ({ ok with poison := [2 ^ 27 + 8] } : State).readVirt 0 1 (rd64 t x 2#8) 64 .read .program = .error 0x09) := by decide +kernel

/-- A thread whose private space lies in a page of its own (S set), its handler at the running clause; frames there, live or not. -/
def XT : Thread := { X0 with trapvec := 0 }
def TT (x : Thread) : Team := { T1 x with privBase := 2 ^ 36 + 2 ^ 30 }
/-- A frame saved at index 0 of the running clause, with these flags and this clause. -/
def frame (flags clause : Nat) : List Byte := word64 clause ++ [0, 0x11, BitVec.ofNat 8 flags, 0] ++ List.replicate 180 0
/-- The words of private space are interleaved by 32 lanes (R249); the frame's other words are zero. -/
def ST (x : Thread) (flags clause : Nat) : State :=
  (List.range 3).foldl (fun s k => page (2 ^ 30 + 128 * k) ((frame flags clause).drop (4 * k) |>.take 4) s) ((put (TT x) S0).poke (2 ^ 21 + 8 * 65) (word64 (2 ^ 31 + 0x17)))
/-- A handler and a frame that is free; a live frame; no handler. The fault buffer has room. -/
theorem witness_ExceptionEntry :
    let s : State := { ST XT 0 0 with die0 := { S0.die0 with fb := ⟨0, 1, 0, 0⟩ } }
    let f : FaultInfo := { plainFault 0x11 with resumeAfter := true }
    let bs := s.frameBytes XT (2 ^ 36) 0 XT.preds 0 XT.window f true false
    let w : State := (s.writeFrame (TT XT) XT bs).toOption.getD s
    (s.issue = some SL0 ∧ s.accs = [] ∧ ((TT XT).threads.map (·.tid)).Nodup ∧ lanesOf (TT XT) SL0 G = [XT]) ∧
    (s.team? 1 = some (TT XT) ∧ (TT XT).thread? 0 = some XT ∧ s.attached 1 = false ∧ XT.trapvec ≠ 0xFFFFFFFF ∧ s.frameLive (TT XT) XT = some false ∧
      (s.writeFrame (TT XT) XT bs).isOk = true ∧ w.landing 0 1 (w.window 1 + 16 * un XT.trapvec) = .ok (headerFor 0) ∧
      w.entryFetch 0 1 (w.window 1 + 16 * un XT.trapvec) (headerFor 0) = .ok [dw 0xA670000000000000]) ∧
    X0.trapvec = 0xFFFFFFFF ∧ (ST XT 2 0).frameLive (TT XT) XT = some true ∧ s.fbReady 0 = true ∧ s.waits = [] := by decide +kernel

/-- A live frame that names the running clause, one that is not live, and one whose clause is misaligned. -/
theorem witness_ExceptionReturn :
    let s : State := ST XT 2 (2 ^ 36)
    (∀ k ∈ ([(0, 0), (2, 8), (2, 2 ^ 36)] : List (Nat × Nat)), (ST XT k.1 k.2).issue = some SL0 ∧ (ST XT k.1 k.2).team? 1 = some (TT XT) ∧ (ST XT k.1 k.2).accs = []) ∧
    ((TT XT).threads.map (·.tid)).Nodup ∧ lanesOf (TT XT) SL0 G = [XT] ∧
    (ST XT 0 0).privRead (TT XT) 0 (un XT.sfault) 192 = .ok (frame 0 0) ∧ (field (frame 0 0) 10 1).testBit 1 = false ∧
    (ST XT 2 8).privRead (TT XT) 0 (un XT.sfault) 192 = .ok (frame 2 8) ∧ (field (frame 2 8) 10 1).testBit 1 = true ∧ field (frame 2 8) 0 8 % 16 ≠ 0 ∧
    s.privRead (TT XT) 0 (un XT.sfault) 192 = .ok (frame 2 (2 ^ 36)) ∧ (field (frame 2 (2 ^ 36)) 10 1).testBit 1 = true ∧ field (frame 2 (2 ^ 36)) 0 8 % 16 = 0 ∧
    s.landing 0 1 (2 ^ 36) = .ok (headerFor 0) ∧ s.entryFetch 0 1 (2 ^ 36) (headerFor 0) = .ok [dw 0xA670000000000000] ∧
    ((s.askPriv (TT XT) 0 (un XT.sfault) 192).privWriteByte (TT XT) 0 (un XT.sfault + 10) 0).isOk = true ∧ 0 ≠ State.hdrN (headerFor 0) ∧
    ((ST XT 2 (2 ^ 36 + 64)).landing 0 1 (2 ^ 36 + 64) = .error 0x04 ∧
      (ST XT 2 (2 ^ 36 + 64)).privRead (TT XT) 0 (un XT.sfault) 192 = .ok (frame 2 (2 ^ 36 + 64))) := by decide +kernel

/-! ### Chapters 11, 12, 18 and 20: scheduling, placement, queues, collectives -/

/-- Nothing in the issue slot; the thread of the team may have a stamp. -/
def SI (x : Thread) : State := { S1 x with issue := none }
def XS : Thread := { X0 with stamp := some 0 }

theorem fresh0 : FreshNumbers (SI XS) ∧ FreshNumbers S0 ∧ FreshNumbers State.reset := by unfold FreshNumbers Distinct; decide +kernel

/-- One ready thread; a watchdog at its period, and one below it. -/
theorem witness_SchedulerSelects :
    let w : State := { SI XS with teams := [{ T1 XS with watchdog := 10 ^ 10 }] }
    FreshNumbers (SI XS) ∧ S0.issue = some SL0 ∧ (SI XS).issue = none ∧ T1 XS ∈ (SI XS).teams ∧ (T1 XS).core = 0 ∧ (T1 XS).res = .resident ∧ XS ∈ (T1 XS).threads ∧
    XS.run = .active ∧ (SI XS).isReady false (T1 XS) XS = true ∧ (SI XS).waveTurn (T1 XS) XS = true ∧ (∀ u ∈ (SI XS).teams, ∀ y ∈ u.threads, y = XS) ∧
    (SI X0).waitsForWave T0 X0 = false ∧ (w.dbg.wdper ≠ 0 ∧ w.dbg.wdper.toNat * 10 ^ 6 ≤ 10 ^ 10) ∧ (SI XS).dbg.wdper ≠ 0 ∧ (T1 XS).watchdog < 10 ^ 10 :=
  ⟨fresh0.1, by decide +kernel⟩
/-- An ATOM of crew scope at determinism level PORTABLE: its thread is held for the wave and is settled. -/
theorem witness_SchedulerSelects_wave :
    let x : Thread := { X0 with words := [(encode (.atom G .add ⟨.b32, .crew, .rlx, .normal, 0#11⟩ 6#8 8#8 4#8)).getD 0] }
    let s : State := portable (SI x)
    (State.clauseBody x).length = 1 ∧ (T1 x).wave = none ∧ (T1 x).threads.filter (fun x => s.waitsForWave (T1 x) x) = [x] ∧ s.frozen 1 = false ∧
    (∀ y ∈ (T1 x).threads, s.settled (T1 x) y = true) ∧ s.accs = [] := by decide +kernel

/-- A launch of one cluster of w teams whose pool has room, and nothing else on the part. -/
def SP (w : Nat) : State := { S0 with
  issue := none, teams := [], clusters := []
  grids := S0.grids.map fun g => { g with placed := 0, claims := [(0, (0, 1))], launch := { g.launch with w := w, gx := w } }
  ctxs := S0.ctxs.map fun c => { c with desc := { c.desc with poolSize := 2 ^ 20 } } }
def GP (w : Nat) : Grid := (SP w).grids.headD ((SP w).newGrid 0 0 0 (bareLaunch 0) none 0 0 [])
theorem clusterPlaceIn_room (s : State) (g : Grid) (i : Nat) (c : Context) (h : s.cohortStretch g = none) (hk : g.launch.cohort = false)
    (hc : s.ctx? g.asid = some c) (hp : s.poolFree g.asid c.desc.poolBase (g.launch.w * g.launch.h * g.launch.poolBytes) = true) :
    (s.clusterPlaceIn g i).isSome = true := by
  simp only [State.clusterPlaceIn, h, hk, State.poolPlace, hc]
  exact List.find?_isSome.mpr ⟨c.desc.poolBase, List.mem_cons_of_mem _ (.head _), hp⟩
theorem frontGrid_one (s : State) (g : Grid) (q die : Nat) (e : s.grids = [g]) (hu : s.unplaced g = true) (hq : (g.queue == q) = true)
    (hb : State.before g g = false) (hp : s.placing g = true) (hd : g.dies.contains die = true) (hs : (s.placesOn g die).isEmpty = false) :
    s.frontGrid q die = some g := by
  simp only [State.frontGrid, e, List.filter, hu, hq, hb, hp, hd, hs, Bool.not_false, Bool.and_true, Bool.or_true, List.find?, List.all, Option.bind, if_true]
def CP : Context := ⟨1, ⟨0, 2 ^ 36, 0, 0, 0, 2 ^ 20, 0, false⟩, false, false, false, false, false, false⟩
theorem canPlaceSP (w : Nat) (hw : w ∈ [1, 2]) : (SP w).canPlace (GP w) 0 0 0 = true := by
  have h1 : ∀ w ∈ [1, 2], (SP w).placing (GP w) = true := by decide +kernel
  have h2 : ∀ w ∈ [1, 2], ((SP w).nextCluster (GP w) 0 0 0).isSome = true := by decide +kernel
  have h3 : ∀ w ∈ [1, 2], (SP w).rectFits (GP w).launch (GP w).asid 0 0 0 = true := by decide +kernel
  have h5 : ∀ w ∈ [1, 2], (SP w).claimStalled (GP w) 0 = false := by decide +kernel
  have h4 : ((SP w).fresh.2.clusterPlaceIn (GP w) (((SP w).nextCluster (GP w) 0 0 0).getD 0)).isSome = true := by
    fin_cases hw <;> exact clusterPlaceIn_room _ _ _ CP (by decide +kernel) (by decide +kernel) (by decide +kernel) (by decide +kernel)
  unfold State.canPlace
  rw [h1 w hw, h2 w hw, h3 w hw, h4, h5 w hw]; rfl
theorem placesSP (w : Nat) (hw : w ∈ [1, 2]) : ((SP w).placesOn (GP w) 0).isEmpty = false := by
  have h : ((0, 0) : Nat × Nat) ∈ (SP w).placesOn (GP w) 0 := List.mem_filter.mpr ⟨by decide +kernel, canPlaceSP w hw⟩
  cases e : (SP w).placesOn (GP w) 0 with
  | nil => rw [e] at h; cases h
  | cons a l => rfl
theorem frontSP (w : Nat) (hw : w ∈ [1, 2]) : (SP w).frontGrid 0 0 = some (GP w) := by
  have h := placesSP w hw
  fin_cases hw <;> exact frontGrid_one _ _ _ _ (by decide +kernel) (by decide +kernel) (by decide +kernel) (by decide +kernel) (by decide +kernel) (by decide +kernel) h
theorem queueSP : ∀ w ∈ [1, 2], (GP w).queue = 0 := by decide +kernel
theorem turnSP (w : Nat) (hw : w ∈ [1, 2]) : (SP w).turnQueue 0 = some (GP w).queue := by
  have e : ∀ w ∈ [1, 2], ((SP w).grids.map (·.queue)).eraseDups = [0] := by decide +kernel
  have f := frontSP w hw
  rw [queueSP w hw]
  unfold State.turnQueue
  simp only [e w hw, List.filter, f]
  fin_cases hw <;> rfl
theorem frontIdSP (w : Nat) (hw : w ∈ [1, 2]) : ((SP w).frontGrid (GP w).queue 0).map (·.id) = some (GP w).id := by
  rw [queueSP w hw, frontSP w hw]; rfl
theorem freshSP : ∀ w ∈ [1, 2], FreshNumbers (SP w) := by unfold FreshNumbers Distinct; decide +kernel

/-- Clusters of one team and of two; a team that has passed its tickets, one that leaves all four behind, and one that leaves ticket 2 to a
retired team behind it that waits to pass it on; a grid whose teams are gone. -/
theorem witness_PlacementAndRetirement :
    let x : Thread := { X0 with run := .exited }
    let gone (ps : List Passed) : State := { SI x with teams := [{ T1 x with passed := ps }] }
    let all : List Passed := (List.range 4).map fun n => ⟨n, true⟩
    let left : Team := { T1 x with passed := all.filter fun p => p.n != 2 }
    let later : Team := { T1 x with id := 0, linear := 1, res := .retired, parkedTickets := [2] }
    let chain : State := { SI x with teams := [later, left] }
    let out : State := { S0 with issue := none, teams := [] }
    (∀ w ∈ [1, 2], FreshNumbers (SP w) ∧ Untraced (SP w) ∧ GP w ∈ (SP w).grids ∧ (SP w).nextCluster (GP w) 0 0 0 = some 0 ∧ (SP w).canPlace (GP w) 0 0 0 = true ∧
      (SP w).turnQueue 0 = some (GP w).queue ∧ ((SP w).frontGrid (GP w).queue 0).map (·.id) = some (GP w).id ∧ (GP w).launch.w * (GP w).launch.h = w ∧
      (∀ k ∈ List.range 18, ((SP w).tlbFind 0 (GP w).asid ((GP w).launch.code + 8 * k)).isSome = true) ∧
      ∀ c ∈ List.range w, (SP w).landing c (GP w).asid (GP w).launch.code = .ok (headerFor 0) ∧
        (SP w).entryFetch c (GP w).asid (GP w).launch.code (headerFor 0) = .ok [dw 0xA670000000000000]) ∧
    (∀ ps ∈ [all, []], FreshNumbers (gone ps) ∧ ∀ t ∈ (gone ps).teams, t.res = .resident ∧ (gone ps).shareHeld t = false ∧ t.cp = 0 ∧ t.tl = 0 ∧
      (∀ x ∈ t.threads, x.run = .exited ∧ x.ld = 0 ∧ x.st = 0 ∧ x.icsync = []) ∧ (gone ps).accs = [] ∧ t.parkedTickets = [] ∧
      ((gone ps).grid? t.grid).map (·.tickets.length) = some 4) ∧
    (FreshNumbers chain ∧ left ∈ chain.teams ∧ later ∈ chain.teams ∧ later ≠ left ∧ later.grid = left.grid ∧ later.res = .retired ∧ later.parkedTickets = [2] ∧
      left.res = .resident ∧ chain.shareHeld left = false ∧ left.parkedTickets = [] ∧ (∀ m ∈ List.range 4, (∀ p ∈ left.passed, p.n ≠ m) ↔ m = 2) ∧
      (chain.ticket left.grid 2).value = number chain left ∧ number chain later = number chain left + 1) ∧
    (FreshNumbers out ∧ out.teams = [] ∧ ∀ g ∈ out.grids, g.state = .running ∧ g.launch.clusters ≤ g.placed ∧ g.parent = none ∧ g.launch.completion = 0) := by
  refine ⟨fun w hw => ?_, by unfold FreshNumbers Distinct; decide +kernel, ⟨by unfold FreshNumbers Distinct; decide +kernel, by decide +kernel⟩,
    by unfold FreshNumbers Distinct; decide +kernel⟩
  have h : ∀ w ∈ [1, 2], GP w ∈ (SP w).grids ∧ (SP w).nextCluster (GP w) 0 0 0 = some 0 := by decide +kernel
  have k : ∀ w ∈ [1, 2], (GP w).launch.w * (GP w).launch.h = w ∧
      (∀ k ∈ List.range 18, ((SP w).tlbFind 0 (GP w).asid ((GP w).launch.code + 8 * k)).isSome = true) ∧
      ∀ c ∈ List.range w, (SP w).landing c (GP w).asid (GP w).launch.code = .ok (headerFor 0) ∧
        (SP w).entryFetch c (GP w).asid (GP w).launch.code (headerFor 0) = .ok [dw 0xA670000000000000] := by decide +kernel
  exact ⟨freshSP w hw, rfl, (h w hw).1, (h w hw).2, canPlaceSP w hw, turnSP w hw, frontIdSP w hw, k w hw⟩

/-- A cluster of a context that suspends, stopped and quiet with one save slot; the same saved, its place free. -/
theorem witness_ClustersSaveAndRestore :
    let c : Cluster := ⟨3, 2, 0, 0, 0, 0, 1, 1, []⟩
    let s (sus : Bool) (t : Team) : State := { SI X0 with
      teams := [t], ctxs := S0.ctxs.map fun k => { k with suspending := sus, desc := { k.desc with saveSlots := 1 } } }
    let stopped : Team := { T0 with stopping := true }
    let saved : Team := { T0 with res := .saved 0 }
    (∀ t ∈ [T0, stopped, saved], (s true t).cluster? c.id = some c ∧ (s true t).clusterTeams c.id = [t]) ∧
    (T0.res = .resident ∧ T0.stopping = false ∧ (s true T0).mayPreempt c = true) ∧ (s false T0).mayPreempt c = false ∧
    (stopped.stopping = true ∧ (((s true stopped).grid? stopped.grid).map (·.killed)).getD false = false ∧ (s true stopped).freeSaves stopped.asid = [0] ∧
      (s true stopped).quiet stopped = true) ∧ (s true { stopped with wave := some [0] }).quiet { stopped with wave := some [0] } = false ∧
    (s false saved).canRestore c 0 31 31 = true ∧ (s false saved).canRestore c 0 32 0 = false ∧
    ∀ v ∈ (s false saved).teams, ∀ z ∈ v.threads, z.run = .active := by decide +kernel

/-- A context descriptor at ASID 1's place in the table. -/
def SD : State := State.reset.poke 64 (word64 (2 ^ 21) ++ word64 (2 ^ 36) ++ List.replicate 40 0 ++ word64 1)
def inQueue (x : Queue) (s : State) : State := { s with queues := [(0, x)] }
/-- Queue 0 of ASID 1 with a ring of 16 slots in the code window's page. -/
def Q0 : Queue := { Queue.reset with ctl := 0x100000004#64, base := dw (2 ^ 36 + 2 ^ 20), state := .idle }

/-- The smallest ring, one too small, a readable descriptor and none; a doorbell one past a full ring; FAULT; the destroy codes. -/
theorem witness_QueueRegisters :
    let v : DWord := 0x100000804
    let full (w : Word) : Prop := 2 ^ (Q0.ctl.toNat % 2 ^ 5) < (w - Q0.rp).toNat
    (SD.queue 0).state = .off ∧ 4 ≤ v.toNat % 2 ^ 5 ∧ v.toNat % 2 ^ 5 ≤ 16 ∧ (SD.queue 0).base.toNat % (64 * 2 ^ (v.toNat % 2 ^ 5)) = 0 ∧
    (∀ p ∈ SD.queues, p.2.state = .off) ∧ (SD.readDescriptor 1).isSome = true ∧ SD.ctx? 1 = none ∧ State.reset.readDescriptor 1 = none ∧ (0x100000803#64 : DWord).toNat % 2 ^ 5 < 4 ∧
    ((inQueue Q0 SD).queue 0 = Q0 ∧ Q0.state ≠ .off ∧ Q0.state ≠ .drain ∧ Q0.state = .idle ∧ full 17 ∧ ¬ full 16) ∧
    ((inQueue { Q0 with state := .drain } SD).queue 0).state = .drain ∧ ((inQueue { Q0 with state := .fault } SD).queue 0).state = .fault ∧ v.getLsbD 0 = false ∧ (1#64 : DWord).getLsbD 0 = true ∧
    ((inQueue { Q0 with state := .fault, wp := 17 } SD).queue 0 = { Q0 with state := .fault, wp := 17 }) ∧
    (∀ i ∈ List.range 8, ([1, 0, 0, 0, 0, 0, 0, 0] : List DWord).getD i 0 = if i = 0 then 1 else 0) ∧ (∀ i ∈ List.range 8, ([] : List DWord).getD i 0 = 0) ∧ Q0.started = [] := by
  decide +kernel

/-- The running context with queue 0 in it. -/
def SQ (x : Queue) : State := inQueue x S0
def order (d : List DWord) : Queue := { Q0 with state := .order, held := some d }
def VA : DWord := dw (2 ^ 36 + 2 ^ 20)
/-- Each packet and node at the cursor: fetched as a NOP or as no packet, signalled with and without an address, tested true and false on a word of
zeros, a loop that runs its body and one whose count is at its limit. -/
theorem witness_PacketsRun :
    let fetch (rp : Word) : Queue := { Q0 with state := .fetch, rp := rp, wp := 2 }
    let bad (s : State) : State := page (2 ^ 20 + 64) (word64 10) s
    let node (d : List DWord) : Queue := { order d with cursor := 2 ^ 36 + 2 ^ 20 }
    let test (v : DWord) : List DWord := [5, VA, BitVec.allOnes 64, v, 0, 0, 0, 0]
    (S0.dbg.caps = [] ∧ S0.waits = [] ∧ S0.enginesFrozen 1 = false ∧ (SQ (fetch 0)).canWalk 0 1 (2 ^ 36 + 2 ^ 20) = true ∧ (SQ (fetch 0)).rowBusy 0 1 (2 ^ 36 + 2 ^ 20) = false ∧
      (SQ (node [9, VA])).canWalk 0 1 (2 ^ 36 + 2 ^ 20 + 72) = true ∧ (SQ (node [9, VA])).rowBusy 0 1 (2 ^ 36 + 2 ^ 20 + 72) = false ∧
      ({ SQ (fetch 0) with tlb := [] } : State).canWalk 0 1 (2 ^ 36 + 2 ^ 20) = false ∧ (SQ (fetch 0)).medlar 0 = 0 ∧ (S0.ctx? 1).map (fun c => (c.suspended, c.suspending, c.terminated, c.terminating)) = some (false, false, false, false)) ∧
    (({ Q0 with wp := 1 } : Queue).rp ≠ ({ Q0 with wp := 1 } : Queue).wp ∧ Q0.rp = Q0.wp ∧ Q0.cursor = 0) ∧
    ((SQ (fetch 0)).readVirt ((SQ (fetch 0)).medlar 0) 1 (2 ^ 36 + 2 ^ 20) 64 .read .frontEnd = .ok (List.replicate 64 0) ∧ packetOk (List.replicate 8 0) false = true ∧
      (bad (SQ (fetch 1))).readVirt 0 1 (2 ^ 36 + 2 ^ 20 + 64) 64 .read .frontEnd = .ok (word64 10 ++ List.replicate 56 0) ∧ packetOk [10, 0, 0, 0, 0, 0, 0, 0] false = false) ∧
    (∀ p ∈ [(0, [0]), (4, [4]), (4, [4, VA]), (5, test 0), (6, [6]), (7, [7, VA])], ((SQ (order p.2)).queue 0 = order p.2) ∧ (order p.2).state = .order ∧
      (order p.2).parkedWord = none ∧ (order p.2).held = some p.2 ∧ word (order p.2) 0 % 2 ^ 8 = p.1 ∧ (order p.2).started.length < 16 ∧ (order p.2).started = []) ∧
    word (order [4]) 1 = 0 ∧ word (order [4, VA]) 1 ≠ 0 ∧ (SQ (order [4, VA])).writable 0 1 (2 ^ 36 + 2 ^ 20) .frontEnd = .ok (2 ^ 30 + 2 ^ 20) ∧
    (SQ Q0).readVirt 0 1 (2 ^ 36 + 2 ^ 20) 8 .read .frontEnd = .ok (word64 0) ∧
    testWordOf (order (test 0)) (word64 0) = BitVec.ofNat 64 (word (order (test 0)) 3) ∧ testWordOf (order (test 1)) (word64 0) ≠ BitVec.ofNat 64 (word (order (test 1)) 3) ∧
    (word (node [8, VA]) 0 % 2 ^ 8 = 8 ∧ word (node [9, VA]) 0 % 2 ^ 8 = 9 ∧ ((SQ (node [9, VA])).agentRead 0 1 (2 ^ 36 + 2 ^ 20) 8 .read .frontEnd).writable 0 1 (2 ^ 36 + 2 ^ 20 + 72) .frontEnd = .ok (2 ^ 30 + 2 ^ 20 + 72) ∧
      word (node [9, VA, 0, 0, 0, 2, 0, 0, 0, 1]) 9 % 2 ^ 32 < word (node [9, VA, 0, 0, 0, 2, 0, 0, 0, 1]) 5 % 2 ^ 32 ∧
      ¬ word (node [9, VA, 0, 0, 0, 2, 0, 0, 0, 2]) 9 % 2 ^ 32 < word (node [9, VA, 0, 0, 0, 2, 0, 0, 0, 2]) 5 % 2 ^ 32) := by decide +kernel

/-- One step of a collective in the page behind the code window: a source and a destination of one FP32 element each. -/
def step1 (n : Nat) : DWord × DWord := (dw n, 0)
def C1 (step : Nat) (rank : Nat) : Coll :=
  { id := 7, queue := 0, asid := 1, packet := 8, dwords := [2, 0, dw (2 * 2 ^ 32 + rank), VA, VA + 0x1000, 1, 0, VA + 0x2000], group := 5,
    steps := [step1 step, (0, 0)], ranks := [0, 1], pc := 0, seq := 0, ctrs := [], started := 0, inbox := [], outbox := [],
    peers := [⟨1, 8, 0, 8, 0, 0, 0, none, 0⟩], ending := none, parked := none, qrpAtStart := 0, begun := true, half := false, paid := 0, round := 0 }
/-- SEND to rank 1, RECV from it, RRS with it, COPY, WAIT, LOOP with no and with two iterations to step 1, END. -/
def SEND : Nat := 1 + 2 ^ 24
def RECV : Nat := 2 + 2 ^ 16 + 2 ^ 48
def RRS : Nat := 3 + 2 ^ 16 + 2 ^ 48
def SC (c : Coll) : State := { SQ Q0 with colls := [c] }

/-- `WalksReady`, as a test. -/
def readyAt (s : State) (q : Nat) (vas : List Nat) : Bool :=
  vas.all fun va => s.canWalk (s.medlar q) ((s.queue q).ctl.toNat / 2 ^ 32 % 2 ^ 16) va && !s.rowBusy (s.medlar q) ((s.queue q).ctl.toNat / 2 ^ 32 % 2 ^ 16) va
theorem walksReady_of {s : State} {q : Nat} {vas : List Nat} (h : readyAt s q vas = true) : WalksReady s q vas := fun va hv => by
  simpa using List.all_eq_true.mp h va hv

/-- A launch of one team that is accepted, one without a pool, copies of no and of two bytes, and a program of one END with and without its step. -/
theorem witness_StartedPackets :
    let launch : List DWord := [1, dw (2 ^ 36), 0, dw (1 + 2 ^ 32 + 2 ^ 48), 0, 256, 0, 0]
    let roomy (x : Queue) : State := inQueue x { S0 with ctxs := S0.ctxs.map fun c => { c with desc := { c.desc with poolSize := 2 ^ 20 } } }
    let rep : Queue := { order launch with ctl := 0x100000204#64 }
    let copy (n : DWord) : List DWord := [3, VA, VA + 0x100, n, 0, 0, 0, 0]
    let going : Queue := { Q0 with started := [⟨4, .copy (2 ^ 36 + 2 ^ 20) (2 ^ 36 + 2 ^ 20 + 0x100) 2, none, none, 1⟩] }
    let coll : List DWord := [2, VA, dw (2 ^ 32), VA + 0x1000, VA + 0x2000, 1, 0, VA + 0x3000]
    let prog (n : Nat) : State := page (2 ^ 20) (toBytes 4 5 ++ toBytes 2 n ++ [0, 0] ++ word64 (2 ^ 36 + 2 ^ 20 + 0x400)) (SQ (order coll))
    (FreshNumbers S0 ∧ (S0.enginesFrozen 1 = false ∧ S0.dbg.caps = [])) ∧
    (readyAt (roomy rep) 0 (State.spanAddrs (packetLaunch launch).paramAddr (packetLaunch launch).paramSize) = true ∧ readyAt (prog 1) 0 ((prog 1).programAddrs 0) = true) ∧
    (word rep 0 % 2 ^ 8 = 1 ∧ (roomy rep).launchDies 1 (min (max rep.dieCount (packetLaunch launch).minDies) (packetLaunch launch).maxDies) S0.nextId none = [0] ∧
      (roomy rep).refused (packetLaunch launch) 1 1 [0] none = false ∧
      (roomy rep).readSpan 0 1 (packetLaunch launch).paramAddr .read .frontEnd 3 (packetLaunch launch).paramSize = .ok [] ∧
      (SQ rep).refused (packetLaunch launch) 1 1 [0] none = true ∧ (packetLaunch launch).completion = 0) ∧
    (word (order (copy 0)) 0 % 2 ^ 8 = 3 ∧ word (order (copy 0)) 3 % 2 ^ 40 = 0 ∧ word (order (copy 2)) 3 % 2 ^ 40 ≠ 0) ∧
    ((SQ going).queue 0 = going ∧ (SQ going).readSpan 0 1 (2 ^ 36 + 2 ^ 20) .read .frontEnd 2 2 = .ok [0, 0] ∧
      readyAt (SQ going) 0 (State.spanAddrs (2 ^ 36 + 2 ^ 20) 2 ++ State.spanAddrs (2 ^ 36 + 2 ^ 20 + 0x100) 2) = true ∧ (SQ going).waits = [] ∧
      ((SQ going).spanRead 0 1 (2 ^ 36 + 2 ^ 20) 2 .read .frontEnd).writable 0 1 (2 ^ 36 + 2 ^ 20 + 0x100) .frontEnd = .ok (2 ^ 30 + 2 ^ 20 + 0x100)) ∧
    (word (order coll) 0 % 2 ^ 8 = 2 ∧ (prog 0).collTurn 0 = true ∧ (prog 1).collTurn 0 = true ∧ (((prog 0).loadProgram 0 1 (2 ^ 36 + 2 ^ 20) 1).toOption.map fun p => (p.1, p.2.isSome)) = some (5, false) ∧
      (((prog 1).loadProgram 0 1 (2 ^ 36 + 2 ^ 20) 1).toOption.bind fun p => p.2) = some ([(0, 0)], [0]) ∧ (prog 1).ual.uaid = 0 ∧ programOk [(0, 0)] 1 0 0 = true ∧
      programOk [(1, 0)] 1 0 0 = false ∧ (prog 1).ual.early = []) :=
  ⟨⟨fresh0.2.1, by decide +kernel⟩, by decide +kernel⟩

/-- Every kind of step at its point: entered, posted with and without credit, its message complete, combined, copied, waited for, looped over, ended; and a
peer that nobody has waited for yet. -/
theorem witness_CollectiveSteps :
    let peer (f : PeerRec → PeerRec) (c : Coll) : Coll := { c with peers := c.peers.map f }
    let late : Coll := peer (fun p => { p with waited := Config.lossTimer }) (C1 RECV 0)
    let msg (c : Coll) : Coll := { c with inbox := [⟨1, 0, 1, 4, [1, 2, 3, 4]⟩] }
    (∀ c ∈ [C1 SEND 0, C1 RECV 0, C1 RRS 0, C1 (4 + 2 ^ 48) 0, C1 5 0, C1 0 0], (SC c).coll? 7 = some c ∧ (SC c).enginesFrozen 1 = false ∧ c.parked = none ∧ c.ending = none ∧
      (SC c).cregOf ((SC c).medlar 0) 1 = none ∧ (SC c).dbg.caps = [] ∧ (SC c).waits = [] ∧ ∀ i ∈ List.range 4, (c.ctrs.getD i LoopCtr.idle).active = false) ∧
    ((C1 SEND 0).step.op = 1 ∧ (SC (C1 SEND 0)).readRegion (C1 SEND 0) (C1 SEND 0).step.src = .ok [0, 0, 0, 0] ∧ (C1 SEND 0).outPeer = 1 ∧ (C1 SEND 0).outbox = [] ∧
      (C1 SEND 0).peers.find? (fun p => p.rank == 1) = some ⟨1, 8, 0, 8, 0, 0, 0, none, 0⟩ ∧ readyAt (SC (C1 SEND 0)) 0 (State.regionAddrs (C1 SEND 0) (C1 SEND 0).step.src) = true ∧
      (peer (fun p => { p with grantedBy := 0 }) (C1 SEND 0)).peers.all (fun r => decide (r.grantedBy ≤ r.sentTo)) = true) ∧
    (((SC late).awaited late).contains 1 = true ∧ late.peers.all (fun p => decide (Config.lossTimer ≤ p.waited)) = true) ∧
    (∀ c ∈ [msg (C1 RECV 0), msg (C1 RRS 0)], readyAt (SC c) 0 (State.regionAddrs c c.step.dst ++ State.regionAddrs c c.step.src) = true) ∧
    (∀ c ∈ [msg (C1 RECV 0), msg (C1 RRS 0)], c.inbox.find? (fun m => m.src == c.inPeer && m.seq == 0) = some ⟨1, 0, 1, 4, [1, 2, 3, 4]⟩ ∧ c.step.send = false ∧
      1 = (c.region c.step.dst).2 ∧ 1 * c.esize ≤ 4 ∧ ((SC c).writeRegion c c.step.dst [1, 2, 3, 4]).2 = none) ∧
    ((SC (C1 RRS 0)).readRegion (C1 RRS 0) (C1 RRS 0).step.src = .ok [0, 0, 0, 0] ∧ (elemsOf 4 [0, 0, 0, 0]).length = 1) ∧
    ((C1 (4 + 2 ^ 48) 0).step.op = 4 ∧ readyAt (SC (C1 (4 + 2 ^ 48) 0)) 0 (State.regionAddrs (C1 (4 + 2 ^ 48) 0) (C1 (4 + 2 ^ 48) 0).step.src ++ State.regionAddrs (C1 (4 + 2 ^ 48) 0) (C1 (4 + 2 ^ 48) 0).step.dst) = true ∧ (SC (C1 (4 + 2 ^ 48) 0)).readRegion (C1 (4 + 2 ^ 48) 0) (C1 (4 + 2 ^ 48) 0).step.src = .ok [0, 0, 0, 0]) ∧
    (C1 5 0).step.op = 5 ∧ (C1 6 0).step.op = 6 ∧ (C1 6 0).step.literal = 0 ∧
    ((C1 0 0).step.op = 0 ∧ (C1 0 0).outbox = [] ∧ readyAt (SC (C1 0 0)) 0 (State.spanAddrs ((C1 0 0).w 4) 4) = true ∧ (C1 0 0).w 7 % 2 ^ 16 + 832 ≤ 2 ^ 16 ∧
      (SC (C1 0 0)).writable 0 1 ((C1 0 0).w 7) .frontEnd = .ok (2 ^ 30 + 2 ^ 20 + 0x2000) ∧
      (SC (C1 0 0)).writable 0 1 ((C1 0 0).w 7 + 831) .frontEnd = .ok (2 ^ 30 + 2 ^ 20 + 0x2000 + 831) ∧
      (SC (C1 0 0)).readSpan 0 1 ((C1 0 0).w 4) .read .program (1 * 4 / 2 ^ 16 + 2) (1 * 4) = .ok [0, 0, 0, 0]) := by decide +kernel

/-- A group that runs and one that does not; an export table entry that lets all three requests through, and none. -/
theorem witness_PeersAndLinks :
    let tab : State := ({ S0 with ual := { S0.ual with exCtl := true, exBase := 2 ^ 20 } } : State).poke (2 ^ 20) (word64 (2 ^ 36) ++ word64 (1 + 15 * 2 ^ 16))
    let c : Coll := C1 SEND 0
    let paid : State := { SC c with die0 := { S0.die0 with cregs := [(3, ⟨dw (2 ^ 63 + 1), 3, 0⟩)] } }
    (paid.cregOf 0 1 = some (3, ⟨dw (2 ^ 63 + 1), 3, 0⟩) ∧ groupOf paid 5 = some c) ∧ (SC c).cregOf ((SC c).medlar 0) 1 = none ∧ (S0.die0.live = true ∧ S0.ual.early = []) ∧
    (c.round < 2 ^ 32 / 2 ^ 32 ∧ 7 / 2 ^ 32 < ({ c with round := 1 } : Coll).round ∧ groupOf (SC { c with round := 1 }) 5 = some { c with round := 1 } ∧
      (3 : Nat) < ([1, 2, 3, 4] : List Byte).length) ∧
    groupOf (SC c) 5 = some c ∧ ((SC c).colls.map (·.id)).Nodup ∧ groupOf (SC c) 6 = none ∧ (∀ m ∈ c.inbox, m.src ≠ 1) ∧
    c.outbox.any (fun p => p.dst == 1) = false ∧ State.reset.exported 0 16 .read = none ∧ tab.exported (2 ^ 31 - 1) 16 .read = none ∧
    tab.exported (2 ^ 30 - 1) 16 .read = some (2 ^ 31 - 1) ∧ tab.exported 0 17 .write = some (2 ^ 30) ∧ tab.exported 0 18 .write = some (2 ^ 30) ∧ tab.poisoned (2 ^ 30) 8 = none ∧
    tabFind 11 ({ State.reset with ual := { State.reset.ual with ports := [(11, ⟨4, true, some 1⟩)] } } : State).ual.ports = some ⟨4, true, some 1⟩ ∧
    tabFind 3 ({ State.reset with die0 := { State.reset.die0 with cregs := [(3, ⟨dw (2 ^ 63 + 1), 0, 0⟩)] } } : State).die0.cregs = some ⟨dw (2 ^ 63 + 1), 0, 0⟩ := by
  decide +kernel

/-! ### Chapters 19, 21 to 24: contexts, debugger, clocks, service -/

/-- Context 1 with a readable descriptor: one save slot, a page at address 0. -/
def SX : State :=
  let s : State := State.reset.poke 64 (word64 (2 ^ 21) ++ word64 (2 ^ 36) ++ word64 0 ++ toBytes 4 1 ++ List.replicate 28 0 ++ word64 1)
  let s : State := (s.poke (2 ^ 21) (word64 (2 ^ 22 + 1))).poke (2 ^ 22) (word64 (2 ^ 30 + 0xF))
  { s with ctxs := [⟨1, ⟨0, 0, 0, 0, 0, 0, 0, false⟩, false, false, false, false, false, false⟩] }
def CX : Context := ⟨1, ⟨0, 0, 0, 0, 0, 0, 0, false⟩, false, false, false, false, false, false⟩
def DX : Descriptor := ⟨2 ^ 21, 2 ^ 36, 0, 1, 0, 0, 0, false⟩
def command (k : Nat) : List DWord := [dw (k + 2 ^ 16), 0, 0, 0]

/-- Each command for a known context, and each with its reserved dword set; a team to save and none; the last byte of the aperture's window. -/
theorem witness_ContextCommands :
    (SX.cmds = [] ∧ (SX.ctxs.map (·.asid)).Nodup ∧ SX.ctx? 1 = some CX ∧ SX.readDescriptor 1 = some DX ∧ ∀ c ∈ SX.ctxs, c.suspending = false) ∧
    (∀ k ∈ [1, 2, 3, 4, 5, 6], CmdFor (command k) k 1 ∧ ((command k).getD 1 0).toNat < 2 ^ 56 ∧ (command k).getD 1 0 = 0 ∧ (command k).getD 2 0 = 0) ∧
    (([dw (1 + 2 ^ 16), 0, 0, 1] : List DWord).getD 3 0 ≠ 0 ∧ SX.accs = [] ∧ SX.engs = [] ∧ SX.queues = [] ∧ SX.grids = [] ∧ SX.issue = none ∧ SX.waits = []) ∧
    ((commanded SX 1 DX).freeSaves 1 = [0] ∧ (put T0 SX).teams.length = 1 ∧ T0.asid = 1 ∧ T0.res = .resident ∧ SX.teams = [] ∧ SX.colls = [] ∧ SX.frozen 1 = false) ∧
    ((commanded SX 1 DX).writable 0 1 DX.statusAddr .frontEnd = .ok (2 ^ 30) ∧ (CX.suspended = false ∧ CX.terminated = false ∧ CX.terminating = false)) ∧
    (SX.svc.recovery = false ∧ 2 ^ 28 - 1 + 1 ≤ 2 ^ SX.link.bar2Log2 ∧ SX.region (SX.svc.apBase + (2 ^ 28 - 1)) ≠ .nowhere ∧ SX.poison = []) := by
  refine ⟨by decide +kernel, ?_, by decide +kernel⟩
  intro k hk
  simp only [List.mem_cons, List.not_mem_nil, or_false] at hk
  rcases hk with rfl | rfl | rfl | rfl | rfl | rfl <;> exact ⟨⟨by decide, by decide, by decide⟩, by decide, by decide, by decide⟩

/-- A part in recovery; a replay whose operation has ended, and one whose operation has not gone on; parked accesses to a page, to a page that
may not be written, and to no page, none of which is at hand, and one whose page is cached. -/
theorem witness_ContextCommands_parked :
    let b : State := SX.poke (2 ^ 22 + 8) (word64 (2 ^ 30 + 3))
    let a (va : Nat) (k : AccKind) : Access := { acc k .device [] with addr := va, parked := some 5, bad := some 0x06 }
    let s (va : Nat) (k : AccKind) : State := { b with accs := [a va k] }
    let rs : List Retry := [.eng (eng .mzero)]
    let waits (es : List EngOp) : State := { SX with cmds := [⟨command 2, true, rs⟩], engs := es }
    (¬ InService { State.reset with svc := { Service.reset with recovery := true } } ∧ InService SX) ∧
    ((∀ r ∈ rs, (waits []).retried r = true) ∧ (∃ r ∈ rs, (waits [eng .mzero]).retried r = false) ∧ ∀ c ∈ (waits []).ctxs, c.suspending = false) ∧
    (∀ x ∈ [a 0 (.load false), a (2 ^ 30) .store, a (2 ^ 40) (.load false)], x.asid = 1 ∧ x.space = .global ∧ x.parked = some 5) ∧
    (∀ q ∈ [((0 : Nat), AccKind.load false), (2 ^ 30, .store), (2 ^ 40, .load false)], (s q.1 q.2).cmds = [] ∧ (s q.1 q.2).ctx? 1 = some CX ∧
      (s q.1 q.2).readDescriptor 1 = some DX ∧ (s q.1 q.2).retriesOf 1 0 = [.acc 0] ∧ (s q.1 q.2).grids = [] ∧ (s q.1 q.2).accs = [a q.1 q.2] ∧
      (s q.1 q.2).tlbFind 0 1 q.1 = none ∧ (s q.1 q.2).engs = [] ∧ (s q.1 q.2).queues = [] ∧ (s q.1 q.2).colls = []) ∧
    (∀ q ∈ [((0 : Nat), AccKind.load false), (2 ^ 30, .store), (2 ^ 40, .load false)],
      (commanded (s q.1 q.2) 1 DX).accPhys { a q.1 q.2 with parked := none, bad := none } = none) ∧
    ((commanded { s 0 (.load false) with tlb := [⟨0, 1, 0, 2 ^ 16, 2 ^ 30, true, true, true⟩] } 1 DX).accPhys
      { a 0 (.load false) with parked := none, bad := none }).isSome = true := by
  refine ⟨⟨fun h => by simpa [InService] using h.1, by unfold InService; decide +kernel⟩, by decide +kernel⟩

/-- A capability slot of job 9 for context 1 with every right but the trace, one that holds the trace and trigger rights, and the job frozen. -/
def cap9 (low : Nat) : CapSlot := ⟨1, dw (9 * 2 ^ 32 + 2 ^ 16 + low), 0, 0⟩
def SG (low : Nat) (frozen : Bool) (x : Thread) : State :=
  { SI x with dbg := { Debug.reset with caps := [(0, cap9 low)], frozen := if frozen then [⟨9, [1], true, none⟩] else [] } }
theorem ordered (low k right : Nat) (frozen : Bool) (x : Thread) (a b : DWord) (hl : (cap9 low).word8.getLsbD 6 = true) (hr : (cap9 low).word8.getLsbD right = true)
    (hk : k < 2 ^ 64) : Ordered (SG low frozen x) 0 k right [dw k, 1, a, b] where
  rest := rfl
  slot := ⟨hl, by show (1#64 : DWord) ≠ 0; decide, rfl, hr⟩
  code := by show (BitVec.ofNat 64 k).toNat = k; rw [BitVec.toNat_ofNat, Nat.mod_eq_of_lt hk]
  fields := fun i h4 h8 => by
    obtain rfl | rfl | rfl | rfl : i = 4 ∨ i = 5 ∨ i = 6 ∨ i = 7 := by omega
    all_goals rfl

theorem witness_DebugCommands :
    (∀ k ∈ [1, 2, 3, 4, 5], ∃ right, Ordered (SG 0x47 true XS) 0 k right [dw k, 1, 0, 0]) ∧ Ordered (SG 0x57 false XS) 0 6 4 [dw 6, 1, 0, 255] ∧
    (SG 0x47 true XS).frozen (asidOf (SG 0x47 true XS) 0) = true ∧ (SG 0x47 false XS).frozen (asidOf (SG 0x47 false XS) 0) = false ∧
    ((SG 0x47 false XS).frozenJob (jobOf (SG 0x47 false XS) 0) = false ∧ (SG 0x47 false XS).engs = [] ∧ (cap9 0x47).word8.getLsbD 4 = false ∧ (cap9 0x47).peerCount = 0 ∧
      (SG 0x47 false XS).dbg.causes.length < 16) ∧
    ((SG 0x47 true XS).issue = none ∧ FreshNumbers (SG 0x47 true XS) ∧ T1 XS ∈ (SG 0x47 true XS).teams ∧ (T1 XS).threads = [XS] ∧ XS.run = .active ∧
      ((T1 XS).crew? XS.crew).isSome = true ∧
      (SG 0x47 true XS).teams.find? (fun u => u.res == .resident && u.asid == asidOf (SG 0x47 true XS) 0 && u.core == (T1 XS).core && u.slot == (T1 XS).slot) = some (T1 XS) ∧
      (SG 0x47 true XS).isReady true (T1 XS) XS = true ∧ (SG 0x47 true XS).waveTurn (T1 XS) XS = true ∧ XS.pend = [] ∧
      holds ((T1 XS).crewOf XS) (BitVec.ofNat 8 31) = true ∧ (T1 XS).threads.find? (fun y => y.crew == XS.crew && y.lane == XS.lane) = some XS) ∧
    ((SG 0x47 true { XS with ld := 65 }).isReady true (T1 { XS with icsync := [⟨0, .crew, [], []⟩] }) { XS with icsync := [⟨0, .crew, [], []⟩] } = false) ∧
    (∀ q ∈ (SG 0x57 false XS).dbg.caps, ((SG 0x57 false XS).page q.1).trCtl.getLsbD 0 = false) := by
  refine ⟨?_, ordered _ _ _ _ _ _ _ (by decide) (by decide) (by decide), by decide +kernel, by decide +kernel, by decide +kernel, ?_, by decide +kernel⟩
  · intro k hk
    simp only [List.mem_cons, List.not_mem_nil, or_false] at hk
    rcases hk with rfl | rfl | rfl | rfl | rfl
    exacts [⟨0, ordered _ _ _ _ _ _ _ (by decide) (by decide) (by decide)⟩, ⟨0, ordered _ _ _ _ _ _ _ (by decide) (by decide) (by decide)⟩,
      ⟨0, ordered _ _ _ _ _ _ _ (by decide) (by decide) (by decide)⟩, ⟨1, ordered _ _ _ _ _ _ _ (by decide) (by decide) (by decide)⟩,
      ⟨2, ordered _ _ _ _ _ _ _ (by decide) (by decide) (by decide)⟩]
  · unfold FreshNumbers Distinct; decide +kernel

/-- A job that has a context here and one that has none; a resume that is due, one whose cores may go on 250 ns later, and one that is early; a
trace window at its end. -/
theorem witness_DebugMessages :
    let s (f : List Frozen) (now : Nat) : State := { SG 0x47 true XS with dbg := { (SG 0x47 true XS).dbg with frozen := f }, now := now }
    let w : State := { State.reset with dbg := { Debug.reset with pages := [(0, { DbgPage.reset with trEnd := some 5 })] }, now := 5 }
    ((0, cap9 0x47) ∈ (s [] 0).dbg.caps ∧ (cap9 0x47).word8.getLsbD 6 = true ∧ (cap9 0x47).handle ≠ 0 ∧ (cap9 0x47).word8.getLsbD 0 = true ∧
      ((cap9 0x47).word8 >>> 32).setWidth 32 = 9#32 ∧ ((cap9 0x47).word8 >>> 32).setWidth 32 ≠ 8#32 ∧ (∀ q ∈ (s [] 0).dbg.caps, q.2.word8.getLsbD 4 = false)) ∧
    (∃ f ∈ (s [⟨9, [1], true, some 7⟩] 7).dbg.frozen, f.job = 9 ∧ f.engines = true ∧ f.resumeAt = some (s [⟨9, [1], true, some 7⟩] 7).now) ∧
    ((s [⟨9, [1], false, some 7⟩] 257).dbg.frozen.find? (fun f => f.job == 9 && !f.engines) = some ⟨9, [1], false, some 7⟩ ∧
      7 + 250 ≤ (s [⟨9, [1], false, some 7⟩] 257).now ∧ (s [⟨9, [1], false, some 7⟩] 256).now < 7 + 250 ∧ ∀ t ∈ (s [] 0).teams, ∀ x ∈ t.threads, x.run = .active) ∧
    (w.page 0).trEnd = some 5 ∧ w.now = 5 ∧ (State.reset.page 0).trEnd = none :=
  ⟨by decide +kernel, ⟨_, .head _, rfl, rfl, rfl⟩, by decide +kernel⟩

/-- A STEP that finds a clause in the issue slot, and one whose core's clock is stopped; its target's team once the stamps are even. -/
theorem witness_DebugCommands_step :
    let s : State := SG 0x47 true XS
    let stopped : State := { s with die0 := { s.die0 with relock := .stopped 3 0 }, die1 := { s.die1 with relock := .stopped 3 0 } }
    (∃ sl, ({ s with issue := some sl } : State).issue ≠ none) ∧ (∀ core ∈ [0, 1023, 1024, 2047], stopped.clockStopped core = true) ∧
    (s.targetTeam (asidOf s 0) (State.targetOf 0)).isSome = true ∧ InService s ∧ s.clockStopped 0 = false ∧
    (s.restamp.team? 1).map (fun t => t.threads.map fun x => s.restamp.isReady true t x && s.restamp.waveTurn t x) = some [true] :=
  ⟨⟨SL0, by simp⟩, by decide +kernel, by decide +kernel, ⟨rfl, rfl⟩, by decide +kernel, by decide +kernel⟩

/-- A ring that runs to its end, one in window mode before and after its trigger, and one whose oldest entry is still in the window. -/
theorem witness_DebugMessages_trace :
    let cap : CapSlot := cap9 0x57
    let page (ctl : DWord) (e : Option Nat) (wp : Nat) : DbgPage := { DbgPage.reset with trBase := 2 ^ 20, trCtl := ctl, trWp := wp, trEnd := e, trWin := dw (1 + 2 ^ 32) }
    let s (p : DbgPage) (now : Nat) : State := { State.reset with dbg := { Debug.reset with caps := [(0, cap)], pages := [(0, p)] }, now := now }
    let end_ : DbgPage := page (dw (1 + 6 * 2 ^ 8)) none 0
    let win (e : Option Nat) (wp : Nat) : DbgPage := page (dw (3 + 6 * 2 ^ 8)) e wp
    (cap.word8.getLsbD 6 = true ∧ cap.handle ≠ 0 ∧ cap.word8.getLsbD 4 = true ∧ (cap.word8 >>> 32).setWidth 32 = 9#32) ∧
    (∀ p ∈ [end_, win none 0, win (some 5) 0, win (some 1500) 64], p.trCtl.getLsbD 0 = true ∧ p.trStopped = false ∧
      (s p 7).region (p.trBase + 32 * (p.trWp % 2 ^ (p.trCtl.toNat / 2 ^ 8 % 2 ^ 8))) = .hbm 0) ∧
    (end_.trCtl.getLsbD 1 = false ∧ end_.trWp + 1 < 2 ^ (end_.trCtl.toNat / 2 ^ 8 % 2 ^ 8)) ∧ (win none 0).trCtl.getLsbD 1 = true ∧
    ((5 : Nat) < (s (win (some 5) 0) 7).now) ∧
    ((s (win (some 1500) 64) 7).now ≤ 1500 ∧ 2 ^ ((win none 0).trCtl.toNat / 2 ^ 8 % 2 ^ 8) ≤ (win (some 1500) 64).trWp ∧
      1500 - 1000 - 1000 ≤ ofBytes ((List.range 8).map fun i => memByte (s (win (some 1500) 64) 7).mem (2 ^ 20 + i)) ∧
      ofBytes ((List.range 8).map fun i => memByte (s (win (some 1500) 64) 7).mem (2 ^ 20 + i)) ≤ 7) := by decide +kernel

/-- Forced samples at their first and last group, idle and busy; an error at its threshold, errors of each class with a team on the core; a shutdown
with a context; a lost die with a team on it. -/
theorem witness_ClocksAndErrors_teams :
    let on (d : Die) (ts : List Team) : State := { SI X0 with die0 := d, teams := ts }
    let e : ErrInst := ⟨0, 0, 1, 2⟩
    let errs : State := { State.reset with svc := { Service.reset with errs := [⟨e, [0, 0], false, false⟩] } }
    let late : State := { State.reset with now := 168 * hourNs }
    (late.die0.forcing = none ∧ late.die0.live = true ∧ 168 * hourNs ≤ late.now - late.die0.lastSample ∧ State.reset.now - State.reset.die0.lastSample < 168 * hourNs) ∧
    ((on { Die.reset with forcing := some 0 } [T0]).teams.any (fun t => t.res == .resident && t.core / 64 == 0) = true ∧
      (on { Die.reset with forcing := some 15 } []).die0.forcing = some 15) ∧
    (errs.svc.errs.find? (fun r => sameInstance r.inst e) = some ⟨e, [0, 0], false, false⟩ ∧
      (tabGet (3, 24) e.cls errs.svc.sethr).1 ≤ (([0, 0].filter fun n => decide (errs.now ≤ n + (tabGet (3, 24) e.cls errs.svc.sethr).2 * hourNs)) ++ [errs.now]).length) ∧
    (∀ cls ∈ [0, 1], (⟨cls, 0, 1, 2⟩ : ErrInst).cls = 0 ∨ (⟨cls, 0, 1, 2⟩ : ErrInst).cls = 1) ∧ (∀ cls ∈ [2, 3, 4], 2 ≤ (⟨cls, 0, 0, 2⟩ : ErrInst).cls ∧ T0.core = 0 ∧ T0.res = .resident) ∧
    ((SI X0).issue = none ∧ (SI X0).svc.shutdown = false ∧ ((SI X0).ctxs.map (·.asid)).Nodup ∧ (SI X0).ctxs.length = 1 ∧ (∀ c ∈ (SI X0).ctxs, c.terminating = false ∧ c.terminated = false)) ∧
    (((SI X0).die 0).live = true ∧ T0.die = 0 ∧ T0.asid = 1 ∧ ((SI X0).ctx? 1).isSome = true) := by decide +kernel

theorem witness_ClocksAndErrors :
    let on (d : Die) : State := { State.reset with die0 := d }
    let wants : State := { State.reset with svc := State.reset.svc, die0 := { Die.reset with throttle := 3 } }
    let e : ErrInst := ⟨0, 0, 1, 2⟩
    let errs : State := { State.reset with svc := { Service.reset with errs := [⟨e, [0], false, false⟩], rowCopies := [e], bankWaits := [⟨2, 0, 5, 1⟩] } }
    (State.reset.die 0).live = true ∧ ((wants.die 0).relock = .none ∧ wants.wantedPoint 0 ≠ (wants.die 0).hint) ∧
    (((on { Die.reset with relock := .due 7 }).die 0).relock = .due 7 ∧ ((on { Die.reset with relock := .stopped 7 0 }).die 0).relock = .stopped 7 0 ∧
      ((on { Die.reset with relock := .settling 7 }).die 0).relock = .settling 7) ∧
    ((Die.reset).throttle ≠ 9 % 8 ∧ 115 * 16 ≤ 1840 ∧ 1839 < 115 * 16 ∧ State.reset.svc.shutdown = false ∧ State.reset.ctxs = []) ∧
    (10 ^ 9 ≤ ({ Die.reset with idle := 10 ^ 9 } : Die).idle ∧ (Die.reset).idle < 10 ^ 9 ∧ (9 : Nat) < 10 ∧ (Die.reset).removed < 7 ∧ (Die.reset).fenceMark = false) ∧
    (errs.svc.errs.find? (fun r => r.inst == e) = some ⟨e, [0], false, false⟩ ∧
      (([0].filter fun n => decide (errs.now ≤ n + (tabGet (3, 24) e.cls errs.svc.sethr).2 * hourNs)) ++ [errs.now]).length < (tabGet (3, 24) e.cls errs.svc.sethr).1) ∧
    (errs.svc.bankWaits.find? (fun b => b.unit == 5) = some ⟨2, 0, 5, 1⟩ ∧ errs.teams = [] ∧ errs.svc.rowCopies.find? (fun r => r.die == 0 && r.detail == 2) = some e) := by decide +kernel

/-- Owned by the host, offered to the BMC and lapsed; images staged, verified and written; the links, resets and the board-test port. -/
theorem witness_ManagementAndLinks :
    let own (n : Nat) (e : Option Nat) (hand : Nat) : State := { State.reset with svc := { Service.reset with mgOwn := n, offerEnd := e, mgHand := hand } }
    let fw (n : Nat) : State := { State.reset with svc := { Service.reset with mgOwn := 1, fwStat := n } }
    State.reset.svc.mgOwn = 0 ∧ ((own 1 none 0).svc.mgOwn = code .host ∧ (own 1 none 0).svc.offerEnd = none ∧ (own 1 none 0).svc.mgOwn ≠ code .bmc) ∧
    ((own 1 (some 1) 2).svc.mgOwn = 3 - code .bmc ∧ (own 1 (some 1) 2).svc.mgHand = code .bmc ∧ (own 1 (some 1) 2).now < 1) ∧
    ((own 1 (some 0) 2).svc.offerEnd = some 0 ∧ 0 ≤ (own 1 (some 0) 2).now) ∧ (2#64 : DWord).toNat % 4 = 3 - code .host ∧
    ((1#64 : DWord).toNat % 256 = 1 ∧ (2#64 : DWord).toNat % 256 = 2 ∧ (fw 0).svc.fwStat ≠ 1 ∧ (fw 0).svc.fwStat ≠ 2 ∧ (fw 1).svc.fwStat = 1 ∧ (fw 2).svc.fwStat = 2 ∧
      (fw 2).svc.recovery = false) ∧
    (State.reset.ctxs = [] ∧ State.reset.colls = []) ∧ (600 ≤ (600#64 : DWord).toNat % 2 ^ 12 ∧ (2400#64 : DWord).toNat % 2 ^ 12 ≤ 2400) := by decide +kernel

/-- The owner that has been silent for exactly the time of R391. -/
theorem witness_ManagementAndLinks_lapse :
    let s : State := { State.reset with svc := { Service.reset with mgOwn := 1 }, now := Config.ownerLapse }
    s.svc.mgOwn ≠ 0 ∧ Config.ownerLapse ≤ s.now - s.svc.lastBeat := ⟨by decide, Nat.le_refl _⟩

/-! ### Words, steps, invariants -/

/-- A well-formed instruction with its highest operands, and the word of a printed example. -/
theorem witness_DecodeAndEncodeAgree : (Instr.iadd ⟨true, 6#3⟩ true .satUns 191#8 223#8 0xFF#8).encoded = true ∧
    (Instr.iadd ⟨true, 6#3⟩ true .satUns 191#8 223#8 0xFF#8).wellFormed = true ∧ (decodeWord (dw 0x0070804C30001800)).isOk = true := by decide
/-- A NOP in the issue slot, at the last index of its clause; the same with more to come; an empty slot; a slot whose word is no instruction. -/
theorem witness_StepRunsDecoded :
    let end_ (n : Nat) : State := { S0 with issue := some { SL0 with hdr := BitVec.ofNat 64 ((headerFor 0).toNat + n * 2 ^ 52) } }
    Issuing S0 SL0 T0 ∧ S0.midReturn SL0 = none ∧ S0.breakers SL0 = [] ∧ SL0.words.getD SL0.idx 0 = dw 0xA670000000000000 ∧ S0.stalled SL0 (.nop G) = false ∧
    decodeWord (dw 0xA670000000000000) = .ok (.nop G) ∧ misplaced SL0.hdr 0 (.nop G) = false ∧ exec (.nop G) S0 = .next S0 ∧
    (S0.team? 1 = some T0 ∧ Distinct T0 ∧ Untraced S0 ∧ SL0.group.Nodup ∧ (∀ n ∈ SL0.group, (T0.thread? n).isSome = true)) ∧
    (State.hdrN SL0.hdr ≤ SL0.idx + 1 ∧ SL0.origins = [] ∧ SL0.stepOf = none ∧ (∀ c ∈ S0.ctxs, c.terminating = false) ∧
      (∀ y ∈ S0.teams, ∀ x ∈ y.threads, x.yielded = false)) ∧
    (SB X0).landing 0 1 (2 ^ 36 + 16) = .error 0x05 ∧ (page 16 (word64 0xFA00FFFF00000000 ++ word64 0xA670000000000000) S0).landing 0 1 (2 ^ 36 + 16) = .ok (headerFor 0) ∧
    (page 16 (word64 0xFA00FFFF00000000 ++ word64 0xA670000000000000) S0).entryFetch 0 1 (2 ^ 36 + 16) (headerFor 0) = .ok [dw 0xA670000000000000] ∧
    (end_ 1).issue ≠ none ∧ decodeWord (dw 0xFF70000000000000) = .error .illegalOpcode ∧ State.reset.issue = none ∧ State.reset.pending = [] ∧ State.reset.inputs = [] :=
  ⟨issuing0, by decide +kernel, by decide +kernel, by decide +kernel, by decide +kernel, by decide +kernel, by decide +kernel, rfl,
   ⟨by decide +kernel, distinct0, rfl, by decide +kernel⟩, by decide +kernel⟩
theorem witness_MemoryCanonicalKept : MemoryOk S0 ∧ MemoryOk State.reset := ⟨by unfold MemoryOk; decide +kernel, rfl⟩
theorem witness_NumbersDistinctKept : FreshNumbers S0 ∧ FreshNumbers State.reset := fresh0.2

/-! ### One instruction each on a thread: results worked out by hand -/

/-- Register r of the thread after instruction i, run on a thread with these registers. -/
def after (i : Instr) (regs : List (Nat × Word)) (r : Reg) : Option Word :=
  match exec i (S1 (R regs)) with
  | .next s => (s.thread? 1 0).map fun y => readReg y (T0.crewOf y) r
  | _ => none

theorem test_iadd_wraps : after (.iadd G false .wrap 4#8 5#8 6#8) [(5, 0xFFFFFFFF), (6, 1)] 4#8 = some 0 := by decide +kernel
theorem test_iadd_saturates : after (.iadd G false .satSgn 5#8 5#8 6#8) [(5, 0x7FFFFFFF), (6, 1)] 5#8 = some 0x7FFFFFFF := by decide +kernel
theorem test_imulhi_signed : after (.imulhi G false true 4#8 5#8 6#8) [(5, 0xFFFFFFFF), (6, 2)] 4#8 = some 0xFFFFFFFF := by decide +kernel
theorem test_shl_by_width : after (.shl G false 4#8 5#8 6#8) [(5, 1), (6, 32)] 4#8 = some 0 := by decide +kernel
theorem test_sar_past_width : after (.sar G false 4#8 5#8 6#8) [(5, 0x80000000), (6, 40)] 4#8 = some 0xFFFFFFFF := by decide +kernel
theorem test_bfx_signed : after (.bfx G false true 4#8 5#8 6#8) [(5, 0xF0), (6, 0x404)] 4#8 = some 0xFFFFFFFF := by decide +kernel
theorem test_iadd64_carries : after (.iadd64 G false .zx 4#8 6#8 8#8) [(6, 0xFFFFFFFF), (7, 0), (8, 1)] 5#8 = some 1 := by decide +kernel
/-- 1 + 2^-24 lies half way to the next number: to even, 1. -/
theorem test_fadd_ties_to_even : after (.fadd G false .rne 4#8 5#8 6#8) [(5, 0x3F800000), (6, 0x33800000)] 4#8 = some 0x3F800000 := by decide +kernel
/-- 1/3 is 1.0101…₂ × 2^-2; its 24th bit rounds up. -/
theorem test_fdiv_third : after (.fdiv G false false .rne 4#8 5#8 6#8) [(5, 0x3F800000), (6, 0x40400000)] 4#8 = some 0x3EAAAAAB := by decide +kernel
theorem test_fsqrt_two : after (.fsqrt G false false .rne 4#8 5#8) [(5, 0x40000000)] 4#8 = some 0x3FB504F3 := by decide +kernel
/-- 2.5 to even is 2. -/
theorem test_f2i_even : after (.f2i G false .int32 .rne 4#8 5#8) [(5, 0x40200000)] 4#8 = some 2 := by decide +kernel
theorem test_fsub_down_cancels : after (.fsub G false .rdn 4#8 5#8 5#8) [(5, 0x3F800000)] 4#8 = some 0x80000000 := by decide +kernel
theorem test_guard_false : after (.iaddImm ⟨false, 0#3⟩ 4#8 4#8 5) [(4, 9)] 4#8 = some 9 := by decide +kernel

/-! ### Witnesses of further clauses -/

/-- PREF at an address of the code window, whose line lies in HBM without errors; at one whose translation is not cached; at one that is not
canonical; and at a page that programs may not read. Whether a PREF is ignored is a free value: one clause of the statement or the other is met. -/
theorem witness_SpillsPrefetchesFences_pref :
    let s : State := { S0 with tlb := [⟨0, 1, 2 ^ 36, 2 ^ 30, 2 ^ 30, true, true, false⟩, ⟨0, 1, 2 ^ 36 + 2 ^ 30, 2 ^ 30, 2 ^ 31, true, false, true⟩] }
    (isCanonical (2 ^ 36 + 8) ∧ ¬ isCanonical (2 ^ 63 - 1) ∧ (2 ^ 63 - 1 < 2 ^ 64)) ∧
    (s.tlbFind 0 1 (2 ^ 40) = none ∧ s.tlbFind 0 1 (2 ^ 36 + 8) ≠ none ∧ s.translate 0 1 (2 ^ 36 + 8) .read .program = .ok (2 ^ 30 + 8) ∧
      s.tlbFind 0 1 (2 ^ 36 + 2 ^ 30) ≠ none ∧ s.translate 0 1 (2 ^ 36 + 2 ^ 30) .read .program = .error 0x07) ∧
    ∀ i ∈ List.range 4, s.region (128 * ((2 ^ 30 + 8) / 128) + 32 * i) = .hbm 0 ∧ s.poisoned (128 * ((2 ^ 30 + 8) / 128) + 32 * i) 32 = none := by
  refine ⟨⟨by unfold isCanonical; decide, by unfold isCanonical; decide, by decide⟩, by decide +kernel⟩

/-- An MWAIT of a thread whose job a halt wave has frozen, and one on another line than its watch slot names. -/
theorem witness_MonitoredWaits_more :
    let x : Thread := { R [(3, 0x10#32)] with watch := some ((2 ^ 30) / 128, 0) }
    let s : State := { S1 x with dbg := { Debug.reset with caps := [(0, cap9 0x47)], frozen := [⟨9, [1], true, none⟩] } }
    Issuing s SL0 (T1 x) ∧ s.frozen 1 = true ∧ (S1 x).frozen 1 = false ∧ s.translate 0 1 (2 ^ 36) .read .program = .ok (2 ^ 30) ∧
    (s.tlbFind 0 1 (2 ^ 36)).isSome = true ∧ (2 ^ 30 + 128) / 128 ≠ (2 : Nat) ^ 30 / 128 ∧ (S1 x).translate 0 1 (2 ^ 40) .read .program = .error 0x06 :=
  ⟨⟨rfl, by decide +kernel⟩, by decide +kernel⟩

/-- A late fault with nothing else about; a walk that nobody waits for, one for a page that its store may not write, one whose access is cached in the
L1, and one whose table lies in error. -/
theorem witness_LateFaultsAndWalks_more :
    let a := { acc (.load false) .device [] with addr := 2 ^ 40, bad := some 0x06 }
    let s : State := { SA a with die0 := { (SA a).die0 with fb := ⟨0, 1, 0, 0⟩ } }
    let w (va : Nat) : WalkReq := ⟨0, 1, va, false⟩
    let asks (va : Nat) (k : AccKind) : State := { SA { acc k .device [] with addr := va } with tlb := [], walks := [w va] }
    let err : State := { asks (2 ^ 36) (.load false) with poison := (List.range 2048).map fun n => 2 ^ 18 + n }
    let ro : State := ({ asks (2 ^ 36 + 2 ^ 30) .store with tlb := [] } : State).poke (2 ^ 21 + 8 * 65) (word64 (2 ^ 31 + 3))
    let near : Access := { acc (.load false) .crew [] with addr := 2 ^ 36 }
    Quiet s ∧ (a.isLoad = true ∧ XA.run = .active ∧ XA.pend = []) ∧ ({ SI X0 with walks := [w (2 ^ 36)] } : State).accs = [] ∧
    (ro.walk 0 1 (2 ^ 36 + 2 ^ 30)).toOption.map (fun e => State.permitted e .write .program) = some false ∧
    ro.accs.all (fun b => (ro.l1Hit b).isNone && (ro.accPhys b).isNone) = true ∧
    err.walk 0 1 (2 ^ 36) = .error 0x09 ∧ err.accs.all (fun b => (err.l1Hit b).isNone && (err.accPhys b).isNone) = true ∧
    (({ asks (2 ^ 36) (.load false) with accs := [near], l1 := [⟨0, 1, .program, 2 ^ 36 / 32, 2 ^ 30, List.replicate 32 0, [], false⟩] } : State).l1Hit near).isSome = true :=
  ⟨⟨by decide +kernel, fun t ht _ x hx => by
      have h : ∀ t ∈ (SA (acc (.load false) .device [])).teams, ∀ x ∈ t.threads, x.run = .active := by decide +kernel
      rw [h t ht x hx]; trivial⟩, by decide +kernel⟩

/-- A grid barrier of a launch on both dies, every cluster placed, with no clock stopped and with one; a team barrier whose waiter waits for a phase
that has not ended. -/
theorem witness_BarrierPhases_grid :
    let b : BarRef := ⟨.grid, 2, 0, 0⟩
    let s : State := { S0 with grids := S0.grids.map fun g => { g with dies := [0, 1], placed := g.launch.clusters, bars := [(0, ⟨0, 1, 0, 0⟩)] } }
    let stopped : State := { s with die1 := { s.die1 with relock := .stopped 3 0 } }
    let late : State := put (T1 { X0 with run := .asleep (.bar ⟨.team, 1, 0, 0⟩ 0) }) S0
    (s.bar b = ⟨0, 1, 0, 0⟩ ∧ s.die0.relock = .none ∧ s.die1.relock = .none ∧ (s.grids.map (·.dies)) = [[0, 1]] ∧ (s.grid? 2).isSome = true) ∧
    stopped.die1.relock = .stopped 3 0 ∧ (late.bar ⟨.team, 1, 0, 0⟩).phase ≤ 0 := by decide +kernel

/-- A launch whose ticket passes no bridge holds; a WAITC with a returned load that nothing has covered, one of them on a fragment register. -/
theorem witness_Tickets_bridge : (S0.grid? T0.grid).map S0.bridgeStalled = some false := by decide +kernel
theorem witness_WaitcSleepsAboveThreshold_covers :
    let x : Thread := { X0 with flips := [⟨5, 1, 2, false⟩, ⟨6, 3, 4, true⟩], frags := [⟨6, 9, true⟩], trans := [(5, 3), (7, 3)] }
    Issuing (S1 x) SL0 (T1 x) ∧ Distinct (T1 x) ∧ lanesOf (T1 x) SL0 G = [x] ∧ (x.flips.map (·.code)).Nodup ∧ x.ld = 0 := by
  exact ⟨issuing_put _ rfl, distinct1 _, lanes1 _ rfl, by decide, rfl⟩

/-- A completed copy or drain that faults: the fault buffer's slot lies in HBM. -/
theorem witness_CopiesComplete_entry : S0.region ((({ S0 with die0 := { S0.die0 with fb := ⟨0, 1, 0, 0⟩ } } : State).die 0).fb.base +
    32 * (({ S0 with die0 := { S0.die0 with fb := ⟨0, 1, 0, 0⟩ } } : State).die 0).fb.wp) = .hbm 0 := by decide +kernel

/-- A CALLX in a group of two lanes; threads that an ICSYNC holds, on their way to a target, behind their clause, to a handler and back from one. -/
theorem witness_BranchesAndCalls_held :
    let w : IcWait := ⟨1, .device, [], []⟩
    (AllHold (T2 X0 Y0) SL2 G [4#8, 5#8] ∧ lanesOf (T2 X0 Y0) SL2 G = [X0, Y0]) ∧
    ((2 ^ 36 + 32) % 16 = 0 ∧ ({ XB with icsync := [w] } : Thread).icsync ≠ [] ∧ XB.icsync = []) ∧
    ∀ a ∈ [Arrival.jump (2 ^ 36) none 0, .fall, .handler (2 ^ 36) (plainFault 0x11), .rett],
      ({ X0 with icsync := [w], arrive := some a } : Thread) ∈ (T1 { X0 with icsync := [w], arrive := some a }).threads ∧
      ({ X0 with icsync := [w], arrive := some a } : Thread).run = .active :=
  ⟨⟨allHold_of (by decide +kernel), by decide +kernel⟩, by decide +kernel, fun _ _ => ⟨.head _, rfl⟩⟩

/-- A child launch that is refused and has a completion word. -/
theorem witness_ChildLaunch_refused :
    let s : State := SK 0 1 8 0
    let l := { recordLaunch (launchRecord 0 1) 9 1 1 0 with completion := 2 ^ 36 + 2 ^ 20 }
    s.refused l 1 0 [0] (some 1) = true ∧ l.completion ≠ 0 ∧ (s.grid? 2).isSome = true := by decide +kernel

/-- A thread whose frame cannot be read, and one whose frame cannot be written. -/
theorem witness_ExceptionEntry_frames :
    let s : State := { put (TT XT) S0 with tlb := [] }
    let ro : State := (ST XT 0 0).poke (2 ^ 21 + 8 * 65) (word64 (2 ^ 31 + 0x13))
    s.frameLive { TT XT with privBase := 2 ^ 40 } XT = none ∧ ro.frameLive (TT XT) XT = some false ∧
    ((ro.askPriv (TT XT) 0 10 1).writeFrame (TT XT) XT (ro.frameBytes XT (2 ^ 36) 0 XT.preds 0 XT.window (plainFault 0x11) true false)).isOk = false := by
  decide +kernel

/-- Threads of one place in two crews; a watchdog whose thread's frame cannot be read, is live and is free. -/
theorem witness_SchedulerSelects_place :
    let y : Thread := { XS with tid := 1, lane := 1 }
    let s : State := { put (T2 XS y) S0 with issue := none }
    ((s.isReady false (T2 XS y) (State.asFetched XS y) && s.isReady false (T2 XS y) y) = true ∧ y.clause = XS.clause ∧ y.idx = XS.idx) ∧
    ((ST XT 2 0).frameLive (TT XT) XT = some true ∧ (ST XT 0 0).frameLive (TT XT) XT = some false ∧
      ({ put (TT XT) S0 with tlb := [] } : State).frameLive { TT XT with privBase := 2 ^ 40 } XT = none) := by decide +kernel

/-- A launch with a completion word that its retiring writes; a saved team whose one thread stands inside its clause. -/
theorem witness_PlacementAndRetirement_word :
    let s : State := { S0 with issue := none, teams := [], grids := S0.grids.map fun g => { g with launch := { g.launch with completion := 2 ^ 36 + 2 ^ 20 } } }
    (∀ g ∈ s.grids, g.launch.completion ≠ 0 ∧ s.writable (s.medlar g.queue) g.asid g.launch.completion .frontEnd = .ok (2 ^ 30 + 2 ^ 20)) ∧
    (X0.run = .active ∧ X0.arrive = none ∧ X0.words ≠ [] ∧ X0.idx < State.hdrN X0.hdr) := by decide +kernel

/-- A WHILE whose test is kept; a disabled queue whose packets have not ended; a WAITV whose read was made again. -/
theorem witness_PacketsRun_kept :
    let node (t : Option Bool) : Queue := { order [9, VA] with cursor := 2 ^ 36 + 2 ^ 20, test := t }
    (∀ b ∈ [false, true], (node (some b)).test = some b ∧ readyAt (SQ (node (some b))) 0 [2 ^ 36 + 2 ^ 20 + 72] = true ∧
      (SQ (node (some b))).writable 0 1 (2 ^ 36 + 2 ^ 20 + 72) .frontEnd = .ok (2 ^ 30 + 2 ^ 20 + 72)) ∧
    ({ Q0 with started := [⟨4, .copy 0 0 2, none, none, 1⟩] } : Queue).started ≠ [] ∧ ({ order [5, VA] with retrying := true } : Queue).retrying = true := by
  decide +kernel

/-- S and R apart; a member that has heard nothing of its sender, and one that has a credit of it; chunks that it awaits and that it does not. -/
theorem witness_PeersAndLinks_rounds :
    let c : Coll := C1 SEND 0
    let quiet : Coll := { C1 RECV 0 with peers := [⟨1, 0, 0, 8, 0, 0, 0, none, 5⟩] }
    Apart (C1 0 0) ∧ (∀ y ∈ (SC c).colls, y.id ≠ 8) ∧ (SC (C1 0 0)).region (2 ^ 30 + 2 ^ 20 + 0x2000) = .hbm 0 ∧
    (Fresh quiet 1 ∧ quiet.round < 2 ^ 32 / 2 ^ 32 ∧ ¬ Fresh c 1) ∧ (State.awaitsMsg quiet 1 = true ∧ State.awaitsMsg (C1 0 0) 1 = false) := by
  refine ⟨by unfold Apart; decide +kernel, by decide +kernel, by decide +kernel, ⟨⟨by decide, _, rfl, rfl, rfl⟩, by decide, ?_⟩, by decide +kernel⟩
  rintro ⟨-, p, hp, h, -⟩
  have e : (C1 SEND 0).peers.find? (fun p => p.rank == 1) = some ⟨1, 8, 0, 8, 0, 0, 0, none, 0⟩ := rfl
  rw [e] at hp; cases hp; exact absurd h (by decide)

/-- Rows held: that of an aperture access and of a peer's. -/
theorem witness_ContextCommands_held :
    let s : State := { SX with svc := { SX.svc with rowCopies := [⟨0, 0, 0, Config.rowOf (SX.svc.apBase)⟩] } }
    (regionOf s.svc.apBase = .hbm 0 ∧ State.stackOf s.svc.apBase = 0) ∧ SX.rowHeld SX.svc.apBase = false ∧ (1 : Nat) ≤ 2 ^ s.link.bar2Log2 := by decide +kernel

/-- A STEP held, its job frozen and not; slots two generations below a revoked one, and one of another line. -/
theorem witness_DebugCommands_more :
    let s : State := SG 0x47 true XS
    let p : DbgPage := { DbgPage.reset with busy := true, held := some [2, 1, 0, 0] }
    let on (frozen clause : Bool) : State := { SG 0x47 frozen XS with
      issue := if clause then some SL0 else none, dbg := { (SG 0x47 frozen XS).dbg with pages := [(0, p)] } }
    let slot (parent : Nat) : CapSlot := ⟨1, dw (9 * 2 ^ 32 + 2 ^ 16 + parent * 2 ^ 8 + 0xC7), 0, 0⟩
    let tree : State := { s with dbg := { s.dbg with caps := [(0, cap9 0x47), (1, slot 0), (2, slot 1), (3, cap9 0x47)] } }
    (StepWaits (on true true) 0 [2, 1, 0, 0] ∧ ((on true true).page 0).held = some [2, 1, 0, 0]) ∧
    ((∀ b ∈ [false, true], ((on b false).page 0).held = some [2, 1, 0, 0] ∧ (on b false).issue = none ∧ (on b false).frozen 1 = b) ∧
      ∀ t ∈ s.teams, s.clockStopped t.core = false) ∧
    (descendsFrom tree 0 2 ∧ descendsFrom tree 0 0 ∧ parentSlot tree 3 = none ∧ parentSlot tree 2 = some 1) :=
  ⟨⟨.inl (by simp), by decide +kernel⟩, by decide +kernel, ⟨2, by decide, by decide +kernel⟩, ⟨0, by decide, rfl⟩, by decide +kernel⟩

/-- A part that a critical shutdown has stopped; an owner of both kinds of registers. -/
theorem witness_ClocksAndErrors_more :
    ({ State.reset with svc := { Service.reset with shutdown := true } } : State).svc.shutdown = true ∧ State.reset.svc.shutdown = false := by decide

end Sys2Proof.Tests
end

/-! Integer, field and move instructions (chapter 6): the statements' numbers beside the model's words, the value of each operation,
and the statements that follow from them. -/

namespace Sys2Proof.Machine

open Spec

/-! ### Words as numbers (R8) -/

theorem sg_eq_toInt (w : Word) : sg w = w.toInt := by
  simp only [sg, BitVec.toInt_eq_toNat_cond]
  split <;> split <;> omega

theorem ofNat_un (w : Word) : BitVec.ofNat 32 (un w) = w := (BitVec.ofNat_toNat 32 w).trans (BitVec.setWidth_eq w)

theorem wrap32_natCast (n : Nat) : wrap32 n = BitVec.ofNat 32 n := BitVec.ofInt_natCast 32 n

theorem wrap32_un (w : Word) : wrap32 (un w) = w := (wrap32_natCast _).trans (ofNat_un w)

theorem wrap32_sg (w : Word) : wrap32 (sg w) = w := by rw [sg_eq_toInt, wrap32, BitVec.ofInt_toInt]

theorem wrap32_add (x y : Int) : wrap32 (x + y) = wrap32 x + wrap32 y := BitVec.ofInt_add x y

theorem wrap32_sub (x y : Int) : wrap32 (x - y) = wrap32 x - wrap32 y := by
  simp only [wrap32, Int.sub_eq_add_neg, BitVec.ofInt_add, BitVec.ofInt_neg, BitVec.sub_eq_add_neg]

/-- The number of chosen bits, with one bit more. -/
theorem fromBits_succ (n : Nat) (f : Nat → Bool) : fromBits (n + 1) f = fromBits n f + if f n then 2 ^ n else 0 := by
  simp [fromBits, List.range_succ]

theorem fromBits_lt (n : Nat) (f : Nat → Bool) : fromBits n f < 2 ^ n := by
  induction n with
  | zero => simp [fromBits]
  | succ n ih => rw [fromBits_succ, Nat.pow_succ]; split <;> omega

theorem testBit_fromBits (n : Nat) (f : Nat → Bool) (i : Nat) : (fromBits n f).testBit i = (decide (i < n) && f i) := by
  induction n with
  | zero => simp [fromBits]
  | succ n ih =>
    have e : fromBits (n + 1) f = 2 ^ n * (f n).toNat + fromBits n f := by
      rw [fromBits_succ, Nat.add_comm]; cases f n <;> simp
    rw [e, Nat.testBit_two_pow_mul_add _ (fromBits_lt n f), ih]
    rcases lt_trichotomy i n with h | rfl | h
    · simp [h, Nat.lt_succ_of_lt h]
    · cases f i <;> simp
    · simp [Nat.testBit_bool_toNat, show ¬ i < n by omega, show ¬ i < n + 1 by omega, show i - n ≠ 0 by omega]

/-- A word is fixed by its bits. -/
theorem eq_ofBits32 {w : Word} {f : Nat → Bool} (h : ∀ i < 32, w.getLsbD i = f i) : w = ofBits32 f := by
  apply BitVec.eq_of_getLsbD_eq
  intro i hi
  rw [h i hi, ofBits32, BitVec.getLsbD_ofNat, testBit_fromBits]
  simp [hi]

theorem testBit_un (w : Word) (i : Nat) : (un w).testBit i = w.getLsbD i := BitVec.testBit_toNat w

/-- The two's-complement reading of a number below 2 ^ n. -/
theorem sextNat_of_lt {n f : Nat} (h : f < 2 ^ n) : sextNat n f = if 2 ^ n ≤ 2 * f then (f : Int) - 2 ^ n else f := by
  rw [sextNat, Nat.mod_eq_of_lt h]

/-! ### An instruction whose value is a function of its operands -/

/-- One destination register: what is left to show is the value, as a function of the operands read. -/
theorem runsAs_one {i : Instr} {g : Guard} {T : Bool} {d : Reg} {src : List Reg} {f : Thread → Crew → Word} {F : (Reg → Word) → Word}
    (he : ∀ s, exec i s = .next (s.aluOp g T d src f)) (hf : ∀ x c, f x c = F (readReg x c)) : RunsAs i (one g T d src F) :=
  runsAs_of_lane (f := fun x c => ⟨[(d, f x c)], x.preds⟩) he (fun _ _ => by simp) fun x c => by rw [hf]; rfl

/-- A pair destination: what is left to show is the number that the pair holds. -/
theorem runsAs_pair {i : Instr} {g : Guard} {T : Bool} {d : Reg} {src : List Reg} {f : Thread → Crew → DWord} {F : (Reg → Word) → Nat}
    (he : ∀ s, exec i s = .next (s.aluOp64 g T d src f)) (hf : ∀ x c, (f x c).toNat = F (readReg x c)) : RunsAs i (pair g T d src F) :=
  runsAs_of_lane (f := fun x c => ⟨pairWrites d (f x c), x.preds⟩) he (fun _ _ => pair_nodup _ _) fun x c => by
    rw [pairWrites_eq, hf]; rfl

/-! ### Sums, products, minima, maxima and absolute values -/

theorem addSat_wrap (a b : Word) : addSat .wrap a b = wrap32 (un a + un b) := by
  rw [wrap32_add, wrap32_un, wrap32_un, addSat]

theorem subSat_wrap (a b : Word) : subSat .wrap a b = wrap32 ((un a : Int) - un b) := by
  rw [wrap32_sub, wrap32_un, wrap32_un, subSat]

theorem clampInt_eq {lo hi : Int} (h : lo ≤ hi) (x : Int) : clampInt lo hi x = max lo (min hi x) := by
  unfold clampInt; split
  · omega
  · split <;> omega

theorem addSat_satSgn (a b : Word) : addSat .satSgn a b = wrap32 (max (-2 ^ 31) (min (2 ^ 31 - 1) (sg a + sg b))) := by
  rw [addSat, clampInt_eq (by decide), sg_eq_toInt, sg_eq_toInt]; rfl

theorem addSat_satUns (a b : Word) : addSat .satUns a b = wrap32 (max 0 (min (2 ^ 32 - 1) ((un a : Int) + un b))) := by
  rw [addSat, clampInt_eq (by decide)]; rfl

theorem subSat_satSgn (a b : Word) : subSat .satSgn a b = wrap32 (max (-2 ^ 31) (min (2 ^ 31 - 1) (sg a - sg b))) := by
  rw [subSat, clampInt_eq (by decide), sg_eq_toInt, sg_eq_toInt]; rfl

theorem subSat_satUns (a b : Word) : subSat .satUns a b = wrap32 (max 0 (min (2 ^ 32 - 1) ((un a : Int) - un b))) := by
  rw [subSat, clampInt_eq (by decide)]; rfl

theorem mul_eq_ofNat_un (a b : Word) : a * b = BitVec.ofNat 32 (un a * un b) := by rw [BitVec.ofNat_mul, ofNat_un, ofNat_un]

theorem mul_add_eq_ofNat_un (a b c : Word) : a * b + c = BitVec.ofNat 32 (un a * un b + un c) := by
  rw [BitVec.ofNat_add, ← mul_eq_ofNat_un, ofNat_un]

theorem mulHigh_eq (sgn : Bool) (a b : Word) : mulHigh sgn a b =
    if sgn then wrap32 ((sg a * sg b) / 2 ^ 32) else BitVec.ofNat 32 (un a * un b / 2 ^ 32) := by
  rw [sg_eq_toInt, sg_eq_toInt]; rfl

theorem slt_iff_sg_lt (a b : Word) : a.slt b = true ↔ sg a < sg b := by
  rw [sg_eq_toInt, sg_eq_toInt]; exact BitVec.slt_iff_toInt_lt

theorem ult_iff_un_lt (a b : Word) : a.ult b = true ↔ un a < un b := BitVec.ult_iff_toNat_lt

theorem minOf_eq (sgn : Bool) (a b : Word) : minOf sgn a b = lower sgn a b := by
  cases sgn
  · simp [minOf, lower, ult_iff_un_lt]
  · simp [minOf, lower, slt_iff_sg_lt]

theorem maxOf_eq (sgn : Bool) (a b : Word) : maxOf sgn a b = higher sgn a b := by
  cases sgn
  · simp [maxOf, higher, ult_iff_un_lt]
  · simp [maxOf, higher, slt_iff_sg_lt]

theorem absOf_eq (sat : Bool) (a : Word) : absOf sat a = if sat ∧ un a = 2 ^ 31 then wrap32 (2 ^ 31 - 1) else wrap32 |sg a| := by
  have hmin : a = 0x80000000#32 ↔ un a = 2 ^ 31 := BitVec.toNat_inj.symm
  have hneg : a.slt 0#32 = true ↔ sg a < 0 := slt_iff_sg_lt a 0#32
  simp only [absOf, Bool.and_eq_true, beq_iff_eq, hmin, hneg]
  congr 1
  split
  · rw [abs_of_neg ‹_›, wrap32, BitVec.ofInt_neg]; exact congrArg _ (wrap32_sg a).symm
  · rw [abs_of_nonneg (not_lt.1 ‹_›), wrap32_sg]

end Sys2Proof.Machine

section

open Sys2Proof Sys2Proof.Machine Sys2Proof.Spec

/-- Settles O1: every form is a lane-wise operation, and its value is the one of R101, R102 and R113. -/
theorem integerArithmetic : Obligations.IntegerArithmetic := by
  unfold Obligations.IntegerArithmetic
  intro i op h
  cases i with
  | iadd g T m d a b =>
    obtain rfl := Option.some.inj h
    refine runsAs_one (fun _ => rfl) fun x c => ?_
    cases m with
    | wrap => exact addSat_wrap _ _
    | satSgn => exact addSat_satSgn _ _
    | satUns => exact addSat_satUns _ _
  | isub g T m d a b =>
    obtain rfl := Option.some.inj h
    refine runsAs_one (fun _ => rfl) fun x c => ?_
    cases m with
    | wrap => exact subSat_wrap _ _
    | satSgn => exact subSat_satSgn _ _
    | satUns => exact subSat_satUns _ _
  | imul | imulImm => exact Option.some.inj h ▸ runsAs_one (fun _ => rfl) fun _ _ => mul_eq_ofNat_un _ _
  | imulhi => exact Option.some.inj h ▸ runsAs_one (fun _ => rfl) fun _ _ => mulHigh_eq _ _ _
  | imad => exact Option.some.inj h ▸ runsAs_one (fun _ => rfl) fun _ _ => mul_add_eq_ofNat_un _ _ _
  | imin | iminImm => exact Option.some.inj h ▸ runsAs_one (fun _ => rfl) fun _ _ => minOf_eq _ _ _
  | imax | imaxImm => exact Option.some.inj h ▸ runsAs_one (fun _ => rfl) fun _ _ => maxOf_eq _ _ _
  | iabs => exact Option.some.inj h ▸ runsAs_one (fun _ => rfl) fun _ _ => absOf_eq _ _
  | iaddImm => exact Option.some.inj h ▸ runsAs_one (fun _ => rfl) fun _ _ => addSat_wrap _ _
  | _ => nomatch h

end

namespace Sys2Proof.Machine

open Spec

/-! ### Bitwise functions, shifts, rotation, counts and reversal of bits -/

theorem and_eq_ofBits32 (a b : Word) : a &&& b = ofBits32 fun i => (un a).testBit i && (un b).testBit i :=
  eq_ofBits32 fun i _ => by simp [testBit_un]

theorem or_eq_ofBits32 (a b : Word) : a ||| b = ofBits32 fun i => (un a).testBit i || (un b).testBit i :=
  eq_ofBits32 fun i _ => by simp [testBit_un]

theorem xor_eq_ofBits32 (a b : Word) : a ^^^ b = ofBits32 fun i => (un a).testBit i != (un b).testBit i :=
  eq_ofBits32 fun i _ => by simp [testBit_un]

theorem andn_eq_ofBits32 (a b : Word) : a &&& ~~~b = ofBits32 fun i => (un a).testBit i && !(un b).testBit i :=
  eq_ofBits32 fun i hi => by simp [testBit_un, hi]

theorem shlOf_eq (a n : Word) : shlOf a n = shiftL a n := by
  unfold shlOf shiftL
  congr 1
  apply BitVec.eq_of_toNat_eq
  rw [BitVec.toNat_shiftLeft, Nat.shiftLeft_eq, BitVec.toNat_ofNat]; rfl

theorem shrOf_eq (a n : Word) : shrOf a n = shiftR a n := by
  unfold shrOf shiftR
  congr 1
  rw [← ofNat_un (a >>> n.toNat), un, BitVec.toNat_ushiftRight, Nat.shiftRight_eq_div_pow]; rfl

theorem sarOf_eq (a n : Word) : sarOf a n = shiftS a n := by
  rw [← wrap32_sg (sarOf a n), sg_eq_toInt, sarOf, BitVec.toInt_sshiftRight, Int.shiftRight_eq_div_pow, ← sg_eq_toInt, shiftS, un]
  norm_cast

/-- A left shift within n bits keeps the low n - r bits, and what a right shift by n - r gives fits below them. -/
theorem rotate_or_eq_add {x n r : Nat} (hx : x < 2 ^ n) (hr : r ≤ n) : x <<< r % 2 ^ n ||| x >>> (n - r) = x * 2 ^ r % 2 ^ n + x / 2 ^ (n - r) := by
  have hn : 2 ^ n = 2 ^ (n - r) * 2 ^ r := by rw [← Nat.pow_add, Nat.sub_add_cancel hr]
  have hlow : x / 2 ^ (n - r) < 2 ^ r := Nat.div_lt_of_lt_mul (hn ▸ hx)
  have hhigh : x <<< r % 2 ^ n = (x % 2 ^ (n - r)) <<< r := by
    rw [Nat.shiftLeft_eq, Nat.shiftLeft_eq, hn, Nat.mul_mod_mul_right]
  rw [Nat.shiftRight_eq_div_pow, ← Nat.shiftLeft_eq, hhigh, Nat.shiftLeft_add_eq_or_of_lt hlow]

theorem rotlOf_eq (a n : Word) : rotlOf a n = rotate a n := by
  rw [← ofNat_un (rotlOf a n), un, rotlOf, BitVec.toNat_rotateLeft, Nat.mod_mod, rotate_or_eq_add a.isLt (by omega)]; rfl

/-- The number of leading zero bits of the low n bits. -/
theorem clzFrom_eq (a : Word) (n : Nat) (h : un a < 2 ^ n) : clzFrom a n = if un a = 0 then n else n - 1 - Nat.log2 (un a) := by
  induction n with
  | zero => simp [clzFrom]
  | succ n ih =>
    rw [clzFrom, ← testBit_un]
    by_cases hn : un a < 2 ^ n
    · rw [Nat.testBit_lt_two_pow hn, ih hn]
      have : un a ≠ 0 → (un a).log2 < n := fun h0 => (Nat.log2_lt h0).2 hn
      simp only [Bool.false_eq_true, if_false]
      split <;> omega
    · have h0 : un a ≠ 0 := fun e => hn (e ▸ Nat.two_pow_pos n)
      have htop : (un a).log2 = n := (Nat.log2_eq_iff h0).2 ⟨not_lt.1 hn, h⟩
      have hbit : (un a).testBit n = true := htop ▸ Nat.testBit_log2 h0
      rw [if_pos hbit, if_neg h0, htop]; omega

theorem clzOf_eq (a : Word) : clzOf a = BitVec.ofNat 32 (if un a = 0 then 32 else 31 - Nat.log2 (un a)) := by
  rw [clzOf, clzFrom_eq a 32 a.isLt]

theorem bit_eq_testBit (i x : Nat) : bit i x = x.testBit i := by
  rw [bit, Nat.testBit_eq_decide_div_mod_eq]; rfl

theorem popFrom_eq (a n : Nat) : popFrom a n = ((List.range n).filter fun i => a.testBit i).length := by
  induction n with
  | zero => rfl
  | succ n ih =>
    rw [popFrom, ih, bit_eq_testBit, List.range_succ, List.filter_append, List.length_append, Nat.add_comm]
    cases h : a.testBit n <;> simp [h, b2n]

theorem popOf_eq (a : Word) : popOf a = BitVec.ofNat 32 ((List.range 32).filter fun i => (un a).testBit i).length :=
  (congrArg (BitVec.ofNat 32) (popFrom_eq (un a) 32) :)

theorem brevOf_eq (a : Word) : brevOf a = ofBits32 fun i => (un a).testBit (31 - i) :=
  eq_ofBits32 fun i hi => by
    rw [brevOf, BitVec.getLsbD_reverse, BitVec.getMsbD_eq_getLsbD, testBit_un]; simp [hi]

end Sys2Proof.Machine

section

open Sys2Proof Sys2Proof.Machine Sys2Proof.Spec

/-- Settles O2: every form is a lane-wise operation, and its value is the one of R105, R106 and R113. -/
theorem bitwiseShiftsCounts : Obligations.BitwiseShiftsCounts := by
  unfold Obligations.BitwiseShiftsCounts
  intro i op h
  cases i with
  | and | andImm => exact Option.some.inj h ▸ runsAs_one (fun _ => rfl) fun _ _ => and_eq_ofBits32 _ _
  | or | orImm => exact Option.some.inj h ▸ runsAs_one (fun _ => rfl) fun _ _ => or_eq_ofBits32 _ _
  | xor | xorImm => exact Option.some.inj h ▸ runsAs_one (fun _ => rfl) fun _ _ => xor_eq_ofBits32 _ _
  | andn | andnImm => exact Option.some.inj h ▸ runsAs_one (fun _ => rfl) fun _ _ => andn_eq_ofBits32 _ _
  | shl | shlImm => exact Option.some.inj h ▸ runsAs_one (fun _ => rfl) fun _ _ => shlOf_eq _ _
  | shr | shrImm => exact Option.some.inj h ▸ runsAs_one (fun _ => rfl) fun _ _ => shrOf_eq _ _
  | sar | sarImm => exact Option.some.inj h ▸ runsAs_one (fun _ => rfl) fun _ _ => sarOf_eq _ _
  | rotl | rotlImm => exact Option.some.inj h ▸ runsAs_one (fun _ => rfl) fun _ _ => rotlOf_eq _ _
  | clz => exact Option.some.inj h ▸ runsAs_one (fun _ => rfl) fun _ _ => clzOf_eq _
  | popc => exact Option.some.inj h ▸ runsAs_one (fun _ => rfl) fun _ _ => popOf_eq _
  | brev => exact Option.some.inj h ▸ runsAs_one (fun _ => rfl) fun _ _ => brevOf_eq _
  | _ => nomatch h

end

namespace Sys2Proof.Machine

open Spec

/-! ### Bit fields and byte permutes -/

theorem bits_eq_ctlPos (ctl : Word) : bits 7 0 ctl.toNat = ctlPos ctl := by simp [bits, ctlPos, un]

theorem fieldLen_eq (ctl : Word) : fieldLen ctl = ctlLen ctl := by
  have hlen : bits 15 8 ctl.toNat = un ctl / 256 % 256 := rfl
  simp only [fieldLen, ctlLen, bits_eq_ctlPos, hlen]

theorem bfxOf_eq (sx : Bool) (a ctl : Word) : bfxOf sx a ctl = extract sx a ctl := by
  have hf : a.toNat / 2 ^ ctlPos ctl % 2 ^ ctlLen ctl = fieldOf a ctl := rfl
  have hlt : fieldOf a ctl < 2 ^ ctlLen ctl := Nat.mod_lt _ (Nat.two_pow_pos _)
  simp only [bfxOf, extract, fieldLen_eq, bits_eq_ctlPos, hf]
  by_cases h0 : ctlLen ctl = 0
  · rw [if_pos h0, if_pos h0]
  rw [if_neg h0, if_neg h0]
  cases sx with
  | false => simp
  | true =>
    have htop : 2 ^ ctlLen ctl ≤ 2 * fieldOf a ctl ↔ 2 ^ (ctlLen ctl - 1) ≤ fieldOf a ctl := by
      have : 2 ^ ctlLen ctl = 2 * 2 ^ (ctlLen ctl - 1) := by rw [← Nat.pow_succ', Nat.succ_eq_add_one, Nat.sub_add_cancel (by omega)]
      omega
    simp only [sextNat_of_lt hlt, htop, if_true, true_and]
    split
    · rfl
    · exact wrap32_natCast _

theorem bfiOf_eq (a b ctl : Word) : bfiOf a b ctl = insert a b ctl := by
  refine eq_ofBits32 fun i hi => ?_
  simp only [bfiOf, fieldLen_eq, bits_eq_ctlPos, testBit_un]
  by_cases h0 : ctlLen ctl = 0
  · rw [if_pos h0, if_neg (by omega)]
  rw [if_neg h0]
  have hmask : (BitVec.ofNat 32 ((2 ^ ctlLen ctl - 1) * 2 ^ ctlPos ctl)).getLsbD i =
      decide (ctlPos ctl ≤ i ∧ i < ctlPos ctl + ctlLen ctl) := by
    rw [BitVec.getLsbD_ofNat, Nat.testBit_mul_two_pow, Nat.testBit_two_pow_sub_one]
    simp only [hi, decide_true, Bool.true_and, ← Bool.decide_and]
    exact decide_eq_decide.2 (by omega)
  have hb : (BitVec.ofNat 32 (b.toNat * 2 ^ ctlPos ctl)).getLsbD i = (decide (ctlPos ctl ≤ i) && b.getLsbD (i - ctlPos ctl)) := by
    rw [BitVec.getLsbD_ofNat, Nat.testBit_mul_two_pow, BitVec.testBit_toNat]; simp [hi]
  rw [BitVec.getLsbD_or, BitVec.getLsbD_and, BitVec.getLsbD_and, BitVec.getLsbD_not, hmask, hb]
  split
  · rename_i h; simp [h]
  · rename_i h; simp [h, hi]

theorem pairOf_toNat (lo hi : Word) : (pairOf lo hi).toNat = un lo + 2 ^ 32 * un hi := by
  rw [pairOf, BitVec.toNat_append, ← Nat.shiftLeft_add_eq_or_of_lt lo.isLt, Nat.shiftLeft_eq, Nat.mul_comm, Nat.add_comm]; rfl

/-- One code byte of PRMT: the four modes of R108 on the same byte of the pool. -/
theorem prmtByte_eq (a b : Word) (g : Nat) : prmtByte (pairOf a b) g = codeByte a b g := by
  have hp : (pairOf a b).toNat / 2 ^ (8 * (g % 8)) % 256 = poolByte a b (g % 8) := by
    rw [pairOf_toNat, Nat.pow_mul]; rfl
  simp only [prmtByte, codeByte, hp, bit_eq_testBit]
  split <;> simp_all

theorem prmtOf_eq (a b sel : Word) : prmtOf a b sel = permute a b sel := by
  simp [prmtOf, permute, prmtByte_eq, bits, List.range_succ, un, Nat.mul_comm, Nat.add_assoc]

/-! ### Predicates as operands -/

theorem predOf_eq (ps : BitVec 7) (p : PReg) : predOf ps p = if p = 7#3 then true else ps.getLsbD p.toNat := by
  by_cases h : p = 7#3 <;> simp [predOf, h]

/-! ### 64-bit sums -/

/-- Adding a signed number to a 64-bit value (R103). -/
theorem toNat_add_ofInt (x : DWord) (z : Int) : (x + BitVec.ofInt 64 z).toNat = (((x.toNat : Int) + z) % 2 ^ 64).toNat := by
  have hx : x = BitVec.ofInt 64 x.toNat := by rw [BitVec.ofInt_natCast, BitVec.ofNat_toNat, BitVec.setWidth_eq]
  conv_lhs => rw [hx]
  rw [← BitVec.ofInt_add, BitVec.toNat_ofInt]; rfl

theorem extend_eq (sx : Bool) (b : Word) : extend sx b = BitVec.ofInt 64 (if sx then sg b else (un b : Int)) := by
  cases sx with
  | false => simp [extend, un, BitVec.ofInt_natCast, BitVec.ofNat_toNat]
  | true => simp only [if_true, sg_eq_toInt]; rfl

theorem extend_zx_toNat (b : Word) : (extend false b).toNat = un b := by
  have := b.isLt
  simp only [extend, un, Bool.false_eq_true, if_false, BitVec.toNat_setWidth]; omega

theorem extend_sx_toNat (b : Word) : (extend true b).toNat = (sg b % 2 ^ 64).toNat := by
  rw [extend_eq, BitVec.toNat_ofInt]; rfl

theorem readPair_add_toNat (x : Thread) (c : Crew) (a : Reg) (y : DWord) {n : Nat} (hy : y.toNat = n) :
    (readPair x c a + y).toNat = (pairNat (readReg x c) a + n) % 2 ^ 64 := by rw [BitVec.toNat_add, readPair_toNat, hy]

theorem readPair_add_sx_toNat (x : Thread) (c : Crew) (a : Reg) (w : Word) :
    (readPair x c a + extend true w).toNat = (((pairNat (readReg x c) a : Int) + sg w) % 2 ^ 64).toNat := by
  rw [extend_eq, toNat_add_ofInt, readPair_toNat, if_pos rfl]

theorem leaOf_toNat (sx : Bool) (sh : BitVec 3) (a : DWord) (b : Word) : (leaOf sx sh a b).toNat =
    (((a.toNat : Int) + (if sx then sg b else (un b : Int)) * 2 ^ sh.toNat) % 2 ^ 64).toNat := by
  have hshift : extend sx b <<< sh.toNat = BitVec.ofInt 64 ((if sx then sg b else (un b : Int)) * 2 ^ sh.toNat) := by
    have hpow : BitVec.twoPow 64 sh.toNat = BitVec.ofInt 64 (2 ^ sh.toNat) := by
      apply BitVec.eq_of_toNat_eq
      rw [BitVec.toNat_twoPow, BitVec.toNat_ofInt]; norm_cast
    rw [extend_eq, BitVec.shiftLeft_eq_mul_twoPow, hpow, BitVec.ofInt_mul]
  rw [leaOf, hshift, toNat_add_ofInt]

end Sys2Proof.Machine

section

open Sys2Proof Sys2Proof.Machine Sys2Proof.Spec

/-- Settles O3: every form is a lane-wise operation, and its value is the one of R103, R107, R108, R109, R112 and R113. -/
theorem fieldsMovesPairs : Obligations.FieldsMovesPairs := by
  unfold Obligations.FieldsMovesPairs
  intro i op h
  cases i with
  | bfx => exact Option.some.inj h ▸ runsAs_one (fun _ => rfl) fun _ _ => bfxOf_eq _ _ _
  | bfi => exact Option.some.inj h ▸ runsAs_one (fun _ => rfl) fun _ _ => bfiOf_eq _ _ _
  | prmt => exact Option.some.inj h ▸ runsAs_one (fun _ => rfl) fun _ _ => prmtOf_eq _ _ _
  | sel g T neg p d a b =>
    obtain rfl := Option.some.inj h
    exact runsAs_of_lane (f := fun x c => ⟨[(d, if predOf x.preds p != neg then readReg x c a else readReg x c b)], x.preds⟩)
      (fun _ => rfl) (fun _ _ => by simp) fun x c => by simp [predOf_eq]
  | mov g T b64 d a =>
    obtain rfl := Option.some.inj h
    cases b64 with
    | true => exact runsAs_pair (fun _ => rfl) fun x c => readPair_toNat x c a
    | false => exact runsAs_one (fun _ => rfl) fun _ _ => rfl
  | movi g m d imm =>
    obtain rfl := Option.some.inj h
    cases m with
    | w32 => exact runsAs_one (fun _ => rfl) fun _ _ => rfl
    | sx => exact runsAs_pair (fun _ => rfl) fun _ _ => extend_sx_toNat imm
    | zx => exact runsAs_pair (fun _ => rfl) fun _ _ => extend_zx_toNat imm
  | iadd64 g T m d a b =>
    obtain rfl := Option.some.inj h
    cases m with
    | pair => exact runsAs_pair (fun _ => rfl) fun x c => readPair_add_toNat x c a _ (readPair_toNat x c b)
    | zx => exact runsAs_pair (fun _ => rfl) fun x c => readPair_add_toNat x c a _ (extend_zx_toNat _)
    | sx => exact runsAs_pair (fun _ => rfl) fun x c => readPair_add_sx_toNat x c a _
  | iadd64Imm => exact Option.some.inj h ▸ runsAs_pair (fun _ => rfl) fun x c => readPair_add_sx_toNat x c _ _
  | lea => exact Option.some.inj h ▸ runsAs_pair (fun _ => rfl) fun x c => readPair_toNat x c _ ▸ leaOf_toNat _ _ _ _
  | _ => nomatch h

end

/-! Floating point (chapter 7): what an FP32 word decodes to beside its bits, and the statement on FP32 and packed arithmetic that follows. -/

namespace Sys2Proof.Machine

open Spec

/-! ### What a word decodes to (R18) -/

/-- A finite FP32 magnitude in units of the smallest one, 2^-149 (R18). -/
def quanta (mc : Nat) : Nat := if mc < 2 ^ 23 then mc else (2 ^ 23 + mc % 2 ^ 23) * 2 ^ (mc / 2 ^ 23 - 1)

/-- The sign bit of a word. -/
def negative (w : Word) : Bool := decide (2 ^ 31 ≤ un w)

theorem quanta_lt_succ (mc : Nat) : quanta mc < quanta (mc + 1) := by
  simp only [quanta]
  by_cases hsub : mc + 1 < 2 ^ 23
  · rw [if_pos hsub, if_pos (by omega)]; omega
  rw [if_neg hsub]
  by_cases hlast : mc < 2 ^ 23
  · obtain rfl : mc = 2 ^ 23 - 1 := by omega
    decide
  rw [if_neg hlast]
  have hpow := Nat.two_pow_pos (mc / 2 ^ 23 - 1)
  by_cases hc : (mc + 1) % 2 ^ 23 = 0
  · have hE : (mc + 1) / 2 ^ 23 - 1 = mc / 2 ^ 23 - 1 + 1 := by omega
    rw [hc, hE, Nat.pow_succ' (n := mc / 2 ^ 23 - 1), ← Nat.mul_assoc]
    exact Nat.mul_lt_mul_of_pos_right (by omega) hpow
  · have hE : (mc + 1) / 2 ^ 23 = mc / 2 ^ 23 := by omega
    rw [hE]
    exact Nat.mul_lt_mul_of_pos_right (by omega) hpow

theorem quanta_strictMono : StrictMono quanta := strictMono_nat_of_lt_succ quanta_lt_succ

theorem quanta_eq_zero_iff (mc : Nat) : quanta mc = 0 ↔ mc = 0 := quanta_strictMono.injective.eq_iff' rfl

theorem quanta_lt_of_finite {mc : Nat} (h : mc < 0x7F800000) : quanta mc < 2 ^ 23 * 2 ^ 254 :=
  quanta_strictMono h

/-- A power of two times a number, as the fraction that decoding gives, in units of 2^-149. -/
theorem scaled_spec (neg : Bool) (m : Nat) {k : Nat} : ∃ n d, scaled neg m ((k : Int) - 149) = .fin neg n d ∧ 0 < d ∧
    n * 2 ^ 149 = m * 2 ^ k * d := by
  unfold scaled
  split
  · refine ⟨_, _, rfl, Nat.one_pos, ?_⟩
    rw [Nat.mul_assoc, ← Nat.pow_add, Nat.mul_one]; congr 2; omega
  · refine ⟨_, _, rfl, Nat.two_pow_pos _, ?_⟩
    rw [Nat.mul_assoc, ← Nat.pow_add]; congr 2; omega

theorem magValue_fp32 (neg : Bool) (mc : Nat) : ∃ n d, magValue fp32 neg mc = .fin neg n d ∧ 0 < d ∧
    n * 2 ^ 149 = quanta mc * d := by
  by_cases hsub : mc < 2 ^ 23
  · have hv : magValue fp32 neg mc = scaled neg mc ((0 : Nat) - 149) :=
      if_pos (Nat.div_eq_of_lt hsub)
    rw [hv, quanta, if_pos hsub]
    simpa using scaled_spec neg mc (k := 0)
  · have hv : magValue fp32 neg mc = scaled neg (2 ^ 23 + mc % 2 ^ 23) ((mc / 2 ^ 23 - 1 : Nat) - 149) := by
      have hE : mc / 2 ^ 23 ≠ 0 := by omega
      refine (if_neg hE).trans (congrArg (scaled neg _) ?_)
      show ((mc / 2 ^ 23 : Nat) : Int) - 127 - (23 : Nat) = _
      omega
    rw [hv, quanta, if_neg hsub]
    exact scaled_spec neg _

/-- What a word decodes to (R18): NaN, an infinity, or a number that is `quanta` of its magnitude times 2^-149. -/
theorem dec32_cases (w : Word) :
    (dec32 w = .nan ∧ 0x7F800000 < mag w) ∨ (dec32 w = .inf (negative w) ∧ mag w = 0x7F800000) ∨
    (mag w < 0x7F800000 ∧ ∃ n d, dec32 w = .fin (negative w) n d ∧ 0 < d ∧ n * 2 ^ 149 = quanta (mag w) * d) := by
  have hneg : bit 31 w.toNat = negative w := by
    have := w.isLt
    simp only [bit, negative, un, beq_eq_decide]
    exact decide_eq_decide.2 (by omega)
  have hdec : dec32 w = if some 0x7F800000 = some (mag w) then .inf (bit 31 w.toNat) else if 0x7F7FFFFF < mag w then .nan
      else magValue fp32 (bit 31 w.toNat) (mag w) := rfl
  rw [hdec, hneg]
  simp only [Option.some.injEq]
  rcases lt_trichotomy (mag w) 0x7F800000 with h | h | h
  · rw [if_neg (by omega), if_neg (by omega)]
    exact .inr (.inr ⟨h, magValue_fp32 _ _⟩)
  · rw [if_pos h.symm]; exact .inr (.inl ⟨rfl, h⟩)
  · rw [if_neg (by omega), if_pos (by omega)]; exact .inl ⟨rfl, h⟩

/-! ### The order of decoded values -/

/-- One of the operands is NaN (R133). -/
def unordered (a b : Word) : Bool := decide (0x7F800000 < mag a) || decide (0x7F800000 < mag b)

/-- A number with a sign. -/
def signed (neg : Bool) (n : Nat) : Int := (if neg then -1 else 1) * (n : Int)

theorem rank_eq_signed (w : Word) : rank w = signed (negative w) (mag w) := by
  by_cases h : un w < 2 ^ 31
  · rw [rank, if_pos h, negative, decide_eq_false (not_le.2 h)]; simp [signed]
  · rw [rank, if_neg h, negative, decide_eq_true (not_lt.1 h)]; simp [signed]

theorem signed_quanta_lt_iff (s t : Bool) (m n : Nat) : signed s (quanta m) < signed t (quanta n) ↔ signed s m < signed t n := by
  have hlt := quanta_strictMono.lt_iff_lt (a := m) (b := n)
  have hgt := quanta_strictMono.lt_iff_lt (a := n) (b := m)
  have hm := quanta_eq_zero_iff m
  have hn := quanta_eq_zero_iff n
  cases s <;> cases t <;> simp only [signed, Bool.false_eq_true, if_true, if_false] <;> omega

/-- Fractions of positive denominators compare as their values in a common unit. -/
theorem cross_lt_iff {x y X Y : Int} {d e u : Nat} (hd : 0 < d) (he : 0 < e) (hu : 0 < u) (hx : x * u = X * d) (hy : y * u = Y * e) :
    x * e < y * d ↔ X < Y := by
  have hu' : (0 : Int) < u := by exact_mod_cast hu
  have hde : (0 : Int) < d * e := by exact_mod_cast Nat.mul_pos hd he
  calc x * e < y * d ↔ x * e * u < y * d * u := (Int.mul_lt_mul_right hu').symm
    _ ↔ X * (d * e) < Y * (d * e) := by
      rw [show x * e * u = X * (d * e) by rw [mul_right_comm, hx]; ring, show y * d * u = Y * (d * e) by rw [mul_right_comm, hy]; ring]
    _ ↔ X < Y := Int.mul_lt_mul_right hde

theorem signed_mul (s : Bool) (n m : Nat) : signed s (n * m) = signed s n * m := by
  simp only [signed, Nat.cast_mul, mul_assoc]

theorem isNan_dec32 (w : Word) : (dec32 w).isNan = decide (0x7F800000 < mag w) := by
  rcases dec32_cases w with ⟨hv, hm⟩ | ⟨hv, hm⟩ | ⟨hm, n, d, hv, -, -⟩
  · rw [hv, decide_eq_true hm]; rfl
  · rw [hv, decide_eq_false hm.not_gt]; rfl
  · rw [hv, decide_eq_false hm.le.not_gt]; rfl

theorem isNeg_dec32 {w : Word} (h : ¬ 0x7F800000 < mag w) : (dec32 w).isNeg = negative w := by
  rcases dec32_cases w with ⟨hv, hm⟩ | ⟨hv, hm⟩ | ⟨hm, n, d, hv, -, -⟩
  · exact absurd hm h
  · rw [hv]; rfl
  · rw [hv]; rfl

theorem lt_dec32_of_ordered {a b : Word} (ha : ¬ 0x7F800000 < mag a) (hb : ¬ 0x7F800000 < mag b) :
    FVal.lt (dec32 a) (dec32 b) = decide (rank a < rank b) := by
  rw [rank_eq_signed, rank_eq_signed]
  rcases dec32_cases a with ⟨-, hm⟩ | ⟨hv, hm⟩ | ⟨hm, n, d, hv, hd, hn⟩
  · exact absurd hm ha
  · rcases dec32_cases b with ⟨-, hm'⟩ | ⟨hv', hm'⟩ | ⟨hm', n', d', hv', hd', hn'⟩
    · exact absurd hm' hb
    · rw [hv, hv', hm, hm']
      cases negative a <;> cases negative b <;> rfl
    · rw [hv, hv', hm]
      cases negative a <;> cases negative b <;> simp [signed, FVal.lt] <;> omega
  · rcases dec32_cases b with ⟨-, hm'⟩ | ⟨hv', hm'⟩ | ⟨hm', n', d', hv', hd', hn'⟩
    · exact absurd hm' hb
    · rw [hv, hv', hm']
      cases negative a <;> cases negative b <;> simp [signed, FVal.lt] <;> omega
    · rw [hv, hv']
      refine decide_eq_decide.2 (Iff.trans ?_ (signed_quanta_lt_iff _ _ _ _))
      show signed _ (n * d') < signed _ (n' * d) ↔ _
      rw [signed_mul, signed_mul]
      refine cross_lt_iff hd hd' (Nat.two_pow_pos 149) ?_ ?_
      · rw [← signed_mul, hn, signed_mul]
      · rw [← signed_mul, hn', signed_mul]

theorem dec32_of_nan {w : Word} (h : 0x7F800000 < mag w) : dec32 w = .nan := by
  rcases dec32_cases w with ⟨hv, -⟩ | ⟨-, hm⟩ | ⟨hm, -⟩
  · exact hv
  · omega
  · omega

theorem lt_nan_right (x : FVal) : FVal.lt x .nan = false := by cases x <;> rfl

theorem lt_dec32 (a b : Word) : FVal.lt (dec32 a) (dec32 b) = (!unordered a b && decide (rank a < rank b)) := by
  by_cases ha : 0x7F800000 < mag a
  · simp [dec32_of_nan ha, unordered, ha, FVal.lt]
  by_cases hb : 0x7F800000 < mag b
  · simp [dec32_of_nan hb, unordered, hb, lt_nan_right]
  · simp [lt_dec32_of_ordered ha hb, unordered, not_lt.1 ha, not_lt.1 hb]

theorem unordered_comm (a b : Word) : unordered a b = unordered b a := Bool.or_comm _ _

theorem eqv_dec32 (a b : Word) : FVal.eqv (dec32 a) (dec32 b) = (!unordered a b && decide (rank a = rank b)) := by
  have hnan : (!(dec32 a).isNan && !(dec32 b).isNan) = !unordered a b := by
    rw [isNan_dec32, isNan_dec32, ← Bool.not_or]; rfl
  have heq : rank a = rank b ↔ ¬ rank a < rank b ∧ ¬ rank b < rank a := by omega
  rw [FVal.eqv, hnan, lt_dec32, lt_dec32, unordered_comm b a]
  simp only [heq, Bool.decide_and, decide_not]
  cases unordered a b <;> rfl

/-! ### Comparison, minimum, maximum and class -/

theorem fcmp_eq (m : FCmp) (a b : Word) : fcmp m (dec32 a) (dec32 b) = fpCompared m a b := by
  have hnan : ((dec32 a).isNan || (dec32 b).isNan) = unordered a b := by rw [isNan_dec32, isNan_dec32]; rfl
  have hspec : (decide (0x7F800000 < mag a) || decide (0x7F800000 < mag b)) = unordered a b := rfl
  cases m <;> simp only [fcmp, fpCompared, hnan, hspec, eqv_dec32, lt_dec32, unordered_comm b a]
  case ne => simp
  case le => rw [← Bool.and_or_distrib_left, ← Bool.decide_or]; simp only [← le_iff_lt_or_eq]
  case ge => rw [← Bool.and_or_distrib_left, ← Bool.decide_or]; simp only [← le_iff_lt_or_eq, eq_comm (a := rank a)]

/-- R132: a lies below b when its value is less, or the two are zeros and only a has the sign. -/
theorem key_lt_iff (a b : Word) : key a < key b ↔ rank a < rank b ∨ (rank a = rank b ∧ negative a = true) ∧ negative b = false := by
  simp only [key, rank, negative, decide_eq_true_eq, decide_eq_false_iff_not]
  split <;> split <;> omega

/-- A word is fixed by its place in the order of R132. -/
theorem key_injective : Function.Injective key := by
  intro a b h
  have ha : un a < 2 ^ 32 := a.isLt
  have hb : un b < 2 ^ 32 := b.isLt
  refine BitVec.eq_of_toNat_eq (show un a = un b from ?_)
  by_cases hna : un a < 2 ^ 31 <;> by_cases hnb : un b < 2 ^ 31 <;>
    simp only [key, hna, hnb, if_true, if_false, mag] at h <;> omega

/-- One of two operands, of which neither is NaN, lies below the other as R132 orders them. -/
theorem below_dec32 {a b : Word} (ha : ¬ 0x7F800000 < mag a) (hb : ¬ 0x7F800000 < mag b) :
    (FVal.lt (dec32 a) (dec32 b) || (FVal.eqv (dec32 a) (dec32 b) && (dec32 a).isNeg && !(dec32 b).isNeg)) = decide (key a < key b) := by
  have hord : unordered a b = false := by simp [unordered, not_lt.1 ha, not_lt.1 hb]
  rw [lt_dec32, eqv_dec32, isNeg_dec32 ha, isNeg_dec32 hb, hord, Bool.eq_iff_iff]
  simp [key_lt_iff]

theorem minMaxCode_fp32 (isMin : Bool) (a b : Word) : BitVec.ofNat 32 (minMaxCode fp32 isMin a.toNat b.toNat) =
    if 0x7F800000 < mag a then (if 0x7F800000 < mag b then qNaN else b) else if 0x7F800000 < mag b then a
    else if decide (key a < key b) = isMin then a else b := by
  have hdef : minMaxCode fp32 isMin a.toNat b.toNat = if (dec32 a).isNan && (dec32 b).isNan then un qNaN
      else if (dec32 a).isNan then un b else if (dec32 b).isNan then un a
      else if (FVal.lt (dec32 a) (dec32 b) || (FVal.eqv (dec32 a) (dec32 b) && (dec32 a).isNeg && !(dec32 b).isNeg)) == isMin then un a
      else un b := rfl
  simp only [hdef, isNan_dec32, Bool.and_eq_true, decide_eq_true_eq, beq_iff_eq]
  by_cases ha : 0x7F800000 < mag a <;> by_cases hb : 0x7F800000 < mag b
  · simp only [ha, hb, and_self, if_true, ofNat_un]
  · simp only [ha, hb, and_false, if_true, if_false, ofNat_un]
  · simp only [ha, hb, false_and, if_true, if_false, ofNat_un]
  · simp only [ha, hb, false_and, if_false, below_dec32 ha hb, apply_ite (BitVec.ofNat 32), ofNat_un]

theorem fminOf_eq (a b : Word) : fminOf a b = fpLower a b := by
  have hmin : (if decide (key a < key b) = true then a else b) = if key b < key a then b else a := by
    rcases lt_trichotomy (key a) (key b) with h | h | h
    · simp [h, h.le]
    · simp [key_injective h]
    · simp [h, h.le]
  rw [fminOf, minMaxCode_fp32, hmin, fpLower]

theorem fmaxOf_eq (a b : Word) : fmaxOf a b = fpHigher a b := by
  rw [fmaxOf, minMaxCode_fp32, fpHigher]
  simp only [decide_eq_false_iff_not, ite_not]

theorem num_eq_zero_iff {n d mc : Nat} (hd : 0 < d) (hn : n * 2 ^ 149 = quanta mc * d) : n = 0 ↔ mc = 0 := by
  rw [← quanta_eq_zero_iff mc]
  have hpow := Nat.two_pow_pos 149
  constructor <;> intro h <;> rw [h, Nat.zero_mul] at hn
  · exact (Nat.mul_eq_zero.1 hn.symm).resolve_right hd.ne'
  · exact (Nat.mul_eq_zero.1 hn).resolve_right hpow.ne'

theorem fclassOf_eq (a : Word) : fclassOf a = BitVec.ofNat 32 (2 ^ fpClass a) := by
  have hsub : bits 30 23 a.toNat = 0 ↔ mag a < 2 ^ 23 := by simp only [bits, mag, un]; omega
  have hspec : decide (2 ^ 31 ≤ un a) = negative a := rfl
  simp only [fclassOf, fpClass, hsub, hspec]
  rcases dec32_cases a with ⟨hv, hm⟩ | ⟨hv, hm⟩ | ⟨hm, n, d, hv, hd, hn⟩
  · rw [hv, if_pos hm]; rfl
  · rw [hv, if_neg (by omega), if_pos hm]
    cases negative a <;> rfl
  · rw [hv, if_neg (by omega), if_neg (by omega)]
    simp only [num_eq_zero_iff hd hn, decide_eq_true_eq]
    rcases Nat.eq_zero_or_pos (mag a) with h0 | h0
    · rw [if_pos h0, h0]
      cases negative a <;> rfl
    by_cases hlt : mag a < 2 ^ 23
    · rw [if_neg h0.ne', if_pos hlt, if_neg (not_le.2 hlt), if_pos h0]
      cases negative a <;> rfl
    · rw [if_neg h0.ne', if_neg hlt, if_pos (not_lt.1 hlt)]
      cases negative a <;> rfl

/-! ### Predicate destinations (R53) -/

/-- Writing a predicate changes its bit and no other; a number above 6 names none. -/
theorem getLsbD_setPred (p : BitVec 7) (n : Nat) (b : Bool) {i : Nat} (hi : i < 7) :
    (setPred p n b).getLsbD i = if i = n then b else p.getLsbD i := by
  have hbit : (1#7 <<< n).getLsbD i = decide (i = n) := by
    rw [BitVec.getLsbD_shiftLeft, BitVec.getLsbD_one]
    simp only [hi, decide_true, Bool.true_and, ← decide_not, ← Bool.decide_and]
    exact decide_eq_decide.2 (by omega)
  cases b with
  | false =>
    rw [setPred, if_neg Bool.false_ne_true, BitVec.getLsbD_and, BitVec.getLsbD_not, hbit]
    by_cases h : i = n <;> simp [hi, h]
  | true =>
    rw [setPred, if_pos rfl, BitVec.getLsbD_or, hbit]
    by_cases h : i = n <;> simp [h]

theorem setPred_eq (p : BitVec 7) (n : Nat) (b : Bool) :
    setPred p n b = BitVec.ofNat 7 (fromBits 7 fun i => if i = n then b else p.getLsbD i) := by
  apply BitVec.eq_of_getLsbD_eq
  intro i hi
  rw [getLsbD_setPred p n b hi, BitVec.getLsbD_ofNat, testBit_fromBits, decide_eq_true hi, Bool.true_and, Bool.true_and]

/-- A predicate destination: what is left to show is its truth, as a function of the operands read and the lane's predicates. -/
theorem runsAs_pred {i : Instr} {g : Guard} {d : Reg} {src : List Reg} {f : Thread → Crew → Bool} {F : (Reg → Word) → BitVec 7 → Bool}
    (he : ∀ s, exec i s = .next (s.predOp g d src f)) (hf : ∀ x c, f x c = F (readReg x c) x.preds) : RunsAs i (pred g d src F) :=
  runsAs_of_lane (f := fun x c => ⟨[], setPred x.preds d.toNat (f x c)⟩) he (fun _ _ => by simp) fun x c => by
    rw [setPred_eq, hf]; rfl

/-! ### FSCALE: counts beyond the reach of the format (R26, R27, R135) -/

theorem log2_add_le {n d t : Nat} (hd : 0 < d) (h : d * 2 ^ t ≤ n) : d.log2 + t ≤ n.log2 := by
  have hn : n ≠ 0 := (lt_of_lt_of_le (Nat.mul_pos hd (Nat.two_pow_pos _)) h).ne'
  rw [Nat.le_log2 hn, Nat.pow_add]
  exact (Nat.mul_le_mul_right _ (Nat.log2_self_le hd.ne')).trans h

/-- The logarithm of a quotient is the difference of the logarithms, or one less. -/
theorem floorLog2_bounds (n d : Nat) :
    (n.log2 : Int) - d.log2 - 1 ≤ floorLog2 n d ∧ floorLog2 n d ≤ (n.log2 : Int) - d.log2 := by
  unfold floorLog2
  dsimp only
  split <;> split <;> omega

/-- From 2^130 on, a value lies beyond the largest finite number of FP32. -/
theorem roundCode_fp32_of_large (r : Rnd) (neg : Bool) {n d : Nat} (hd : 0 < d) (h : d * 2 ^ 130 ≤ n) :
    fp32.maxCode < roundCode fp32 r 0 neg n d := by
  have hlog := log2_add_le hd h
  have he := (floorLog2_bounds n d).1
  have hcode : (max (floorLog2 n d) (-126) - -126).toNat * 2 ^ 23 ≤ roundCode fp32 r 0 neg n d := Nat.le_add_left _ _
  have hmax : fp32.maxCode = 0x7F7FFFFF := rfl
  omega

/-- With no quantum kept, a fraction below 2^-32 goes up in the modes that round away from zero, and in no other. -/
theorem roundsUp_of_tiny (r : Rnd) (neg : Bool) {rem den : Nat} (hpos : 0 < rem) (h : rem * 2 ^ 32 < den) :
    roundsUp r neg 0 0 rem den = (r == .rup && !neg || r == .rdn && neg) := by
  cases r with
  | rne =>
    have hbelow : ¬ den < 2 * rem := by omega
    simp [roundsUp, hbelow]
  | rtz => rfl
  | rup => simp [roundsUp, hpos]
  | rdn => simp [roundsUp, hpos]
  | sr => rw [roundsUp, Nat.div_eq_of_lt h]; rfl

/-- Below 2^-181 a value keeps no quantum, and only the modes that round away from zero make it the smallest number. -/
theorem roundCode_fp32_of_tiny (r : Rnd) (neg : Bool) {n d : Nat} (hn : 0 < n) (h : n * 2 ^ 149 * 2 ^ 32 < d) :
    roundCode fp32 r 0 neg n d = if r == .rup && !neg || r == .rdn && neg then 1 else 0 := by
  have hlog : n.log2 + (149 + 32) ≤ d.log2 := log2_add_le hn (by rw [Nat.pow_add, ← Nat.mul_assoc]; exact h.le)
  have he : max (floorLog2 n d) (1 - fp32.bias) = -126 := by
    have hle := (floorLog2_bounds n d).2
    exact max_eq_right (show floorLog2 n d ≤ -126 by omega)
  have hunits : inUnits n d (-126 - (fp32.p - 1 : Nat)) = (n * 2 ^ 149, d) := rfl
  have hlt : n * 2 ^ 149 < d := lt_of_le_of_lt (Nat.le_mul_of_pos_right _ (Nat.two_pow_pos 32)) h
  have hpos : 0 < n * 2 ^ 149 := Nat.mul_pos hn (Nat.two_pow_pos 149)
  simp only [roundCode, he, hunits, Nat.div_eq_of_lt hlt, Nat.mod_eq_of_lt hlt, roundsUp_of_tiny r neg hpos h]
  rfl

/-- Two numbers of one sign that round to the same code, or both beyond the largest finite number, convert alike (R27). -/
theorem to32_fin_congr (r : Rnd) (neg : Bool) {n d n' d' : Nat} (hn : 0 < n) (hn' : 0 < n')
    (h : roundCode fp32 r 0 neg n d = roundCode fp32 r 0 neg n' d' ∨
      fp32.maxCode < roundCode fp32 r 0 neg n d ∧ fp32.maxCode < roundCode fp32 r 0 neg n' d') :
    to32 r (.fin neg n d) = to32 r (.fin neg n' d') := by
  simp only [to32, convert, if_neg hn.ne', if_neg hn'.ne']
  rcases h with h | ⟨h, h'⟩
  · rw [h]
  · have hz := Nat.zero_lt_of_lt h
    have hz' := Nat.zero_lt_of_lt h'
    simp only [if_neg hz.ne', if_neg hz'.ne', if_pos h, if_pos h']

theorem two_pow_mul_le {u v j : Nat} (h : u + v ≤ j) : 2 ^ u * 2 ^ v ≤ 2 ^ j :=
  (Nat.pow_add 2 u v).symm.trans_le (Nat.pow_le_pow_right Nat.two_pos h)

/-- A number times 2^k (R135). -/
def timesPow (neg : Bool) (n d : Nat) (k : Int) : FVal := if 0 ≤ k then .fin neg (n * 2 ^ k.toNat) d else .fin neg n (d * 2 ^ (-k).toNat)

/-- The count of FSCALE may be cut to 1000 either way: beyond, every value of a word overflows or is tiny. -/
theorem to32_timesPow_clamp (r : Rnd) (neg : Bool) {n d mc : Nat} (hmc : mc < 0x7F800000) (hn0 : n ≠ 0) (hd : 0 < d)
    (hn : n * 2 ^ 149 = quanta mc * d) (k : Int) :
    to32 r (timesPow neg n d (max (min k 1000) (-1000))) = to32 r (timesPow neg n d k) := by
  have hpos := Nat.pos_of_ne_zero hn0
  have hq : 0 < quanta mc := Nat.pos_of_ne_zero fun h => hn0 ((num_eq_zero_iff hd hn).2 ((quanta_eq_zero_iff mc).1 h))
  have hlarge (j : Nat) (hj : 149 + 130 ≤ j) : fp32.maxCode < roundCode fp32 r 0 neg (n * 2 ^ j) d := by
    refine roundCode_fp32_of_large r neg hd ?_
    calc d * 2 ^ 130 ≤ quanta mc * d * 2 ^ 130 := Nat.mul_le_mul_right _ (Nat.le_mul_of_pos_left _ hq)
      _ = n * (2 ^ 149 * 2 ^ 130) := by rw [← hn, Nat.mul_assoc]
      _ ≤ n * 2 ^ j := Nat.mul_le_mul_left _ (two_pow_mul_le hj)
  have htiny (j : Nat) (hj : 23 + 254 + 32 ≤ j) :
      roundCode fp32 r 0 neg n (d * 2 ^ j) = if r == .rup && !neg || r == .rdn && neg then 1 else 0 := by
    refine roundCode_fp32_of_tiny r neg hpos ?_
    calc n * 2 ^ 149 * 2 ^ 32 = quanta mc * 2 ^ 32 * d := by rw [hn, Nat.mul_right_comm]
      _ < 2 ^ 23 * 2 ^ 254 * 2 ^ 32 * d :=
        Nat.mul_lt_mul_of_pos_right (Nat.mul_lt_mul_of_pos_right (quanta_lt_of_finite hmc) (Nat.two_pow_pos _)) hd
      _ = d * (2 ^ (23 + 254) * 2 ^ 32) := by rw [Nat.pow_add, Nat.mul_comm]
      _ ≤ d * 2 ^ j := Nat.mul_le_mul_left _ (two_pow_mul_le hj)
  rcases lt_or_ge 1000 k with hk | hk
  · rw [show max (min k 1000) (-1000) = 1000 by omega, timesPow, timesPow, if_pos (by decide), if_pos (by omega)]
    exact to32_fin_congr r neg (Nat.mul_pos hpos (Nat.two_pow_pos _)) (Nat.mul_pos hpos (Nat.two_pow_pos _))
      (.inr ⟨hlarge _ (by decide), hlarge _ (by omega)⟩)
  rcases lt_or_ge k (-1000) with hk' | hk'
  · rw [show max (min k 1000) (-1000) = -1000 by omega, timesPow, timesPow, if_neg (by decide), if_neg (by omega)]
    exact to32_fin_congr r neg hpos hpos (.inl ((htiny _ (by decide)).trans (htiny _ (by omega)).symm))
  · rw [show max (min k 1000) (-1000) = k by omega]

theorem fscaleOf_eq (r : Rnd) (a b : Word) : fscaleOf r a b = match dec32 a with
    | .nan => qNaN
    | .inf _ => a
    | .fin neg n m => if n = 0 then a else to32 r (timesPow neg n m (sg b)) := by
  rw [fscaleOf]
  rcases dec32_cases a with ⟨hv, -⟩ | ⟨hv, -⟩ | ⟨hm, n, d, hv, hd, hn⟩
  · rw [hv]; rfl
  · rw [hv]
  · rw [hv, sg_eq_toInt]
    by_cases h0 : n = 0
    · exact (if_pos h0).trans (if_pos h0).symm
    · exact (if_neg h0).trans ((to32_timesPow_clamp r _ hm h0 hd hn _).trans (if_neg h0).symm)

end Sys2Proof.Machine

section

open Sys2Proof Sys2Proof.Machine Sys2Proof.Spec

/-- Settles O5: every form is a lane-wise operation, and its value is the one of R130 to R136. -/
theorem floatArithmetic : Obligations.FloatArithmetic := by
  unfold Obligations.FloatArithmetic
  intro i op h
  cases i with
  | fadd | fsub | fmul | ffma | frnd | hadd2 | hmul2 | hfma2 => exact Option.some.inj h ▸ runsAs_one (fun _ => rfl) fun _ _ => rfl
  | fmin => exact Option.some.inj h ▸ runsAs_one (fun _ => rfl) fun _ _ => fminOf_eq _ _
  | fmax => exact Option.some.inj h ▸ runsAs_one (fun _ => rfl) fun _ _ => fmaxOf_eq _ _
  | fclass => exact Option.some.inj h ▸ runsAs_one (fun _ => rfl) fun _ _ => fclassOf_eq _
  | fscale => exact Option.some.inj h ▸ runsAs_one (fun _ => rfl) fun _ _ => fscaleOf_eq _ _ _
  | fset => exact Option.some.inj h ▸ runsAs_pred (fun _ => rfl) fun _ _ => fcmp_eq _ _ _
  | _ => nomatch h

end

/-! Cross-lane instructions (R167 to R172): the value each gives a participant, and the statement that follows. -/

namespace Sys2Proof.Machine

open Spec

/-! ### An instruction whose lanes compute from the operands of all participants -/

/-- What other lanes would write, and with which crew a lane would read, does not matter. -/
theorem regsWritten_congr_on {s s' : State} {sl : IssueSlot} {t : Team} {A : Thread → Prop} {T : Bool} {ws ws' : Thread → Crew → List (Reg × Word)}
    {p p' : Thread → Crew → BitVec 7} (h : RegsWritten s s' sl t A T ws p) (hw : ∀ x, A x → ws x (t.crewOf x) = ws' x (t.crewOf x))
    (hp : ∀ x, A x → p x (t.crewOf x) = p' x (t.crewOf x)) : RegsWritten s s' sl t A T ws' p' := by
  obtain ⟨hmach, hothers, t', ht', hteam, hnoThread, hnoCrew, hthread, hcrew⟩ := h
  refine ⟨hmach, hothers, t', ht', hteam, hnoThread, hnoCrew, fun tid x hx => ?_, fun n c hc => ?_⟩
  · obtain ⟨x', hx', hact, hrest⟩ := hthread tid x hx
    exact ⟨x', hx', fun ha => hw x ha ▸ hp x ha ▸ hact ha, hrest⟩
  · obtain ⟨c', hc', hlow, hrest⟩ := hcrew n c hc
    refine ⟨c', hc', fun x ⟨hact, hn, hleast⟩ => ?_, hrest⟩
    have hwx := hw x hact
    rw [crewOf_eq (hn ▸ hc)] at hwx
    exact hwx ▸ hlow x ⟨hact, hn, hleast⟩

/-- The instruction is a lane-wise operation that gives each participant what `op` says, whoever the participants are. -/
def IsCrewOp (i : Instr) (op : CrewOp) : Prop := ∃ f : List Thread → Team → Thread → Crew → LaneOut,
  (∀ s, exec i s = .next (s.crewOp op.g op.T op.codes f)) ∧ (∀ ps t x c, ((f ps t x c).regs.map Prod.fst).Nodup) ∧
    ∀ ps t x, x ∈ ps → f ps t x (t.crewOf x) = ⟨op.ws ps t x, op.preds ps t x⟩

/-- One destination register: what is left to show is a participant's value. -/
theorem isCrewOp_one {i : Instr} {g : Guard} {T : Bool} {codes : List Reg} {d : Reg} {v : List Thread → Team → Thread → Crew → Word}
    {V : List Thread → Team → Thread → Word} (he : ∀ s, exec i s = .next (s.crewOp g T codes fun ps t x c => ⟨[(d, v ps t x c)], x.preds⟩))
    (hv : ∀ ps t x, x ∈ ps → v ps t x (t.crewOf x) = V ps t x) :
    IsCrewOp i ⟨g, T, codes, fun ps t x => [(d, V ps t x)], fun _ _ x => x.preds⟩ :=
  ⟨_, he, fun _ _ _ _ => List.nodup_singleton _, fun ps t x hx => by rw [hv ps t x hx]⟩

/-- A predicate destination: what is left to show is its truth. -/
theorem isCrewOp_pred {i : Instr} {g : Guard} {T : Bool} {codes : List Reg} {d : Reg} {v V : List Thread → Team → Thread → Bool}
    (he : ∀ s, exec i s = .next (s.crewOp g T codes fun ps t x _ => ⟨[], setPred x.preds d.toNat (v ps t x)⟩))
    (hv : ∀ ps t x, v ps t x = V ps t x) :
    IsCrewOp i ⟨g, T, codes, fun _ _ _ => [], fun ps t x => withPred x.preds d (V ps t x)⟩ :=
  ⟨_, he, fun _ _ _ _ => List.nodup_nil, fun ps t x _ => by rw [hv, setPred_eq]; rfl⟩

theorem able_of_hold {t : Team} {sl : IssueSlot} {g : Guard} {codes : List Reg} (hold : AllHold t sl g codes) :
    t.able sl g codes = lanesOf t sl g :=
  List.filter_eq_self.2 fun x hx => by rw [missing_none (hold x (mem_active.1 hx))]; rfl

theorem crewOp_eq {s : State} {sl : IssueSlot} {t : Team} {g : Guard} {T : Bool} {codes : List Reg}
    {f : List Thread → Team → Thread → Crew → LaneOut} (h : Issuing s sl t) :
    s.crewOp g T codes f = s.laneOp g T codes (f (t.able sl g codes) t) := by
  simp only [State.crewOp, h.slot, h.team]

/-- A group whose lanes hold their operands: the participants are its active lanes. -/
theorem IsCrewOp.regsWritten {i : Instr} {op : CrewOp} (hop : IsCrewOp i op) {s : State} {sl : IssueSlot} {t : Team} (h : Issuing s sl t)
    (hold : AllHold t sl op.g op.codes) : ∃ s', exec i s = .next s' ∧ RegsWritten s s' sl t (Active t sl op.g) op.T
      (fun x _ => op.ws (lanesOf t sl op.g) t x) (fun x _ => op.preds (lanesOf t sl op.g) t x) := by
  obtain ⟨f, he, hnd, hf⟩ := hop
  refine ⟨_, he s, ?_⟩
  rw [crewOp_eq h, able_of_hold hold]
  have hlane : ∀ x, Active t sl op.g x → f (lanesOf t sl op.g) t x (t.crewOf x) = _ := fun x hx => hf _ t x (mem_active.2 hx)
  exact regsWritten_congr_on (laneOp_spec h hold (hnd _ t)) (fun x hx => by rw [hlane x hx]) fun x hx => by rw [hlane x hx]

/-! ### SHFL (R168) -/

theorem shflSource_eq (m : ShflMode) (w j x : Nat) : shflSource m w j x = shuffled m w j x := by
  have hbase : j - j % w = j / w * w := by rw [Nat.mul_comm, Nat.sub_eq_iff_eq_add (Nat.mod_le j w), Nat.div_add_mod]
  cases m <;> simp only [shflSource, shuffled, hbase]

/-! ### VOTE (R169) -/

theorem srcOf_eq (x : Thread) (q : PSrc) : srcOf x.preds q = srcTrue x q := by rw [srcOf, predOf_eq]; rfl

/-- Gathering lanes into a mask sets the bits of these lanes. -/
theorem testBit_foldl_or_lane (ps : List Thread) (m j : Nat) :
    (ps.foldl (fun m x => m ||| 2 ^ x.lane) m).testBit j = (m.testBit j || ps.any fun x => x.lane == j) := by
  induction ps generalizing m with
  | nil => simp
  | cons x ps ih => rw [List.foldl_cons, ih, Nat.testBit_or, Nat.testBit_two_pow, List.any_cons, Bool.or_assoc]; rfl

theorem testBit_voteMask (ps : List Thread) (q : PSrc) (j : Nat) : (voteMask ps q).testBit j = ballot ps q j := by
  simp only [voteMask, testBit_foldl_or_lane, Nat.zero_testBit, Bool.false_or, List.any_filter, srcOf_eq, ballot, Bool.and_comm]

theorem voteMask_eq_ofBits32 (ps : List Thread) (q : PSrc) : BitVec.ofNat 32 (voteMask ps q) = ofBits32 (ballot ps q) :=
  eq_ofBits32 fun i hi => by rw [BitVec.getLsbD_ofNat, testBit_voteMask, decide_eq_true hi, Bool.true_and]

theorem popFrom_voteMask (ps : List Thread) (q : PSrc) : popFrom (voteMask ps q) 32 = ballots ps q := by
  simp only [popFrom_eq, testBit_voteMask, ballots]

/-! ### MATCH (R170) -/

/-- The value that MATCH compares. -/
def matchKey (b64 : Bool) (a : Reg) (y : Thread) (c : Crew) : DWord := if b64 then readPair y c a else (readReg y c a).setWidth 64

theorem matchKey_toNat (b64 : Bool) (a : Reg) (t : Team) (y : Thread) :
    (matchKey b64 a y (t.crewOf y)).toNat = if b64 then rd64 t y a else un (rd t y a) := by
  cases b64 with
  | false => exact BitVec.toNat_setWidth_of_le (show 32 ≤ 64 by decide)
  | true => exact readPair_toNat _ _ _

theorem lane_lowestLane (l : List Thread) : (lowestLane l).map (·.lane) = (l.map (·.lane)).min? := by
  induction l with
  | nil => rfl
  | cons x l ih =>
    rw [List.map_cons, List.min?_cons, ← ih, lowestLane]
    cases lowestLane l with
    | none => rfl
    | some y => simp only [Option.map_some, Option.elim_some]; split <;> simp <;> omega

/-- The lowest lane of a class is the least of its lanes, from any of its members on. -/
theorem lane_lowestLane_of_mem {l : List Thread} {x : Thread} (hx : x ∈ l) :
    ((lowestLane l).map (·.lane)).getD x.lane = (l.map (·.lane)).foldl min x.lane := by
  rw [lane_lowestLane, List.foldl_min]
  cases h : (l.map (·.lane)).min? with
  | none => simp
  | some n => exact (min_eq_right ((List.min?_eq_some_iff.1 h).2 _ (List.mem_map_of_mem hx))).symm

/-- An injective function keeps the number of different values. -/
theorem length_eraseDups_map {α β : Type} [BEq α] [LawfulBEq α] [BEq β] [LawfulBEq β] {f : α → β} (hf : Function.Injective f) :
    ∀ l : List α, (l.map f).eraseDups.length = l.eraseDups.length
  | [] => rfl
  | a :: l => by
    have hbeq : ((fun b => !b == f a) ∘ f) = fun b => !b == a := funext fun b => congrArg (! ·) (Bool.eq_iff_iff.2 (by simp [hf.eq_iff]))
    have hlen := List.length_filter_le (fun b => !b == a) l
    rw [List.map_cons, List.eraseDups_cons, List.eraseDups_cons, List.filter_map, hbeq, List.length_cons, List.length_cons,
      length_eraseDups_map hf (l.filter fun b => !b == a)]
termination_by l => l.length

/-! ### CREDUX (R171) -/

theorem foldl_add_eq_sum (vs : List Word) (v : Word) : vs.foldl (· + ·) v = BitVec.ofNat 32 (un v + (vs.map un).sum) := by
  induction vs generalizing v with
  | nil => exact (ofNat_un v).symm
  | cons w vs ih =>
    rw [List.foldl_cons, ih, List.map_cons, List.sum_cons, BitVec.ofNat_add, ofNat_un, BitVec.ofNat_add, BitVec.ofNat_add, ofNat_un, ofNat_un,
      BitVec.add_assoc]

theorem getLsbD_foldl_and (vs : List Word) (v : Word) (i : Nat) :
    (vs.foldl (· &&& ·) v).getLsbD i = (v :: vs).all fun w => (un w).testBit i := by
  induction vs generalizing v with
  | nil => simp [testBit_un]
  | cons w vs ih => rw [List.foldl_cons, ih]; simp [testBit_un, Bool.and_assoc]

theorem getLsbD_foldl_or (vs : List Word) (v : Word) (i : Nat) :
    (vs.foldl (· ||| ·) v).getLsbD i = (v :: vs).any fun w => (un w).testBit i := by
  induction vs generalizing v with
  | nil => simp [testBit_un]
  | cons w vs ih => rw [List.foldl_cons, ih]; simp [testBit_un, Bool.or_assoc]

/-- A bit of the exclusive or is set when an odd number of words has it. -/
theorem getLsbD_foldl_xor (vs : List Word) (v : Word) (i : Nat) :
    (vs.foldl (· ^^^ ·) v).getLsbD i = (((v :: vs).filter fun w => (un w).testBit i).length % 2 == 1) := by
  induction vs generalizing v with
  | nil => cases h : v.getLsbD i <;> simp [testBit_un, h]
  | cons w vs ih =>
    rw [List.foldl_cons, ih, Bool.eq_iff_iff]
    cases hv : v.getLsbD i <;> cases hw : w.getLsbD i <;> simp [testBit_un, hv, hw]
    omega

/-- The participant that receives the result is one of those combined, so there is a first. -/
theorem creduxOf_eq (op : CredOp) {vs : List Word} (h : vs ≠ []) : creduxOf op vs = reduced op vs := by
  obtain ⟨v, vs, rfl⟩ := List.exists_cons_of_ne_nil h
  cases op with
  | add => exact foldl_add_eq_sum vs v
  | minU | minS => exact congrArg (vs.foldl · v) (funext₂ (minOf_eq _))
  | maxU | maxS => exact congrArg (vs.foldl · v) (funext₂ (maxOf_eq _))
  | and => exact eq_ofBits32 fun i _ => getLsbD_foldl_and vs v i
  | or => exact eq_ofBits32 fun i _ => getLsbD_foldl_or vs v i
  | xor => exact eq_ofBits32 fun i _ => getLsbD_foldl_xor vs v i
  | fadd => rfl
  | fmin => exact congrArg (fun f => (v :: vs).foldl f v) (funext₂ fminOf_eq)
  | fmax => exact congrArg (fun f => (v :: vs).foldl f v) (funext₂ fmaxOf_eq)

/-! ### The five instructions -/

theorem shfl_isCrewOp {g : Guard} {T : Bool} {m : ShflMode} {w : BitVec 3} {d a b c : Reg} {op : CrewOp}
    (h : crossLaneOps (.shfl g T m w d a b c) = some op) : IsCrewOp (.shfl g T m w d a b c) op := by
  obtain rfl := Option.some.inj h
  exact isCrewOp_one (fun _ => rfl) fun ps t x _ => by rw [shflSource_eq]; rfl

theorem vote_isCrewOp {g : Guard} {T : Bool} {m : VoteMode} {q : PSrc} {d : Reg} {op : CrewOp}
    (h : crossLaneOps (.vote g T m q d) = some op) : IsCrewOp (.vote g T m q d) op := by
  cases m with
  | mask => exact Option.some.inj h ▸ isCrewOp_one (fun _ => rfl) fun ps _ _ _ => voteMask_eq_ofBits32 ps q
  | count => exact Option.some.inj h ▸ isCrewOp_one (fun _ => rfl) fun ps _ _ _ => congrArg _ (popFrom_voteMask ps q)
  | test c =>
    obtain rfl := Option.some.inj h
    refine isCrewOp_pred (fun _ => rfl) fun ps t x => ?_
    rw [popFrom_voteMask]
    cases c with
    | none | some | every => rfl
    | mixed => exact (Bool.decide_and _ _).symm

theorem matchLanes_isCrewOp {g : Guard} {T b64 : Bool} {m : MatchMode} {d a : Reg} {op : CrewOp}
    (h : crossLaneOps (.matchLanes g T b64 m d a) = some op) : IsCrewOp (.matchLanes g T b64 m d a) op := by
  obtain rfl := Option.some.inj h
  refine isCrewOp_one (fun _ => rfl) fun ps t x hx => congrArg (BitVec.ofNat 32) ?_
  have hkey := matchKey_toNat b64 a t
  have hmates : (ps.filter fun y => matchKey b64 a y (t.crewOf y) == matchKey b64 a x (t.crewOf x)) =
      ps.filter fun y => (if b64 then rd64 t y a else un (rd t y a)) == if b64 then rd64 t x a else un (rd t x a) := by
    refine List.filter_congr fun y _ => Bool.eq_iff_iff.2 ?_
    rw [beq_iff_eq, beq_iff_eq, ← hkey y, ← hkey x, BitVec.toNat_inj]
  cases m with
  | first => exact hmates ▸ lane_lowestLane_of_mem (List.mem_filter.2 ⟨hx, beq_self_eq_true _⟩)
  | rank => exact congrArg (fun l => (List.filter (fun y : Thread => decide (y.lane < x.lane)) l).length) hmates
  | kinds =>
    have hkeys : (ps.map fun y => matchKey b64 a y (t.crewOf y)).map BitVec.toNat = ps.map fun y => if b64 then rd64 t y a else un (rd t y a) := by
      rw [List.map_map]; exact List.map_congr_left fun y _ => hkey y
    exact hkeys ▸ (length_eraseDups_map (fun _ _ => BitVec.eq_of_toNat_eq) _).symm

theorem credux_isCrewOp {g : Guard} {T : Bool} {m : CredOp} {d a : Reg} {op : CrewOp}
    (h : crossLaneOps (.credux g T m d a) = some op) : IsCrewOp (.credux g T m d a) op :=
  Option.some.inj h ▸ isCrewOp_one (fun _ => rfl) fun _ _ _ hx => creduxOf_eq m (List.ne_nil_of_mem (List.mem_map_of_mem hx))

theorem elect_isCrewOp {g : Guard} {d : Reg} {op : CrewOp} (h : crossLaneOps (.elect g d) = some op) : IsCrewOp (.elect g d) op :=
  Option.some.inj h ▸ isCrewOp_pred (fun _ => rfl) fun _ _ _ => rfl

theorem isCrewOp_of_crossLaneOps {i : Instr} {op : CrewOp} (h : crossLaneOps i = some op) : IsCrewOp i op := by
  cases i with
  | shfl => exact shfl_isCrewOp h
  | vote => exact vote_isCrewOp h
  | matchLanes => exact matchLanes_isCrewOp h
  | credux => exact credux_isCrewOp h
  | elect => exact elect_isCrewOp h
  | _ => nomatch h

end Sys2Proof.Machine

section

open Sys2Proof Sys2Proof.Machine Sys2Proof.Spec

/-- Settles O12: each form is a lane-wise operation whose participants, when all lanes hold their operands, are the active lanes, and
what it gives a participant is the value of R168 to R172. -/
theorem crossLane : Obligations.CrossLane := by
  unfold Obligations.CrossLane
  intro i op h s sl t hs hold
  exact (isCrewOp_of_crossLaneOps h).regsWritten hs hold

end

/-! The service registers (chapter 24, Table 24.2): what a master reads of them, what fundamental reset leaves in them, and that nothing a
function-level reset does reaches them. -/

namespace Sys2Proof.Machine

namespace State

/-! ### What leaves the service registers as they are -/

/-- An operation over a list leaves the service registers alone when each of its steps does. -/
theorem foldl_svc {β : Type} {f : State → β → State} (hf : ∀ s b, (f s b).svc = s.svc) (l : List β) (s : State) :
    (l.foldl f s).svc = s.svc :=
  (List.foldl_hom State.svc (g₂ := fun v _ => v) fun s b => (hf s b).symm).symm.trans (List.foldl_fixed l)

@[simp] theorem raise_svc (s : State) (v : Nat) : (s.raise v).svc = s.svc := by
  unfold raise
  split
  · split <;> rfl
  · rfl

@[simp] theorem raiseIf_svc (s : State) (c : Bool) (v : Nat) : (s.raiseIf c v).svc = s.svc := by
  cases c
  · rfl
  · exact raise_svc s v

@[simp] theorem askLink_svc (s : State) (pa n : Nat) (op : LinkOp) : (s.askLink pa n op).svc = s.svc := by
  unfold askLink
  split
  · exact foldl_svc (fun _ _ => emit_svc ..) _ _
  · exact foldl_svc (fun _ _ => emit_svc ..) _ _
  · rfl

@[simp] theorem askPieces_svc (s : State) (op : LinkOp) (ps : List (Nat × Nat)) : (s.askPieces op ps).svc = s.svc :=
  foldl_svc (fun _ _ => askLink_svc ..) _ _

@[simp] theorem agentWrite_svc (s : State) (pa : Nat) (bs : List Byte) : (s.agentWrite pa bs).svc = s.svc := by
  unfold agentWrite
  split
  · rfl
  · simp

@[simp] theorem askWalk_svc (s : State) (asid va : Nat) : (s.askWalk asid va).svc = s.svc :=
  foldl_svc (fun _ _ => askLink_svc ..) _ _

@[simp] theorem fillTlb_svc (s : State) (die asid va : Nat) : (s.fillTlb die asid va).svc = s.svc := by
  unfold fillTlb
  split
  · rfl
  · refine foldl_svc (fun s v => ?_) _ s
    split
    · split <;> rfl
    · rfl

@[simp] theorem cacheWalks_svc (s : State) (die asid : Nat) (u : Use) (v : Via) (vas : List Nat) :
    (s.cacheWalks die asid u v vas).svc = s.svc := by
  refine foldl_svc (fun s va => ?_) vas s
  split
  · rfl
  · split
    · simp
    · rfl

/-! ### Reports, traces and packets -/

@[simp] theorem fbWrite_svc (s : State) (d : Nat) (entry : List Byte) : (s.fbWrite d entry).svc = s.svc := by simp [fbWrite]

@[simp] theorem record_svc (s : State) (d : Nat) (entry : List Byte) (act : WaitAct) : (s.record d entry act).1.svc = s.svc := by
  unfold record
  split
  · exact fbWrite_svc s d entry
  · rfl

@[simp] theorem reportWrite_svc (s : State) (die asid va source queue : Nat) (bs : List Byte) :
    (s.reportWrite die asid va source queue bs).svc = s.svc := by
  unfold reportWrite
  split <;> simp

@[simp] theorem writeStatus_svc (s : State) (asid : Nat) : (s.writeStatus asid).svc = s.svc := by
  unfold writeStatus
  split
  · rfl
  · exact reportWrite_svc ..

@[simp] theorem traceOn_svc (s : State) (n : Nat) (rec : List Byte) : (s.traceOn n rec).svc = s.svc := by
  unfold traceOn
  dsimp only
  repeat' split
  all_goals simp

@[simp] theorem trace_svc (s : State) (asid kind queue engine seq detail extra : Nat) :
    (s.trace asid kind queue engine seq detail extra).svc = s.svc :=
  foldl_svc (fun _ _ => traceOn_svc ..) _ _

@[simp] theorem completePacket_svc (s : State) (q id : Nat) : (s.completePacket q id).svc = s.svc := by
  unfold completePacket
  dsimp only
  split <;> simp

@[simp] theorem retireGridWith_svc (s : State) (gid word : Nat) : (s.retireGridWith gid word).svc = s.svc := by
  unfold retireGridWith
  split
  · rfl
  · split
    · rfl
    · dsimp only
      repeat' split
      all_goals simp

@[simp] theorem spoilBytes_svc (s : State) (die asid : Nat) (v : Via) (vas : List Nat) : (s.spoilBytes die asid v vas).svc = s.svc := by
  refine (foldl_svc (fun s p => ?_) _ _).trans (drawn_svc s)
  dsimp only
  split <;> simp

/-! ### The end of a context and of a collective (R330, R350) -/

@[simp] theorem l1Invalidate_svc (s : State) (asid : Nat) : (s.l1Invalidate asid).svc = s.svc := rfl

@[simp] theorem abortEngs_svc (s : State) (asid : Nat) : (s.abortEngs asid).svc = s.svc := by
  refine foldl_svc (fun s e => ?_) _ s
  split
  · rfl
  · exact spoilBytes_svc ..

@[simp] theorem finishTermination_svc (s : State) (asid : Nat) : (s.finishTermination asid).svc = s.svc := by
  refine (foldl_svc (fun s p => raiseIf_svc ..) _ _).trans ?_
  simp

theorem terminateContext_svc (s : State) (asid : Nat) : (s.terminateContext asid).svc = s.svc := by
  -- the issue slot decides whether the rest waits for a clause boundary
  have atBoundary (s : State) : (match s.issue with
      | some sl => if ((s.team? sl.team).map Team.asid) = some asid then s else s.finishTermination asid
      | none => s.finishTermination asid).svc = s.svc := by
    split
    · split
      · rfl
      · exact finishTermination_svc s asid
    · exact finishTermination_svc s asid
  unfold terminateContext
  split
  · rfl
  · split
    · rfl
    · refine (atBoundary _).trans ((foldl_svc (fun _ _ => modQueue_svc ..) _ _).trans
        ((foldl_svc (fun s q => foldl_svc (fun s p => ?_) _ s) _ _).trans
          ((foldl_svc (fun _ _ => retireGridWith_svc ..) _ _).trans (foldl_svc (fun _ _ => modQueue_svc ..) _ _))))
      split
      · exact spoilBytes_svc ..
      · rfl

theorem writeSpan_svc (die asid : Nat) (v : Via) (fuel : Nat) (s : State) (va : Nat) (bs : List Byte) :
    (s.writeSpan die asid va v fuel bs).1.svc = s.svc := by
  induction fuel generalizing s va bs with
  | zero => rfl
  | succ fuel ih =>
    unfold writeSpan
    split
    · rfl
    · dsimp only
      split
      · rfl
      · simp [ih]

@[simp] theorem writeRecord_svc (s : State) (c : Coll) (bs : List Byte) : (s.writeRecord c bs).svc = s.svc := by
  unfold writeRecord
  dsimp only
  split
  · exact record_svc ..
  · exact writeSpan_svc ..

@[simp] theorem spoilOverlap_svc (s : State) (c : Coll) : (s.spoilOverlap c).svc = s.svc := by
  unfold spoilOverlap
  split
  · rfl
  · exact spoilBytes_svc ..

theorem endColl_svc (s : State) (c : Coll) (status reason : Nat) (lost : Option Nat) (hist : Option (List Nat)) :
    (s.endColl c status reason lost hist).svc = s.svc := by
  have aborts (s : State) : (c.peers.foldl (fun s p => s.sendTo c p.rank fun a => .abort a c.group c.rank reason) s).svc = s.svc :=
    foldl_svc (fun _ _ => emit_svc ..) _ _
  simp only [endColl, completePacket_svc, writeRecord_svc]
  repeat' split
  all_goals simp [aborts]

/-! ### Stores that a core's write path has accepted -/

@[simp] theorem pokePieces_svc (s : State) (who : Option Writer) (ps : List (Nat × Nat)) (bs : List Byte) :
    (s.pokePieces who ps bs).svc = s.svc := by
  induction ps generalizing s bs with
  | nil => rfl
  | cons p ps ih => simp [pokePieces, ih]

@[simp] theorem l1Store_svc (s : State) (core asid va : Nat) (bs : List Byte) : (s.l1Store core asid va bs).svc = s.svc := rfl

@[simp] theorem l1Stores_svc (s : State) (core asid : Nat) (ps : List (Nat × Nat)) (bs : List Byte) :
    (s.l1Stores core asid ps bs).svc = s.svc := by
  induction ps generalizing s bs with
  | nil => rfl
  | cons p ps ih => simp [l1Stores, ih]

@[simp] theorem stFalls_svc (s : State) (a : Access) : (s.stFalls a).svc = s.svc := by
  unfold stFalls
  split
  · rfl
  · exact foldl_svc (fun _ _ => modThread_svc ..) _ _

@[simp] theorem request_svc (s : State) (a : Access) (ps : List (Nat × Nat)) : (s.request a ps).svc = s.svc := by
  unfold request
  split
  · rfl
  · exact askPieces_svc ..

theorem applyStore_svc (s : State) (a : Access) (ps : List (Nat × Nat)) : (s.applyStore a ps).svc = s.svc := by
  have runs (s : State) (ws : List (Nat × Nat × List Byte)) (who : Option Writer) :
      (ws.foldl (fun s (va, pa, bs) => (s.homeWrite pa bs who).l1Store a.core a.asid va bs) s).svc = s.svc :=
    foldl_svc (fun _ _ => by simp) _ _
  unfold applyStore
  dsimp only
  repeat' split
  all_goals simp [runs]

/-- A function-level reset keeps ownership, the service log, repairs and every other service register (R395, R396). -/
theorem functionReset_svc (s : State) : s.functionReset.svc = s.svc := by
  have finish (s : State) (a : Access) : (match a.taken with | some k => s.applyStore a k.ps | none => s).svc = s.svc := by
    split
    · exact applyStore_svc ..
    · rfl
  refine (foldl_svc (fun s a => ?_) _ _).trans ((foldl_svc (fun s c => endColl_svc ..) _ _).trans
    ((foldl_svc (fun s a => terminateContext_svc s a) _ _).trans rfl))
  dsimp only
  split
  · exact (finish _ _).trans (finish s a)
  · exact finish s a

/-! ### What a master reads -/

/-- Between 0x10000 and 0x11000 a master reads the service record alone. -/
theorem readRegister_service {s u : State} (h : u.svc = s.svc) (m : Master) {off : Nat} (lo : 0x10000 ≤ off) (hi : off < 0x11000) :
    u.readRegister m off = s.readRegister m off := by
  unfold readRegister
  dsimp only
  rw [h]
  refine ite_congr rfl (fun _ => rfl) fun _ => ?_
  -- the five registers below 0x10000, the twelve cases of the service record, and then what lies above
  iterate 5 refine ite_congr rfl (fun e => absurd e (by omega)) fun _ => ?_
  iterate 12 refine ite_congr rfl (fun _ => rfl) fun _ => ?_
  simp (disch := omega) only [↓if_neg]

end State

/-- Table 24.2's registers in a service record as fundamental reset gives them (R395). -/
structure RegistersClear (v : Service) : Prop where
  fields : v = { v with
    mgOwn := 0, mgHand := 0, offerEnd := none, mgRej := 0, pwrCap := 2400, svcVec := 0, fence := 0, apBase := 0, hostErr := 0, slwp := 0,
    fwSrc := 0, sethr := [] }
  fwStat : v.recovery = false → v.fwStat = 0

theorem serviceDefaults_of_registersClear {s : State} (h : RegistersClear s.svc) (m : Master) : Spec.ServiceDefaults s m := by
  obtain ⟨fields, fwStat⟩ := h
  constructor
  case fwStat => intro hr; simpa [State.readRegister] using fwStat hr
  case sethr =>
    intro k hk
    rw [State.readRegister, fields]
    simp (disch := omega) only [if_neg, if_pos]
    rfl
  all_goals rw [State.readRegister, fields]; simp

namespace State

/-- Whatever the boot ROM finds of the image, it leaves the registers of Table 24.2 at their defaults. -/
theorem boot_registersClear (s : State) : RegistersClear s.boot.svc := by
  unfold boot
  dsimp only
  split
  · exact ⟨rfl, fun _ => rfl⟩
  · exact ⟨rfl, nofun⟩

theorem boot_die_live (s : State) {d : Nat} (hd : d < 2) : (s.boot.die d).live = !s.fencedAt d := by
  unfold boot
  dsimp only
  interval_cases d
  · split <;> rfl
  · split <;> rfl

/-- A die that FENCE names is out of service after the reset; a power loss on the way keeps FENCE until then. -/
theorem fundamentalReset_die_live {s : State} {powerOn : Bool} {d : Nat} (hd : d < 2) (hf : s.svc.fence.testBit d = true) :
    ((s.fundamentalReset powerOn false).die d).live = false := by
  have fence : (if powerOn then s.powerLoss else s).svc.fence = s.svc.fence := by cases powerOn <;> rfl
  have named : bit d s.svc.fence = true := by rw [bit, beq_iff_eq]; simpa [Nat.testBit_eq_decide_div_mod_eq] using hf
  refine (boot_die_live _ hd).trans ?_
  simp [fencedAt, fence, named]

/-- With SVCVEC clear an event only enters the log. -/
theorem logEvent_out {s : State} (h : s.svc.svcVec = 0) (kind cls die inst detail value : Nat) :
    (s.logEvent kind cls die inst detail value).out = s.out := by
  simp [logEvent, modSvc, raiseIf, h]

end State

end Sys2Proof.Machine

section

open Sys2Proof Sys2Proof.Machine Sys2Proof.Spec

/-- Settles O43: power-on and the boot ROM leave the registers of Table 24.2 clear whatever the state was, and nothing that a function-level
reset does reaches the service record. -/
theorem serviceRegistersAtReset : Obligations.ServiceRegistersAtReset := by
  unfold Obligations.ServiceRegistersAtReset
  refine ⟨fun m => serviceDefaults_of_registersClear ⟨rfl, fun _ => rfl⟩ m, fun s m powerOn => ?_, fun s m => ?_⟩
  · have clear := State.boot_registersClear (if powerOn then s.powerLoss else s)
    refine ⟨_, rfl, serviceDefaults_of_registersClear clear m, fun d hd hf => ?_, State.logEvent_out (congrArg Service.svcVec clear.fields)⟩
    exact State.fundamentalReset_die_live hd hf
  · exact ⟨s.functionReset, rfl, fun off hi lo => State.readRegister_service s.functionReset_svc m lo hi⟩

end
